-- ==== Sys2Proof/Word.lean ====
section
/-!
DEFINITION. The word types of the Q4: the widths the manual fixes (R2, R50, R55, R58, R62, R180, R281).
-/

namespace Sys2Proof

/-- A 64-bit register word (R62). -/
abbrev Word := BitVec 64
/-- One byte of memory. -/
abbrev Byte := BitVec 8
/-- A v-register or a 128-byte scratchpad row: 32 lanes of 32 bits, lane l at bits [32l+31:32l] (R180). -/
abbrev Row := BitVec 1024
/-- A b-register in the pair layout of R284: lane l has its value at byte 8l and its bound at byte 8l+4 (R281). -/
abbrev BReg := BitVec 2048
/-- A 64-byte line of memory, byte k at bits [8k+7:8k] (R2). -/
abbrev Line := BitVec 512
/-- A PC: a 56-bit device virtual address, line in [55:6], slot in [2:0] (R55). -/
abbrev Pc := BitVec 56
/-- An encoded instruction (R58). -/
abbrev W96 := BitVec 96

end Sys2Proof
end

