-- ==== Sys2Proof/Machine/Bits.lean ====
section
/-!
DEFINITION. Bit fields, sign extension and byte order (R2).
-/

namespace Sys2Proof

/-- x[hi:lo] as `w` bits from bit `lo` (R2). -/
abbrev bits {n : Nat} (x : BitVec n) (lo w : Nat) : BitVec w := x.extractLsb' lo w
/-- x[n] (R2). -/
abbrev bitAt {n : Nat} (x : BitVec n) (i : Nat) : Bool := x.getLsbD i

/-- x with the `w` bits from `lo` replaced by `v`. -/
def setBits {n w : Nat} (x : BitVec n) (lo : Nat) (v : BitVec w) : BitVec n :=
  let m : BitVec n := (BitVec.allOnes w).setWidth n <<< lo
  (x &&& ~~~m) ||| (v.setWidth n <<< lo)

/-- x with bit `i` set to `b`. -/
def setBit {n : Nat} (x : BitVec n) (i : Nat) (b : Bool) : BitVec n := setBits x i (BitVec.ofBool b)

/-- Byte k of a value stored little-endian (R2). -/
def byteOf {n : Nat} (x : BitVec n) (k : Nat) : Byte := x.extractLsb' (8 * k) 8

/-- The `n` bytes of a value, lowest address first (R2). -/
def bytesOf {w : Nat} (n : Nat) (x : BitVec w) : List Byte := (List.range n).map (byteOf x)

/-- The number whose little-endian bytes are given (R2). -/
def natOfBytes : List Byte → Nat
  | [] => 0
  | b :: bs => b.toNat + 256 * natOfBytes bs

/-- The value of a list of bytes, lowest address first (R2). -/
def ofBytes (w : Nat) (bs : List Byte) : BitVec w := BitVec.ofNat w (natOfBytes bs)

/-- Sign extension of a displacement to 64 bits. -/
abbrev sext64 {n : Nat} (x : BitVec n) : Word := x.signExtend 64

/-- EA := (base + sext(disp)) mod 2^56 (R167). (DEDUCED, log entry 20.) -/
def effAddr {n : Nat} (base : Word) (disp : BitVec n) : Pc := (base + sext64 disp).setWidth 56

/-- Number of one bits of x. -/
def popcount {n : Nat} (x : BitVec n) : Nat := (List.range n).foldl (fun k i => k + (x.getLsbD i).toNat) 0

/-- Leading zero bits of x. -/
def leadingZeros {n : Nat} (x : BitVec n) : Nat := n - 1 - Nat.log2 x.toNat + (if x = 0 then 1 else 0)

/-- Lane l of a row (R180). -/
def Row.lane (r : Row) (l : Nat) : BitVec 32 := r.extractLsb' (32 * l) 32
/-- The row whose lane l is `f l` (R180). -/
def Row.ofLanes (f : Nat → BitVec 32) : Row :=
  (List.range 32).foldr (fun l (a : Row) => (a <<< 32) ||| (f l).setWidth 1024) 0
/-- The lanes of `new` where the mask bit is set, those of `old` elsewhere (R181). -/
def Row.merge (m : BitVec 32) (old new : Row) : Row :=
  Row.ofLanes fun l => if m.getLsbD l then new.lane l else old.lane l

/-- A row whose lanes all hold x. -/
def Row.splat (x : BitVec 32) : Row := Row.ofLanes fun _ => x

/-- ⌈a / b⌉. -/
def ceilDiv (a b : Nat) : Nat := (a + b - 1) / b

/-- Sign-extended value of the low `w` bits of x. -/
def sxLow (w : Nat) (x : Word) : Word := (x.setWidth w).signExtend 64
/-- Zero-extended value of the low `w` bits of x. -/
def zxLow (w : Nat) (x : Word) : Word := (x.setWidth w).setWidth 64

end Sys2Proof
end

