-- ==== Sys2Proof/Syntax.lean ====
section
/-!
DEFINITION. The instructions of the Q4 and the device's own steps: one constructor per row of the opcode table.
Register numbers, variants and modifiers are constructors or small bit vectors; raw encodings stay in Decode.
-/

namespace Sys2Proof

/-- The identity registers of class 100 (R62). -/
inductive IdReg
  | die | row | col | slot | chip | stage | replica
  | extm | extn | extk | orgm | orgn | orgk | grp | cxid
  deriving DecidableEq, Repr

/-- A register specifier (R62). `spi n` is `[sn]+`, `sp n` is `[sn]`. -/
inductive Spec
  | s (n : BitVec 5) | v (n : BitVec 4) | b (n : BitVec 3)
  | lw | ln | le | ls
  | q (n : BitVec 2)
  | id (r : IdReg)
  | t (n : BitVec 2)
  | spi (n : BitVec 5) | sp (n : BitVec 5)
  deriving DecidableEq, Repr

/-- The third operand of the binary form: register B or the immediate X (R60). -/
inductive Src
  | reg (r : Spec) | imm (x : BitVec 48)
  deriving DecidableEq, Repr

/-- The binary form of class 0 (R60, R152); `f` is MOD[0]. -/
structure Bin where
  f : Bool
  d : Spec
  a : Spec
  src : Src
  deriving DecidableEq, Repr

/-- ADD and SUB: wrap, signed or unsigned saturation (R152). -/
inductive SatMode
  | wrap | ss | us
  deriving DecidableEq, Repr

/-- Access widths of the scalar loads and stores (R167). -/
inductive Width
  | w8 | w16 | w32 | w64
  deriving DecidableEq, Repr

/-- Widths of SEXT and ZEXT (R152). -/
inductive XWidth
  | w8 | w16 | w32
  deriving DecidableEq, Repr

/-- Conditions of CMP and CMPI (R154). -/
inductive Cond
  | eq | ne | lt | le | gt | ge | ltu | leu | gtu | geu
  deriving DecidableEq, Repr

/-- Conditions of BRC (R156). -/
inductive BCond
  | t | f | z | nz | n | nn | c | nc | v | nv | eos | neos
  deriving DecidableEq, Repr

/-- The branch form of X (R60): line displacement and slot. -/
structure Tgt where
  disp : BitVec 45
  slot : BitVec 3
  deriving DecidableEq, Repr

/-- Where CALL takes its target from (R155). -/
inductive CallKind
  | direct (t : Tgt) | indirect (a : Spec)
  deriving DecidableEq, Repr

/-- The control registers (R65, R360, R371). -/
inductive CReg
  | flags | pc | thnd | tcause | tpc | taddr | tinfo | cvmt | cvma | cvmr | lc0 | lc1
  | waitlim | srk | prov | stq | wstep | orient | loadr | qcap
  | region (g : BitVec 4)
  | errid | mbxcnt
  | avc (i : BitVec 4) | ava (i : BitVec 4) | avs (i : BitVec 2) | avd (i : BitVec 1)
  | alarm | lqbase | lqasid | sptb | astb | dtemp | tlim
  | fbctl | llmon
  | lse (k : BitVec 3) | lss (k : BitVec 3) | lsp (p : BitVec 1) | lsg
  | crtb
  deriving DecidableEq, Repr

/-- The masks of DEAD (R155). -/
inductive DeadMask
  | sv (v : BitVec 16) (s : BitVec 32) | b (m : BitVec 8)
  deriving DecidableEq, Repr

/-- Lane types (R70). -/
inductive LaneT
  | i32 | u32 | f32 | i16x2 | bf16x2 | i8x4
  deriving DecidableEq, Repr

/-- Rounding modes (R98). -/
inductive RMode
  | rne | rtz | rup | rdn | sr
  deriving DecidableEq, Repr

/-- Element formats (R86). -/
inductive Fmt
  | raw | int8 | int16 | int32 | int64 | fp32 | bf16 | fp16 | e4m3n | e5m2 | int4g | int3g | bq16
  deriving DecidableEq, Repr

/-- Join types (R119). -/
inductive JT
  | priv | publ | maxu | maxs | minu | mins | bor | fill | fillt | cnt | cntl | fold | bpriv
  deriving DecidableEq, Repr

/-- Tile geometries other than none (R97). -/
inductive TG
  | t8 | t16 | t32 | t64
  deriving DecidableEq, Repr

/-- Triggers of TRD (R136): the F-kind, or the registers sB .. sB+m. -/
inductive Trig
  | filled | vals (b : BitVec 5) (m : BitVec 2)
  deriving DecidableEq, Repr

/-- Conditions of VCMP (R185). -/
inductive VCond
  | eq | ne | lt | le | gt | ge
  deriving DecidableEq, Repr

/-- Operators of VRED and VSCAN (R185). -/
inductive VOp
  | add | min | max | and | or | xor
  deriving DecidableEq, Repr

/-- Operand pairs of MMA and MMAG (R245). -/
inductive MPair
  | e4e4 | e5e4 | bf16 | e4i4 | e4i3 | bfi4 | bfi3
  deriving DecidableEq, Repr

/-- Endpoint kinds of COPY and COPY2 (R307): local scratchpad, memory, remote scratchpad. -/
inductive EndK
  | p | m | r
  deriving DecidableEq, Repr

/-- LDV, STV and XRDV (R136, R167): lane type, .sat, mode, the v-register, base, mask, displacement. -/
structure LvOp where
  t : LaneT
  sat : Bool
  rm : RMode
  r : BitVec 4
  a : Spec
  c : Spec
  x : BitVec 45
  deriving DecidableEq, Repr

/-- VADD .. VFMS (R185). -/
structure VArith where
  t : LaneT
  sat : Bool
  rm : RMode
  d : Spec
  a : Spec
  b : Spec
  c : Spec
  deriving DecidableEq, Repr

/-- Class-3 forms with D, A, B and C (R185). -/
structure VBin where
  t : LaneT
  d : Spec
  a : Spec
  b : Spec
  c : Spec
  deriving DecidableEq, Repr

/-- VABS and VNEG (R185). -/
structure VUn where
  t : LaneT
  sat : Bool
  d : Spec
  a : Spec
  c : Spec
  deriving DecidableEq, Repr

/-- The five transcendentals (R185). -/
structure VTr where
  d : Spec
  a : Spec
  c : Spec
  deriving DecidableEq, Repr

/-- MMA and MMAG (R244); `a` is an s-register of MMA and a v-register of MMAG. -/
structure MmaOp where
  pair : MPair
  d : BitVec 2
  a : Spec
  b : Spec
  c : BitVec 5
  sb : BitVec 16
  sa : BitVec 16
  brow : Bool
  ext : Bool
  kb : BitVec 3
  deriving DecidableEq, Repr

/-- TST and TLD (R249); `d` is TST's SR index base. -/
structure TileIo where
  fmt : Fmt
  w : Bool
  tile : BitVec 2
  off : Spec
  c : Spec
  ext : Bool
  st : BitVec 16
  deriving DecidableEq, Repr

/-- The wire fields of messages (R297). -/
structure Wire where
  fmt : Fmt
  rm : RMode
  sat : Bool
  wait : Bool
  deriving DecidableEq, Repr

/-- COPY and COPY2 (R310). -/
structure CopyOp where
  d : BitVec 5
  a : Spec
  b : Spec
  c : BitVec 5
  sat : Bool
  rm : RMode
  dfmt : Fmt
  sfmt : Fmt
  dk : EndK
  sk : EndK
  deriving DecidableEq, Repr

/-- One constructor per row of spec/opcode_table.json. -/
inductive Instr
  -- class 0 (R152)
  | add (m : SatMode) (o : Bin) | sub (m : SatMode) (o : Bin)
  | mul (o : Bin) | mulh (u : Bool) (o : Bin) | div (u : Bool) (o : Bin) | rem (u : Bool) (o : Bin)
  | and (o : Bin) | or (o : Bin) | xor (o : Bin) | andn (o : Bin)
  | shl (o : Bin) | shr (o : Bin) | sar (o : Bin) | rotl (o : Bin)
  | min (u : Bool) (o : Bin) | max (u : Bool) (o : Bin)
  | clz (d a : Spec) | popc (d a : Spec)
  | bfx (sx : Bool) (d a : Spec) (wm1 lo : BitVec 6) | bfi (d a : Spec) (wm1 lo : BitVec 6)
  | li (d : Spec) (imm : Word)
  | lea (sh : BitVec 3) (d a b : Spec) (x : BitVec 48)
  | sel (d a b : Spec)
  | cmp (cc : Cond) (skip : BitVec 2) (a b : Spec)
  | cmpi (cc : Cond) (skip : BitVec 2) (a : Spec) (x : BitVec 48)
  | test (z : Bool) (skip : BitVec 2) (a : Spec) (src : Src)
  | crand (d a b : Spec)
  | sext (w : XWidth) (d a : Spec) | zext (w : XWidth) (d a : Spec)
  -- class 1 (R155, R39, R68)
  | br (t : Tgt) | brc (cc : BCond) (t : Tgt) | jmp (a : Spec)
  | call (k : CallKind) (d : BitVec 5) | ret (a : Spec)
  | loop (l1 : Bool) (a : Spec) (t : Tgt) | loopq (l1 : Bool) (q : BitVec 2) (t : Tgt)
  | align (n : BitVec 8)
  | mfc (d : Spec) (r : CReg) | mtc (r : CReg) (a : Spec)
  | flagsWrite (a : Spec) | loopCounterWrite (l1 : Bool) (a : Spec) | regionWrite (g : BitVec 4) (a : Spec)
  | linkStatusClear (r : CReg) (a : Spec) | alarmWrite (a : Spec) | holdtr (a : Spec)
  | rsv (d : Spec) (a : Spec) | dead (m : DeadMask)
  | trap (a : Spec) (n : BitVec 16) | sleep (n : BitVec 32)
  | fenceX (to_ from_ : BitVec 5)
  -- class 2: core path (R167)
  | ld (w : Width) (sx : Bool) (d a : Spec) (x : BitVec 48) | st (w : Width) (a b : Spec) (x : BitVec 48)
  | ldv (o : LvOp) | stv (o : LvOp)
  | spld (w : Width) (sx : Bool) (d a : Spec) (x : BitVec 48) | spst (w : Width) (a b : Spec) (x : BitVec 48)
  | drain (rel : Bool) (a : Spec) (x : BitVec 48)
  -- class 2: join engine (R136)
  | jst (jt : JT) (wait : Bool) (a b : Spec) (x : BitVec 48)
  | jstv (jt : JT) (wait : Bool) (a : Spec) (b : BitVec 4) (c : Spec) (x : BitVec 48)
  | tfill (wait : Bool) (a b : Spec) (tg : TG) (fmt : Fmt)
  | bump (cntl : Bool) (wait : Bool) (a b : Spec) (x : BitVec 48)
  | trd (w : Bool) (trig : Trig) (d a : Spec) (x : BitVec 48)
  | xrd (sx : Bool) (d a : Spec) (x : BitVec 48) | xrdv (o : LvOp)
  | xrdt (fmt : Fmt) (sat : Bool) (d a : Spec) (rm : RMode)
  | fix (a : Spec) (x : BitVec 48) | fixr (a b : Spec) | pub (a b : Spec) | xfer (a b c : Spec)
  -- class 3 (R185)
  | vadd (o : VArith) | vsub (o : VArith) | vmul (o : VArith) | vfma (o : VArith) | vfms (o : VArith)
  | vmin (o : VBin) | vmax (o : VBin) | vabs (o : VUn) | vneg (o : VUn)
  | vcmp (cc : VCond) (o : VBin) | vsel (o : VBin) | vand (o : VBin) | vor (o : VBin) | vxor (o : VBin)
  | vshl (o : VBin) | vshr (o : VBin)
  | vcvt (src : LaneT) (h : BitVec 2) (o : VArith)
  | vrcp (o : VTr) | vrsq (o : VTr) | vsqrt (o : VTr) | vexp2 (o : VTr) | vlog2 (o : VTr)
  | vred (t : LaneT) (op : VOp) (d a c : Spec)
  | vscan (t : LaneT) (sat : Bool) (op : VOp) (d a c : Spec)
  | vperm (o : VBin) | vbcast (t : LaneT) (d a c : Spec) (lane : BitVec 5)
  | vext (t : LaneT) (d a : Spec) (el : BitVec 7)
  | vld (t : LaneT) (d a c : Spec) (x : BitVec 48)
  | vst (t : LaneT) (a b c : Spec) (x : BitVec 48)
  | vgath (o : VBin) | vscat (o : VBin)
  | vcrand (hi : Bool) (o : VBin)
  -- class 4 (R244, R249, R257)
  | mma (o : MmaOp) | mmag (o : MmaOp)
  | wmma (e5 ia ib nl wl : Bool) (d : BitVec 2) (a b : BitVec 5)
  | tclaim (w : Bool) (tile : BitVec 2) | trel (w : Bool) (tile : BitVec 2) | tzero (w : Bool) (tile : BitVec 2)
  | tst (sat : Bool) (rm : RMode) (d : Spec) (o : TileIo) | tld (o : TileIo)
  | mhint (n : BitVec 16)
  -- class 5 (R271)
  | awr (a b : Spec) (rows : BitVec 5) (arr : BitVec 2) | avfy (a b c : Spec) (rows : BitVec 5) (arr : BitVec 2)
  | amvm (d : BitVec 5) (a : Spec) (arr : BitVec 2) | acal (glim : BitVec 4) (scale : BitVec 3) (arr : BitVec 2)
  | astat (d : BitVec 3) (arr : BitVec 2) | aclaim (arr : BitVec 2) | arel (arr : BitVec 2)
  | bld (d : BitVec 3) (a : Spec) (x : BitVec 48) | bldBuf (d : BitVec 3) (grp : BitVec 5) (arr : BitVec 2)
  | bst (a : Spec) (b : BitVec 3) (x : BitVec 48)
  | badd (d a b : BitVec 3) | baddSub (d a b : BitVec 3)
  | bmul (d a : BitVec 3) (b : Spec) | bfma (d a : BitVec 3) (b : Spec)
  | bminmaxMin (d a b : BitVec 3) | bminmaxMax (d a b : BitVec 3)
  | bactRelu (d a : BitVec 3) | bactClamp (d a : BitVec 3) (b : Spec)
  | acceptGrid (i32 : Bool) (d : BitVec 4) (a : BitVec 3) (e : BitVec 8) | acceptRaw (d : BitVec 4) (a : BitVec 3)
  | bcvtF32 (d : BitVec 3) (a : BitVec 4) | bcvtI32 (d : BitVec 3) (a : BitVec 4) | bcvtBf16 (d a : BitVec 3)
  -- class 6: messages, barrier, copies (R297, R310, R323)
  | send (a b c : Spec) (q : BitVec 2) (w : Wire) | dep (d a b c : Spec) (w : Wire)
  | synst (a b c : Spec) (w : Wire) | synld (d a c : Spec) (w : Wire)
  | mcastRow (a b c : Spec) (off : BitVec 18) (w : Wire) | mcastQ (a b c : Spec) (q : BitVec 2) (w : Wire)
  | bara (d : Spec) | barw (a : Spec) | barq (d a : Spec)
  | copy (o : CopyOp) | copy2 (o : CopyOp) | dcopy (d : BitVec 5) (a b : Spec) | dzero (d : BitVec 5) (a : Spec)
  -- class 6: tasks (R338)
  | spawn (d a b : Spec) (c : BitVec 5) (child : BitVec 20)
  | migrate (a : Spec) (mask : BitVec 31)
  | tdef (d a b : Spec) (c : BitVec 5) (child : BitVec 20) (tag : BitVec 15) (count : BitVec 12)
  | tdec (a : Spec) | launch (a : Spec)
  | qcfg (a : Spec) (q : BitVec 2) (depth : BitVec 4) (prod cons : BitVec 2)
  | stage (inq : BitVec 2) (inp : Bool) (outq : BitVec 2) (outp : Bool) (rep : Bool)
  | qeos (a : Spec) (q : BitVec 2) | ldbal (margin : BitVec 4)
  -- class 7: waves (R230)
  | wbegin (sg : BitVec 2) (streamB diag : Bool) (d : BitVec 5) (a b : Spec) (lines : BitVec 8) (g : BitVec 4)
  | wloop (l1 : Bool) (n : BitVec 16) (t : Tgt) | wjmp (t : Tgt)
  | wbrvT (t : Tgt) | wbrvF (t : Tgt)
  -- class 7: supervisor (R373)
  | mbox (d : BitVec 4) | mboxNb (d : BitVec 4) | fenceu (a : Spec) | fenceuUn (a : Spec) | stest (d a : Spec)
  | preempt (a : Spec) | resume (skip wr : Bool) (a b c : Spec) | kill (a : Spec) | ckpt (d a b : Spec)
  | keyz (m : BitVec 3) | mapw (a b c : Spec) | tlbi (a b : Spec) | tlbiAs (a b : Spec) | tlbiAll (a b : Spec)
  -- the device's own steps (spec/95): contexts are named by key, cores by core number, packets and operations by id
  | annulUnit (cx : Nat) | parkResume (cx : Nat)
  | mailboxRecordAccept (die : Nat)
  | sleepExpiry (cx : Nat) | alignTimeout (cx : Nat) | waitLimitExpiry (cx : Nat) | barqTimeout (cx : Nat)
  | transcendentalComplete (cx : Nat)
  | pageWalkComplete (walk : Nat) | lineRequest (pkt : Nat) | lineResponse (pkt : Nat)
  | joinApply (pkt : Nat) | thresholdRegister (pkt : Nat) | waiterRetry (pkt : Nat) | freezeApply (pkt : Nat)
  | exactRead (pkt : Nat) | stqAcknowledge (pkt : Nat)
  | depositArrival (pkt : Nat) | directoryForward (pkt : Nat) | forwardExpiry (core : Nat) (cx : Nat)
  | queueEntryArrival (pkt : Nat) | rowLanding (pkt : Nat) | deferredLanding (pkt : Nat) | synldRequest (pkt : Nat)
  | mcastDelivery (pkt : Nat)
  | copyComplete (op : Nat) | pageOperationComplete (op : Nat) | xrdtLanding (op : Nat) | bstComplete (op : Nat)
  | tfillSent (op : Nat) | matrixOpComplete (core : Nat)
  | rampLevelStep (core : Nat) | rampIdleDescent (core : Nat) | hintLapse (core : Nat)
  | awrComplete (arr : Nat) | avfyComplete (arr : Nat) | acalComplete (arr : Nat) | amvmComplete (arr : Nat)
  | waveStreamStart (st : Nat) | waveStep (st core : Nat) | voteResult (st : Nat) | waveBreak (st : Nat)
  | waveTokenLanding (st : Nat) | streamResume (st : Nat)
  | launchRecordTake (die : Nat) | contextArrival (pkt : Nat) | spillReturn (core : Nat) | dispatch (core : Nat)
  | taskRowDecrement (pkt : Nat) | replicaAdd (core q : Nat) | replicaDiscard (core q : Nat)
  | contextSave (cx : Nat) | killCleanup (cx : Nat)
  | packetForward (pkt : Nat) | linkFlitReceive (link : Nat) | retrain (link : Nat) | llmonWindow (die : Nat)
  | transitDrainEnd (die : Nat)
  | unitErrorDetect (unit : Nat) | selfTestComplete (unit : Nat) | securityAlarm (die src : Nat)
  | thermalThrottle (die : Nat) (temp : Nat) | throttleRelease (die : Nat) (temp : Nat)
  | dieReset (die : Nat) | boot (die : Nat) | linkTrainingComplete (link : Nat) (rev : Bool)
  -- the instructions without operands: NOP, RTE, BARJ, QUIT, and the core steps of a stream
  | nop | rte | barj | barjLeave | quit | wend | wvoteAnd | wvoteOr | wckpt
  deriving DecidableEq, Repr

end Sys2Proof
end

