-- ==== Sys2Proof/WellFormed.lean ====
section
/-!
DEFINITION. Well-formed instructions: every condition that R59 checks at decode beyond the layout of the fields.
`w` says that the instruction stands in a wave stream (R62, R213); the other contexts are ordinary.
-/

namespace Sys2Proof

/-! ### Operand classes (R62, R182, R213, R347) -/

/-- Source `s`: an s-register or a stage queue (R347); a stream that names a queue is refused when it is loaded (R215).
(DEDUCED, log entry 19.) -/
def Spec.isS (_w : Bool) : Spec → Bool
  | .s _ => true
  | .q _ => true
  | _ => false

/-- Source `s` of class 5, which accepts class 000 only (R271). -/
def Spec.isS5 : Spec → Bool
  | .s _ => true
  | _ => false

/-- Source `s` of classes 0 and 3: also lw and ln in a stream (R213). -/
def Spec.isSL (w : Bool) : Spec → Bool
  | .lw | .ln => w
  | r => r.isS w

/-- The mask or selector field C of class 3: class 000 alone (R181), and lw and ln in a stream (R213). (DEDUCED, log entry
19.) -/
def Spec.isC (w : Bool) : Spec → Bool
  | .s _ => true
  | .lw | .ln => w
  | _ => false

/-- Source `s, id` (R152, R155, R167), without the link registers. -/
def Spec.isSI (w : Bool) : Spec → Bool
  | .id _ => true
  | r => r.isS w

/-- Source `s, id` of class 0 and of SPST: also lw and ln in a stream (R213). -/
def Spec.isSIL (w : Bool) : Spec → Bool
  | .lw | .ln => w
  | r => r.isSI w

/-- Destination `s` of classes 0 and 3 and of SPLD: also le and ls in a stream (R213). -/
def Spec.isDL (w : Bool) : Spec → Bool
  | .le | .ls => w
  | r => r.isS w

/-- `v` as a source of class 3 (R213). -/
def Spec.isv (w : Bool) : Spec → Bool
  | .v _ => true
  | .lw | .ln => w
  | _ => false

/-- `v` as a destination of class 3 (R213). -/
def Spec.isvD (w : Bool) : Spec → Bool
  | .v _ => true
  | .le | .ls => w
  | _ => false

/-- A scratchpad operand `[sN]+` or `[sN]`. -/
def Spec.isRowOp : Spec → Bool
  | .sp _ | .spi _ => true
  | _ => false

/-- `V` as a source (R182). -/
def Spec.isV (w : Bool) (r : Spec) : Bool := r.isRowOp || r.isv w
/-- `V` as a destination (R182). -/
def Spec.isVD (w : Bool) (r : Spec) : Bool := r.isRowOp || r.isvD w
/-- `V`, read and written: the link registers read as sources only (R62). -/
def Spec.isVRW (r : Spec) : Bool := r.isRowOp || r.isv false
/-- `V/s` (R182). -/
def Spec.isVs (w : Bool) : Spec → Bool
  | .s _ => true
  | r => r.isV w

/-- `s or v` (R185, R271). -/
def Spec.issv (w : Bool) : Spec → Bool
  | .s _ => true
  | r => r.isv w

/-- A payload of SYNST, SYNLD and MCAST: `v` or `[sN]` (R297). -/
def Spec.isPayload : Spec → Bool
  | .v _ | .sp _ => true
  | _ => false

/-- A register that takes a deposit: s1-s31, v0-v15, b0-b7 (R163, R297). -/
def Spec.isDeposit : Spec → Bool
  | .s n => n != 0
  | .v _ | .b _ => true
  | _ => false

/-- The two specifiers are of one class (R299). -/
def Spec.sameClass : Spec → Spec → Bool
  | .s _, .s _ | .v _, .v _ | .b _, .b _ => true
  | _, _ => false

/-! ### Small field conditions -/

def LaneT.isFloat : LaneT → Bool
  | .f32 | .bf16x2 => true
  | _ => false
def LaneT.isInt (t : LaneT) : Bool := !t.isFloat
/-- i32, u32 and f32. -/
def LaneT.is32 : LaneT → Bool
  | .i32 | .u32 | .f32 => true
  | _ => false
/-- Elements per lane p (R180). -/
def LaneT.elems : LaneT → Nat
  | .i32 | .u32 | .f32 => 1
  | .i16x2 | .bf16x2 => 2
  | .i8x4 => 4

def Tgt.wf (t : Tgt) : Bool := t.slot.toNat ≤ 4

def Src.wf (w : Bool) : Src → Bool
  | .reg r => r.isSIL w
  | .imm _ => true

def Bin.wf (w : Bool) (o : Bin) : Bool := o.d.isDL w && o.a.isSIL w && o.src.wf w

/-- The immediate of a shift lies in 0..63 (R152). -/
def Bin.wfShift (w : Bool) (o : Bin) : Bool :=
  o.wf w && match o.src with
    | .imm x => x.toNat ≤ 63
    | .reg _ => true

/-- lo + width ≤ 64 (R152). -/
def bitFieldWf (wm1 lo : BitVec 6) : Bool := lo.toNat + wm1.toNat + 1 ≤ 64

/-- Rounding mode of vadd .. vfms: 0-3 for float, 0 for int (R185, R190). -/
def arithModeWf (t : LaneT) (m : RMode) : Bool :=
  if t.isFloat then m != .sr else m == .rne

def VArith.wf (w : Bool) (o : VArith) : Bool :=
  o.d.isVD w && o.a.isVs w && o.b.isVs w && o.c.isC w && arithModeWf o.t o.rm
/-- VFMA and VFMS read D. -/
def VArith.wfAcc (w : Bool) (o : VArith) : Bool :=
  o.d.isVRW && o.a.isVs w && o.b.isVs w && o.c.isC w && arithModeWf o.t o.rm
def VBin.wf (w : Bool) (o : VBin) : Bool := o.d.isVD w && o.a.isVs w && o.b.isVs w && o.c.isC w
def VUn.wf (w : Bool) (o : VUn) : Bool :=
  o.d.isVD w && o.a.isVs w && o.c.isC w && o.t != .u32 && (!o.sat || o.t.isInt)
def VTr.wf (w : Bool) (o : VTr) : Bool := o.d.isVD w && o.a.isVs w && o.c.isC w
def LvOp.wf (w : Bool) (o : LvOp) : Bool := o.a.isS w && o.c.isS w

/-- The field h of VCVT (R193). -/
def cvtHalfWf (src dst : LaneT) (h : BitVec 2) : Bool :=
  let ps := src.elems
  let pd := dst.elems
  h.toNat < Nat.max (ps / pd) (pd / ps)

/-- For f32 only add, min and max (R185). -/
def opWf (t : LaneT) (op : VOp) : Bool :=
  t.is32 && (t != .f32 || op == .add || op == .min || op == .max)

def JT.forJst : JT → Bool
  | .maxu | .maxs | .minu | .mins | .bor | .fill | .fold => true
  | _ => false

/-- Formats of TST and TLD (R249). -/
def Fmt.forTile : Fmt → Bool
  | .int8 | .int16 | .int32 | .fp32 | .bf16 | .fp16 | .e4m3n | .e5m2 => true
  | _ => false
/-- Targets of XRDT: 0-9 (R136), and the wire formats of R106. -/
def Fmt.upToE5m2 : Fmt → Bool
  | .int4g | .int3g | .bq16 => false
  | _ => true
/-- Formats of TFILL: 1-11 (R136). -/
def Fmt.forTfill : Fmt → Bool
  | .raw | .bq16 => false
  | _ => true

def MPair.scaled : MPair → Bool
  | .e4i4 | .e4i3 | .bfi4 | .bfi3 => true
  | _ => false

/-- Raw and INT64 wires carry no mode and no saturation (R295); the formats end at E5M2 (R106). -/
def Wire.wf (q : Wire) : Bool :=
  q.fmt.upToE5m2 && ((q.fmt != .raw && q.fmt != .int64) || (q.rm == .rne && !q.sat))

def MmaOp.wfX (o : MmaOp) : Bool := o.c.toNat ≤ 30 && !(o.brow && o.pair.scaled)

/-- The format field of a memory endpoint is zero (R308); kind 3 has no constructor. -/
def CopyOp.wf (w : Bool) (o : CopyOp) : Bool :=
  o.d != 0 && o.a.isS w && o.b.isS w &&
  (o.dk != .m || o.dfmt == .raw) && (o.sk != .m || o.sfmt == .raw)

/-- Number of one bits. -/
def popcNat : Nat → Nat → Nat
  | 0, _ => 0
  | n + 1, x => x % 2 + popcNat n (x / 2)

def CReg.wf : CReg → Bool
  | .avc i | .ava i => i.toNat ≤ 9
  | .avs i => i.toNat ≤ 2
  | _ => true

/-- MTC under its own constructor: the indices that no other row of the opcode table names. -/
def CReg.plainMtc : CReg → Bool
  | .flags | .lc0 | .lc1 | .region _ | .alarm | .fbctl | .lse _ | .lss _ | .lsp _ | .lsg => false
  | _ => true

def CReg.isLinkStatus : CReg → Bool
  | .lse _ | .lss _ | .lsp _ | .lsg => true
  | _ => false

/-- The first argument of SPAWN and TDEF: s0, or s1-s28 (R338). -/
def argWf (c : BitVec 5) : Bool := c.toNat ≤ 28

/-! ### Instructions -/

/-- The instruction satisfies R59 in a stream (`w`) or in an ordinary context. The device's own steps have no word.
(DEDUCED, log entry 19.) (DEDUCED, log entry 22.) (DEDUCED, log entry 106.) -/
def Instr.wf (w : Bool) : Instr → Bool
  | .nop => true
  | .add _ o | .sub _ o | .mul o | .mulh _ o | .div _ o | .rem _ o | .and o | .or o | .xor o | .andn o
  | .min _ o | .max _ o => o.wf w
  | .shl o | .shr o | .sar o | .rotl o => o.wfShift w
  | .clz d a | .popc d a | .sext _ d a | .zext _ d a => d.isDL w && a.isSIL w
  | .bfx _ d a wm1 lo => d.isDL w && a.isSIL w && bitFieldWf wm1 lo
  | .bfi d a wm1 lo => d.isS w && a.isSIL w && bitFieldWf wm1 lo
  | .li d _ => d.isDL w
  | .lea _ d a b _ | .sel d a b | .crand d a b => d.isDL w && a.isSIL w && b.isSIL w
  | .cmp _ _ a b => a.isSIL w && b.isSIL w
  | .cmpi _ _ a _ => a.isSIL w
  | .test _ _ a src => a.isSIL w && src.wf w
  | .br t | .brc _ t => t.wf
  | .jmp a | .ret a => a.isS w
  | .call k d => d != 0 && match k with
    | .direct t => t.wf
    | .indirect a => a.isS w
  | .loop _ a t => a.isS w && t.wf
  | .loopq _ _ t => t.wf
  | .align n => n != 0
  | .mfc d r => d.isS w && r.wf
  | .mtc r a => a.isSI w && r.wf && r.plainMtc
  | .flagsWrite a | .loopCounterWrite _ a | .regionWrite _ a | .alarmWrite a | .holdtr a => a.isSI w
  | .linkStatusClear r a => a.isSI w && r.isLinkStatus
  | .rsv d a => d.isDeposit && a.isS w
  | .dead _ => true
  | .trap a _ => a.isS w
  | .rte | .sleep _ | .fenceX _ _ => true
  | .ld _ _ d a _ => d.isS w && a.isS w
  | .st _ a b _ => a.isS w && b.isSI w
  | .ldv o | .stv o | .xrdv o => o.wf w
  | .spld _ _ d a _ => d.isDL w && a.isS w
  | .spst _ a b _ => a.isS w && b.isSIL w
  | .drain _ a _ => a.isS w
  | .jst jt _ a b _ => jt.forJst && a.isS w && b.isS w
  | .jstv jt _ a _ c _ => jt.forJst && a.isS w && c.isS w
  | .tfill _ a b _ f => a.isS w && b.isS w && f.forTfill
  | .bump _ _ a b _ => a.isS w && b.isS w
  | .trd _ g d a _ => d.isS w && a.isS w && match g with
    | .filled => true
    | .vals b m => b.toNat + m.toNat ≤ 31
  | .xrd _ d a _ => d.isS w && a.isS w
  | .xrdt f _ d a _ => f.upToE5m2 && d.isS w && a.isS w
  | .fix a _ => a.isS w
  | .fixr a b | .pub a b => a.isS w && b.isS w
  | .xfer a b c => a.isS w && b.isS w && c.isS w
  | .vadd o | .vsub o | .vmul o => o.wf w
  | .vfma o | .vfms o => o.wfAcc w
  | .vmin o | .vmax o | .vsel o | .vand o | .vor o | .vxor o => o.wf w
  | .vabs o | .vneg o => o.wf w
  | .vcmp _ o => o.t.is32 && o.d.isDL w && o.a.isVs w && o.b.isVs w && o.c.isC w
  | .vshl o | .vshr o => o.wf w && o.t.isInt
  | .vcvt src h o => o.d.isVD w && o.a.isVs w && o.b.isSL w && o.c.isC w && cvtHalfWf src o.t h
  | .vrcp o | .vrsq o | .vsqrt o | .vexp2 o | .vlog2 o => o.wf w
  | .vred t op d a c => opWf t op && d.isDL w && a.isV w && c.isC w
  | .vscan t sat op d a c =>
      opWf t op && (!sat || (t != .f32 && op == .add)) && d.isVD w && a.isV w && c.isC w
  | .vperm o => o.d.isVD w && o.a.isV w && o.b.isV w && o.c.isC w
  | .vbcast _ d a c lane => d.isVD w && a.issv w && c.isC w && (a.isv w || lane == 0)
  | .vext t d a el => d.isDL w && a.isV w && decide (el.toNat < 32 * t.elems)
  | .vld _ d a c _ => d.isvD w && a.isSL w && c.isC w
  | .vst _ a b c _ => a.isSL w && b.isv w && c.isC w
  | .vgath o => o.d.isvD w && o.a.isSL w && o.b.isv w && o.c.isC w
  | .vscat o => o.d.isv w && o.a.isSL w && o.b.isv w && o.c.isC w
  | .vcrand _ o => (o.t == .u32 || o.t == .f32) && o.d.isVD w && o.a.isSL w && o.b.isSL w && o.c.isC w
  | .mma o => o.wfX && o.a.isS w && o.b.isS w
  | .mmag o => o.wfX && o.a.isv false && o.b.isS w
  | .wmma _ _ _ _ _ _ _ _ => w
  | .tclaim _ _ | .trel _ _ | .tzero _ _ | .mhint _ => true
  | .tst _ _ d o => d.isS w && o.off.isS w && o.c.isS w && o.fmt.forTile
  | .tld o => o.off.isS w && o.c.isS w && o.fmt.forTile
  | .awr a b _ _ => a.isS5 && b.isS5
  | .avfy a b c _ _ => a.isS5 && b.isS5 && c.isS5
  | .amvm d a _ => d != 0 && a.isS5
  | .acal _ scale _ => decide (scale.toNat ≤ 5)
  | .astat _ _ | .aclaim _ | .arel _ | .bldBuf _ _ _ => true
  | .bld _ a _ => a.isS5
  | .bst a _ _ => a.isS5
  | .badd _ _ _ | .baddSub _ _ _ | .bminmaxMin _ _ _ | .bminmaxMax _ _ _ | .bactRelu _ _ => true
  | .bmul _ _ b | .bfma _ _ b => b.issv false
  | .bactClamp _ _ b => b.isS5
  | .acceptGrid _ _ _ _ | .acceptRaw _ _ | .bcvtF32 _ _ | .bcvtI32 _ _ | .bcvtBf16 _ _ => true
  | .send a b c _ q => a.isS w && b.isS w && c.isS w && q.wf
  | .dep d a b c q =>
      d.isDeposit && a.isS w && d.sameClass b && c.isS w && q.wf && (!d.sameClass (.b 0) || q.fmt == .raw)
  | .synst a b c q => a.isS w && b.isPayload && c.isS w && q.wf
  | .synld d a c q => d.isPayload && a.isS w && c.isS w && q.wf && !q.wait
  | .mcastRow a b c o q => a.isS w && b.isPayload && c.isS w && o.toNat % 128 == 0 && q.wf
  | .mcastQ a b c _ q => a.isS w && b.isS w && c.isS w && q.wf
  | .barj | .barjLeave => true
  | .bara d => d.isS w
  | .barw a => a.isS w
  | .barq d a => d.isS w && a.isS w
  | .copy o => o.wf w && o.c.toNat ≤ 30
  | .copy2 o => o.wf w && o.c.toNat ≤ 29
  | .dcopy d a b => d != 0 && a.isS w && b.isS w
  | .dzero d a => d != 0 && a.isS w
  | .spawn d a b c _ | .tdef d a b c _ _ _ => d.isS w && a.isS w && b.isS w && argWf c
  | .quit => true
  | .migrate a m => a.isS w && decide (popcNat 31 m.toNat ≤ 8)
  | .tdec a | .launch a | .qeos a _ => a.isS w
  | .qcfg a _ _ prod _ => a.isS w && (a == .s 0 || prod == 0)
  | .stage _ _ _ _ _ => true
  | .ldbal margin => decide (2 ≤ margin.toNat)
  | .wbegin _ _ _ d a b lines _ => d != 0 && a.isS w && b.isS w && lines != 0
  | .wend | .wvoteAnd | .wvoteOr | .wckpt => w
  | .wloop _ _ t | .wjmp t | .wbrvT t | .wbrvF t => w && t.wf
  | .mbox _ | .mboxNb _ => true
  | .fenceu a | .fenceuUn a | .preempt a | .kill a => a.isS w
  | .stest d a => d.isS w && a.isS w
  | .resume _ _ a b c | .mapw a b c => a.isS w && b.isS w && c.isS w
  | .ckpt d a b => d.isS w && a.isS w && b.isS w
  | .keyz m => m != 0
  | .tlbi a b | .tlbiAs a b | .tlbiAll a b => a.isS w && b.isS w
  | .annulUnit _ | .parkResume _ | .mailboxRecordAccept _ | .sleepExpiry _ | .alignTimeout _ | .waitLimitExpiry _
  | .barqTimeout _ | .transcendentalComplete _ | .pageWalkComplete _ | .lineRequest _ | .lineResponse _
  | .joinApply _ | .thresholdRegister _ | .waiterRetry _ | .freezeApply _ | .exactRead _ | .stqAcknowledge _
  | .depositArrival _ | .directoryForward _ | .forwardExpiry _ _ | .queueEntryArrival _ | .rowLanding _
  | .deferredLanding _ | .synldRequest _ | .mcastDelivery _ | .copyComplete _ | .pageOperationComplete _
  | .xrdtLanding _ | .bstComplete _ | .tfillSent _ | .matrixOpComplete _ | .rampLevelStep _ | .rampIdleDescent _
  | .hintLapse _ | .awrComplete _ | .avfyComplete _ | .acalComplete _ | .amvmComplete _ | .waveStreamStart _
  | .waveStep _ _ | .voteResult _ | .waveBreak _ | .waveTokenLanding _ | .streamResume _ | .launchRecordTake _
  | .contextArrival _ | .spillReturn _ | .dispatch _ | .taskRowDecrement _ | .replicaAdd _ _ | .replicaDiscard _ _
  | .contextSave _ | .killCleanup _ | .packetForward _ | .linkFlitReceive _ | .retrain _ | .llmonWindow _
  | .transitDrainEnd _ | .unitErrorDetect _ | .selfTestComplete _ | .securityAlarm _ _ | .thermalThrottle _ _
  | .throttleRelease _ _ | .dieReset _ | .boot _ | .linkTrainingComplete _ _ => false

end Sys2Proof
end

