-- ==== Sys2Proof/Decode.lean ====
section
/-!
DEFINITION. Decoding and encoding of instruction words (R58 to R62 and the encoding tables of R136, R152, R155, R167,
R185, R230, R244, R249, R257, R271, R297, R310, R323, R338, R373). The decoder reads the fields, and then accepts
only a word whose every field is the one the read instruction has: unused fields are zero and codes assigned (R59).
-/

namespace Sys2Proof

/-- The fields of an instruction word (R58). -/
structure Fields where
  opc : BitVec 8
  var : BitVec 4
  skip : BitVec 2
  md : BitVec 2
  d : BitVec 8
  a : BitVec 8
  b : BitVec 8
  c : BitVec 8
  x : BitVec 48
  deriving DecidableEq, Repr

def Fields.pack (f : Fields) : W96 :=
  f.opc ++ f.var ++ f.skip ++ f.md ++ f.d ++ f.a ++ f.b ++ f.c ++ f.x

def Fields.unpack (w : W96) : Fields :=
  { opc := bits w 88 8, var := bits w 84 4, skip := bits w 82 2, md := bits w 80 2, d := bits w 72 8,
    a := bits w 64 8, b := bits w 56 8, c := bits w 48 8, x := bits w 0 48 }

/-! ### Codes -/

/-- Class 100 (R62). -/
def IdReg.code : IdReg → BitVec 5
  | .die => 0
  | .row => 1
  | .col => 2
  | .slot => 3
  | .chip => 4
  | .stage => 5
  | .replica => 6
  | .extm => 8
  | .extn => 9
  | .extk => 10
  | .orgm => 12
  | .orgn => 13
  | .orgk => 14
  | .grp => 16
  | .cxid => 17

/-- The value of a code; none for a reserved one. Class 100 (R62). -/
def IdReg.ofCode (x : BitVec 5) : Option IdReg :=
  match x.toNat with
  | 0 => some .die
  | 1 => some .row
  | 2 => some .col
  | 3 => some .slot
  | 4 => some .chip
  | 5 => some .stage
  | 6 => some .replica
  | 8 => some .extm
  | 9 => some .extn
  | 10 => some .extk
  | 12 => some .orgm
  | 13 => some .orgn
  | 14 => some .orgk
  | 16 => some .grp
  | 17 => some .cxid
  | _ => none

/-- VAR[2:0] of ADD and SUB (R152). -/
def SatMode.code : SatMode → BitVec 3
  | .wrap => 0
  | .ss => 1
  | .us => 2

/-- The value of a code; none for a reserved one. VAR[2:0] of ADD and SUB (R152). -/
def SatMode.ofCode (x : BitVec 3) : Option SatMode :=
  match x.toNat with
  | 0 => some .wrap
  | 1 => some .ss
  | 2 => some .us
  | _ => none

/-- Width codes of R167. -/
def Width.code : Width → BitVec 2
  | .w8 => 0
  | .w16 => 1
  | .w32 => 2
  | .w64 => 3

/-- The value of a code; none for a reserved one. Width codes of R167. -/
def Width.ofCode (x : BitVec 2) : Option Width :=
  match x.toNat with
  | 0 => some .w8
  | 1 => some .w16
  | 2 => some .w32
  | 3 => some .w64
  | _ => none

/-- VAR[2:1] of SEXT and ZEXT (R152). -/
def XWidth.code : XWidth → BitVec 2
  | .w8 => 0
  | .w16 => 1
  | .w32 => 2

/-- The value of a code; none for a reserved one. VAR[2:1] of SEXT and ZEXT (R152). -/
def XWidth.ofCode (x : BitVec 2) : Option XWidth :=
  match x.toNat with
  | 0 => some .w8
  | 1 => some .w16
  | 2 => some .w32
  | _ => none

/-- Conditions of CMP and CMPI (R154). -/
def Cond.code : Cond → BitVec 4
  | .eq => 0
  | .ne => 1
  | .lt => 2
  | .le => 3
  | .gt => 4
  | .ge => 5
  | .ltu => 6
  | .leu => 7
  | .gtu => 8
  | .geu => 9

/-- The value of a code; none for a reserved one. Conditions of CMP and CMPI (R154). -/
def Cond.ofCode (x : BitVec 4) : Option Cond :=
  match x.toNat with
  | 0 => some .eq
  | 1 => some .ne
  | 2 => some .lt
  | 3 => some .le
  | 4 => some .gt
  | 5 => some .ge
  | 6 => some .ltu
  | 7 => some .leu
  | 8 => some .gtu
  | 9 => some .geu
  | _ => none

/-- Conditions of BRC (R156). -/
def BCond.code : BCond → BitVec 4
  | .t => 0
  | .f => 1
  | .z => 2
  | .nz => 3
  | .n => 4
  | .nn => 5
  | .c => 6
  | .nc => 7
  | .v => 8
  | .nv => 9
  | .eos => 10
  | .neos => 11

/-- The value of a code; none for a reserved one. Conditions of BRC (R156). -/
def BCond.ofCode (x : BitVec 4) : Option BCond :=
  match x.toNat with
  | 0 => some .t
  | 1 => some .f
  | 2 => some .z
  | 3 => some .nz
  | 4 => some .n
  | 5 => some .nn
  | 6 => some .c
  | 7 => some .nc
  | 8 => some .v
  | 9 => some .nv
  | 10 => some .eos
  | 11 => some .neos
  | _ => none

/-- Lane types (R70). -/
def LaneT.code : LaneT → BitVec 4
  | .i32 => 0
  | .u32 => 1
  | .f32 => 2
  | .i16x2 => 3
  | .bf16x2 => 4
  | .i8x4 => 5

/-- The value of a code; none for a reserved one. Lane types (R70). -/
def LaneT.ofCode (x : BitVec 4) : Option LaneT :=
  match x.toNat with
  | 0 => some .i32
  | 1 => some .u32
  | 2 => some .f32
  | 3 => some .i16x2
  | 4 => some .bf16x2
  | 5 => some .i8x4
  | _ => none

/-- Rounding modes (R98). -/
def RMode.code : RMode → BitVec 3
  | .rne => 0
  | .rtz => 1
  | .rup => 2
  | .rdn => 3
  | .sr => 4

/-- The value of a code; none for a reserved one. Rounding modes (R98). -/
def RMode.ofCode (x : BitVec 3) : Option RMode :=
  match x.toNat with
  | 0 => some .rne
  | 1 => some .rtz
  | 2 => some .rup
  | 3 => some .rdn
  | 4 => some .sr
  | _ => none

/-- FMT codes (R86). -/
def Fmt.code : Fmt → BitVec 4
  | .raw => 0
  | .int8 => 1
  | .int16 => 2
  | .int32 => 3
  | .int64 => 4
  | .fp32 => 5
  | .bf16 => 6
  | .fp16 => 7
  | .e4m3n => 8
  | .e5m2 => 9
  | .int4g => 10
  | .int3g => 11
  | .bq16 => 12

/-- The value of a code; none for a reserved one. FMT codes (R86). -/
def Fmt.ofCode (x : BitVec 4) : Option Fmt :=
  match x.toNat with
  | 0 => some .raw
  | 1 => some .int8
  | 2 => some .int16
  | 3 => some .int32
  | 4 => some .int64
  | 5 => some .fp32
  | 6 => some .bf16
  | 7 => some .fp16
  | 8 => some .e4m3n
  | 9 => some .e5m2
  | 10 => some .int4g
  | 11 => some .int3g
  | 12 => some .bq16
  | _ => none

/-- Join types (R119). -/
def JT.code : JT → BitVec 4
  | .priv => 0
  | .publ => 1
  | .maxu => 2
  | .maxs => 3
  | .minu => 4
  | .mins => 5
  | .bor => 6
  | .fill => 7
  | .fillt => 8
  | .cnt => 9
  | .cntl => 10
  | .fold => 11
  | .bpriv => 12

/-- The value of a code; none for a reserved one. Join types (R119). -/
def JT.ofCode (x : BitVec 4) : Option JT :=
  match x.toNat with
  | 0 => some .priv
  | 1 => some .publ
  | 2 => some .maxu
  | 3 => some .maxs
  | 4 => some .minu
  | 5 => some .mins
  | 6 => some .bor
  | 7 => some .fill
  | 8 => some .fillt
  | 9 => some .cnt
  | 10 => some .cntl
  | 11 => some .fold
  | 12 => some .bpriv
  | _ => none

/-- Tile geometries 1-4 (R97). -/
def TG.code : TG → BitVec 3
  | .t8 => 1
  | .t16 => 2
  | .t32 => 3
  | .t64 => 4

/-- The value of a code; none for a reserved one. Tile geometries 1-4 (R97). -/
def TG.ofCode (x : BitVec 3) : Option TG :=
  match x.toNat with
  | 1 => some .t8
  | 2 => some .t16
  | 3 => some .t32
  | 4 => some .t64
  | _ => none

/-- Conditions of VCMP (R185). -/
def VCond.code : VCond → BitVec 3
  | .eq => 0
  | .ne => 1
  | .lt => 2
  | .le => 3
  | .gt => 4
  | .ge => 5

/-- The value of a code; none for a reserved one. Conditions of VCMP (R185). -/
def VCond.ofCode (x : BitVec 3) : Option VCond :=
  match x.toNat with
  | 0 => some .eq
  | 1 => some .ne
  | 2 => some .lt
  | 3 => some .le
  | 4 => some .gt
  | 5 => some .ge
  | _ => none

/-- Operators of VRED and VSCAN (R185). -/
def VOp.code : VOp → BitVec 3
  | .add => 0
  | .min => 1
  | .max => 2
  | .and => 3
  | .or => 4
  | .xor => 5

/-- The value of a code; none for a reserved one. Operators of VRED and VSCAN (R185). -/
def VOp.ofCode (x : BitVec 3) : Option VOp :=
  match x.toNat with
  | 0 => some .add
  | 1 => some .min
  | 2 => some .max
  | 3 => some .and
  | 4 => some .or
  | 5 => some .xor
  | _ => none

/-- Format pairs (R245). -/
def MPair.code : MPair → BitVec 4
  | .e4e4 => 0
  | .e5e4 => 1
  | .bf16 => 2
  | .e4i4 => 3
  | .e4i3 => 4
  | .bfi4 => 5
  | .bfi3 => 6

/-- The value of a code; none for a reserved one. Format pairs (R245). -/
def MPair.ofCode (x : BitVec 4) : Option MPair :=
  match x.toNat with
  | 0 => some .e4e4
  | 1 => some .e5e4
  | 2 => some .bf16
  | 3 => some .e4i4
  | 4 => some .e4i3
  | 5 => some .bfi4
  | 6 => some .bfi3
  | _ => none

/-- Endpoint kinds (R307). -/
def EndK.code : EndK → BitVec 2
  | .p => 0
  | .m => 1
  | .r => 2

/-- The value of a code; none for a reserved one. Endpoint kinds (R307). -/
def EndK.ofCode (x : BitVec 2) : Option EndK :=
  match x.toNat with
  | 0 => some .p
  | 1 => some .m
  | 2 => some .r
  | _ => none

/-- Register specifiers (R62). -/
def Spec.code : Spec → BitVec 8
  | .s n => 0#3 ++ n
  | .v n => 2#4 ++ n
  | .b n => 8#5 ++ n
  | .lw => 0x60 | .ln => 0x61 | .le => 0x62 | .ls => 0x63
  | .q n => 26#6 ++ n
  | .id r => 4#3 ++ r.code
  | .t n => 40#6 ++ n
  | .spi n => 6#3 ++ n
  | .sp n => 7#3 ++ n

/-- The register of a specifier; none for a reserved one (R62). -/
def Spec.ofCode (x : BitVec 8) : Option Spec :=
  let i := bits x 0 5
  match (bits x 5 3).toNat with
  | 0 => some (.s i)
  | 1 => if i.toNat < 16 then some (.v (bits x 0 4)) else none
  | 2 => if i.toNat < 8 then some (.b (bits x 0 3)) else none
  | 3 => match i.toNat with
    | 0 => some .lw | 1 => some .ln | 2 => some .le | 3 => some .ls
    | _ => if 8 ≤ i.toNat ∧ i.toNat < 12 then some (.q (bits x 0 2)) else none
  | 4 => (IdReg.ofCode i).map .id
  | 5 => if i.toNat < 4 then some (.t (bits x 0 2)) else none
  | 6 => some (.spi i)
  | _ => some (.sp i)

/-- Control indices (R65, R360, R371). -/
def CReg.code : CReg → BitVec 12
  | .flags => 0x000 | .pc => 0x001 | .thnd => 0x010 | .tcause => 0x011 | .tpc => 0x012 | .taddr => 0x013
  | .tinfo => 0x014 | .cvmt => 0x020 | .cvma => 0x021 | .cvmr => 0x022 | .lc0 => 0x028 | .lc1 => 0x029
  | .waitlim => 0x030 | .srk => 0x031 | .prov => 0x040 | .stq => 0x041 | .wstep => 0x050
  | .orient => 0x100 | .loadr => 0x101 | .qcap => 0x102
  | .region g => 0x11#8 ++ g
  | .errid => 0x200 | .mbxcnt => 0x201
  | .avc i => 0x21#8 ++ i
  | .ava i => 0x22#8 ++ i
  | .avs i => 0x8c#10 ++ i
  | .avd i => 0x11c#11 ++ i
  | .alarm => 0x240 | .lqbase => 0x250 | .lqasid => 0x251 | .sptb => 0x252 | .astb => 0x253
  | .dtemp => 0x260 | .tlim => 0x261
  | .fbctl => 0x300 | .llmon => 0x301
  | .lse k => 0x62#9 ++ k
  | .lss k => 0x63#9 ++ k
  | .lsp p => 0x190#11 ++ p
  | .lsg => 0x322
  | .crtb => 0x330

def CReg.ofCode (x : BitVec 12) : Option CReg :=
  let lo := bits x 0 4
  match (bits x 4 8).toNat with
  | 0x00 => match lo.toNat with
    | 0 => some .flags | 1 => some .pc | _ => none
  | 0x01 => match lo.toNat with
    | 0 => some .thnd | 1 => some .tcause | 2 => some .tpc | 3 => some .taddr | 4 => some .tinfo | _ => none
  | 0x02 => match lo.toNat with
    | 0 => some .cvmt | 1 => some .cvma | 2 => some .cvmr | 8 => some .lc0 | 9 => some .lc1 | _ => none
  | 0x03 => match lo.toNat with
    | 0 => some .waitlim | 1 => some .srk | _ => none
  | 0x04 => match lo.toNat with
    | 0 => some .prov | 1 => some .stq | _ => none
  | 0x05 => match lo.toNat with
    | 0 => some .wstep | _ => none
  | 0x10 => match lo.toNat with
    | 0 => some .orient | 1 => some .loadr | 2 => some .qcap | _ => none
  | 0x11 => some (.region lo)
  | 0x20 => match lo.toNat with
    | 0 => some .errid | 1 => some .mbxcnt | _ => none
  | 0x21 => some (.avc lo)
  | 0x22 => some (.ava lo)
  | 0x23 => match lo.toNat with
    | 0 => some (.avs 0) | 1 => some (.avs 1) | 2 => some (.avs 2) | 8 => some (.avd 0) | 9 => some (.avd 1) | _ => none
  | 0x24 => match lo.toNat with
    | 0 => some .alarm | _ => none
  | 0x25 => match lo.toNat with
    | 0 => some .lqbase | 1 => some .lqasid | 2 => some .sptb | 3 => some .astb | _ => none
  | 0x26 => match lo.toNat with
    | 0 => some .dtemp | 1 => some .tlim | _ => none
  | 0x30 => match lo.toNat with
    | 0 => some .fbctl | 1 => some .llmon | _ => none
  | 0x31 => some (if bitAt x 3 then .lss (bits x 0 3) else .lse (bits x 0 3))
  | 0x32 => match lo.toNat with
    | 0 => some (.lsp 0) | 1 => some (.lsp 1) | 2 => some .lsg | _ => none
  | 0x33 => match lo.toNat with
    | 0 => some .crtb | _ => none
  | _ => none

/-- A specifier field holding an s-register. -/
abbrev sCode (n : BitVec 5) : BitVec 8 := 0#3 ++ n
abbrev vCode (n : BitVec 4) : BitVec 8 := 2#4 ++ n
abbrev bCode (n : BitVec 3) : BitVec 8 := 8#5 ++ n
abbrev tCode (n : BitVec 2) : BitVec 8 := 40#6 ++ n
abbrev qCode (n : BitVec 2) : BitVec 8 := 26#6 ++ n
/-- One bit from a Bool. -/
abbrev bit1 (b : Bool) : BitVec 1 := BitVec.ofBool b
/-- The branch form (R60). -/
def Tgt.code (t : Tgt) : BitVec 48 := t.disp ++ t.slot
def Tgt.ofCode (x : BitVec 48) : Tgt := { disp := bits x 3 45, slot := bits x 0 3 }

/-! ### The fields of each instruction -/

/-- A word with the fields given and zero in all others (R59). -/
def fld (opc : BitVec 8) (var : BitVec 4 := 0) (skip : BitVec 2 := 0) (md : BitVec 2 := 0) (d : BitVec 8 := 0)
    (a : BitVec 8 := 0) (b : BitVec 8 := 0) (c : BitVec 8 := 0) (x : BitVec 48 := 0) : Fields :=
  { opc, var, skip, md, d, a, b, c, x }

/-- The binary form (R60); `v` is VAR[2:0]. -/
def Bin.fields (opc : BitVec 8) (v : BitVec 3) (o : Bin) : Fields :=
  match o.src with
  | .reg r => fld opc (var := 0#1 ++ v) (md := 0#1 ++ bit1 o.f) (d := o.d.code) (a := o.a.code) (b := r.code)
  | .imm x => fld opc (var := 1#1 ++ v) (md := 0#1 ++ bit1 o.f) (d := o.d.code) (a := o.a.code) (x := x)

def VArith.fields (opc : BitVec 8) (o : VArith) : Fields :=
  fld opc (var := o.t.code) (md := 0#1 ++ bit1 o.sat) (d := o.d.code) (a := o.a.code) (b := o.b.code) (c := o.c.code)
    (x := 0#45 ++ o.rm.code)
def VBin.fields (opc : BitVec 8) (o : VBin) : Fields :=
  fld opc (var := o.t.code) (d := o.d.code) (a := o.a.code) (b := o.b.code) (c := o.c.code)
def VUn.fields (opc : BitVec 8) (o : VUn) : Fields :=
  fld opc (var := o.t.code) (md := 0#1 ++ bit1 o.sat) (d := o.d.code) (a := o.a.code) (c := o.c.code)
def VTr.fields (opc : BitVec 8) (o : VTr) : Fields :=
  fld opc (var := 2) (d := o.d.code) (a := o.a.code) (c := o.c.code)
def MmaOp.fields (opc : BitVec 8) (o : MmaOp) : Fields :=
  fld opc (var := o.pair.code) (d := tCode o.d) (a := o.a.code) (b := o.b.code) (c := sCode o.c)
    (x := 0#8 ++ o.sb ++ o.sa ++ 0#3 ++ bit1 o.brow ++ bit1 o.ext ++ o.kb)
def Wire.x (q : Wire) : BitVec 11 := q.rm.code ++ q.fmt.code ++ 0#4
def Wire.md (q : Wire) : BitVec 2 := bit1 q.sat ++ bit1 q.wait
def CopyOp.fields (opc : BitVec 8) (o : CopyOp) : Fields :=
  fld opc (d := sCode o.d) (a := o.a.code) (b := o.b.code) (c := sCode o.c)
    (x := 0#32 ++ bit1 o.sat ++ o.rm.code ++ o.dfmt.code ++ o.sfmt.code ++ o.dk.code ++ o.sk.code)

/-- The fields of an instruction; none for the device's own steps, which have no word. -/
def Instr.fields : Instr → Option Fields
  | .nop => some <| fld 0x00
  | .add m o => some <| o.fields 0x01 m.code
  | .sub m o => some <| o.fields 0x02 m.code
  | .mul o => some <| o.fields 0x03 0
  | .mulh u o => some <| o.fields 0x04 (0#2 ++ bit1 u)
  | .div u o => some <| o.fields 0x05 (0#2 ++ bit1 u)
  | .rem u o => some <| o.fields 0x06 (0#2 ++ bit1 u)
  | .and o => some <| o.fields 0x07 0
  | .or o => some <| o.fields 0x08 0
  | .xor o => some <| o.fields 0x09 0
  | .andn o => some <| o.fields 0x0A 0
  | .shl o => some <| o.fields 0x0B 0
  | .shr o => some <| o.fields 0x0C 0
  | .sar o => some <| o.fields 0x0D 0
  | .rotl o => some <| o.fields 0x0E 0
  | .min u o => some <| o.fields 0x0F (0#2 ++ bit1 u)
  | .max u o => some <| o.fields 0x10 (0#2 ++ bit1 u)
  | .clz d a => some <| fld 0x11 (d := d.code) (a := a.code)
  | .popc d a => some <| fld 0x12 (d := d.code) (a := a.code)
  | .bfx sx d a wm1 lo => some <|
      fld 0x13 (var := 0#3 ++ bit1 sx) (d := d.code) (a := a.code) (x := 0#36 ++ wm1 ++ lo)
  | .bfi d a wm1 lo => some <| fld 0x14 (d := d.code) (a := a.code) (x := 0#36 ++ wm1 ++ lo)
  | .li d v => some <| fld 0x15 (d := d.code) (b := bits v 56 8) (c := bits v 48 8) (x := bits v 0 48)
  | .lea sh d a b x => some <| fld 0x16 (var := 0#1 ++ sh) (d := d.code) (a := a.code) (b := b.code) (x := x)
  | .sel d a b => some <| fld 0x17 (d := d.code) (a := a.code) (b := b.code)
  | .cmp cc k a b => some <| fld 0x18 (var := cc.code) (skip := k) (a := a.code) (b := b.code)
  | .cmpi cc k a x => some <| fld 0x19 (var := cc.code) (skip := k) (a := a.code) (x := x)
  | .test z k a src => some <| match src with
    | .reg r => fld 0x1A (var := 0#3 ++ bit1 z) (skip := k) (a := a.code) (b := r.code)
    | .imm x => fld 0x1A (var := 1#1 ++ 0#2 ++ bit1 z) (skip := k) (a := a.code) (x := x)
  | .crand d a b => some <| fld 0x1B (d := d.code) (a := a.code) (b := b.code)
  | .sext w d a => some <| fld 0x1C (var := 0#1 ++ w.code ++ 0#1) (d := d.code) (a := a.code)
  | .zext w d a => some <| fld 0x1C (var := 0#1 ++ w.code ++ 1#1) (d := d.code) (a := a.code)
  | .br t => some <| fld 0x20 (x := t.code)
  | .brc cc t => some <| fld 0x21 (var := cc.code) (x := t.code)
  | .jmp a => some <| fld 0x22 (a := a.code)
  | .call k d => some <| match k with
    | .direct t => fld 0x23 (d := sCode d) (x := t.code)
    | .indirect a => fld 0x23 (var := 1) (d := sCode d) (a := a.code)
  | .ret a => some <| fld 0x24 (a := a.code)
  | .loop l a t => some <| fld 0x25 (var := 0#3 ++ bit1 l) (a := a.code) (x := t.code)
  | .loopq l q t => some <| fld 0x26 (var := 0#3 ++ bit1 l) (a := qCode q) (x := t.code)
  | .align n => some <| fld 0x27 (x := 0#40 ++ n)
  | .mfc d r => some <| fld 0x28 (d := d.code) (x := 0#36 ++ r.code)
  | .mtc r a => some <| fld 0x29 (a := a.code) (x := 0#36 ++ r.code)
  | .flagsWrite a => some <| fld 0x29 (a := a.code) (x := 0x000)
  | .loopCounterWrite l a => some <| fld 0x29 (a := a.code) (x := 0#36 ++ 0x14#11 ++ bit1 l)
  | .regionWrite g a => some <| fld 0x29 (a := a.code) (x := 0#36 ++ 0x11#8 ++ g)
  | .linkStatusClear r a => some <| fld 0x29 (a := a.code) (x := 0#36 ++ r.code)
  | .alarmWrite a => some <| fld 0x29 (a := a.code) (x := 0x240)
  | .holdtr a => some <| fld 0x29 (a := a.code) (x := 0x300)
  | .rsv d a => some <| fld 0x2A (d := d.code) (a := a.code)
  | .dead m => some <| match m with
    | .sv v s => fld 0x2B (x := v ++ s)
    | .b b => fld 0x2B (var := 1) (x := 0#40 ++ b)
  | .trap a n => some <| fld 0x2C (a := a.code) (x := 0#32 ++ n)
  | .rte => some <| fld 0x2D
  | .sleep n => some <| fld 0x2E (x := 0#16 ++ n)
  | .fenceX to_ from_ => some <| fld 0x2F (x := 0#35 ++ to_ ++ 0#3 ++ from_)
  | .ld w sx d a x => some <| fld 0x40 (var := 0#1 ++ bit1 sx ++ w.code) (d := d.code) (a := a.code) (x := x)
  | .st w a b x => some <| fld 0x41 (var := 0#2 ++ w.code) (a := a.code) (b := b.code) (x := x)
  | .ldv o => some <| fld 0x42 (var := o.t.code) (md := 0#1 ++ bit1 o.sat) (d := vCode o.r) (a := o.a.code)
      (c := o.c.code) (x := o.rm.code ++ o.x)
  | .stv o => some <| fld 0x43 (var := o.t.code) (md := 0#1 ++ bit1 o.sat) (a := o.a.code) (b := vCode o.r)
      (c := o.c.code) (x := o.rm.code ++ o.x)
  | .spld w sx d a x => some <| fld 0x44 (var := 0#1 ++ bit1 sx ++ w.code) (d := d.code) (a := a.code) (x := x)
  | .spst w a b x => some <| fld 0x45 (var := 0#2 ++ w.code) (a := a.code) (b := b.code) (x := x)
  | .drain r a x => some <| fld 0x46 (var := 0#3 ++ bit1 r) (a := a.code) (x := x)
  | .jst j w a b x => some <| fld 0x48 (var := j.code) (md := 0#1 ++ bit1 w) (a := a.code) (b := b.code) (x := x)
  | .jstv j w a b c x => some <|
      fld 0x49 (var := j.code) (md := 0#1 ++ bit1 w) (a := a.code) (b := vCode b) (c := c.code) (x := x)
  | .tfill w a b g f => some <|
      fld 0x4A (md := 0#1 ++ bit1 w) (a := a.code) (b := b.code) (x := 0#41 ++ g.code ++ f.code)
  | .bump l w a b x => some <|
      fld 0x4B (var := if l then 10 else 9) (md := 0#1 ++ bit1 w) (a := a.code) (b := b.code) (x := x)
  | .trd w g d a x => some <| match g with
    | .filled => fld 0x4C (var := 4) (md := 0#1 ++ bit1 w) (d := d.code) (a := a.code) (x := x)
    | .vals b m =>
        fld 0x4C (var := 0#2 ++ m) (md := 0#1 ++ bit1 w) (d := d.code) (a := a.code) (b := sCode b) (x := x)
  | .xrd sx d a x => some <| fld 0x4D (var := 0#3 ++ bit1 sx) (d := d.code) (a := a.code) (x := x)
  | .xrdv o => some <| fld 0x4E (var := o.t.code) (md := 0#1 ++ bit1 o.sat) (d := vCode o.r) (a := o.a.code)
      (c := o.c.code) (x := o.rm.code ++ o.x)
  | .xrdt f sat d a rm => some <|
      fld 0x4F (var := f.code) (md := 0#1 ++ bit1 sat) (d := d.code) (a := a.code) (x := 0#37 ++ rm.code ++ 0#8)
  | .fix a x => some <| fld 0x50 (a := a.code) (x := x)
  | .fixr a b => some <| fld 0x51 (a := a.code) (b := b.code)
  | .pub a b => some <| fld 0x52 (a := a.code) (b := b.code)
  | .xfer a b c => some <| fld 0x53 (a := a.code) (b := b.code) (c := c.code)
  | .vadd o => some <| o.fields 0x60
  | .vsub o => some <| o.fields 0x61
  | .vmul o => some <| o.fields 0x62
  | .vfma o => some <| o.fields 0x63
  | .vfms o => some <| o.fields 0x64
  | .vmin o => some <| o.fields 0x65
  | .vmax o => some <| o.fields 0x66
  | .vabs o => some <| o.fields 0x67
  | .vneg o => some <| o.fields 0x68
  | .vcmp cc o => some <| { o.fields 0x69 with x := 0#45 ++ cc.code }
  | .vsel o => some <| o.fields 0x6A
  | .vand o => some <| o.fields 0x6B
  | .vor o => some <| o.fields 0x6C
  | .vxor o => some <| o.fields 0x6D
  | .vshl o => some <| o.fields 0x6E
  | .vshr o => some <| o.fields 0x6F
  | .vcvt src h o => some <| { o.fields 0x70 with x := 0#38 ++ h ++ src.code ++ 0#1 ++ o.rm.code }
  | .vrcp o => some <| o.fields 0x71
  | .vrsq o => some <| o.fields 0x72
  | .vsqrt o => some <| o.fields 0x73
  | .vexp2 o => some <| o.fields 0x74
  | .vlog2 o => some <| o.fields 0x75
  | .vred t op d a c => some <|
      fld 0x76 (var := t.code) (d := d.code) (a := a.code) (c := c.code) (x := 0#45 ++ op.code)
  | .vscan t sat op d a c => some <|
      fld 0x77 (var := t.code) (md := 0#1 ++ bit1 sat) (d := d.code) (a := a.code) (c := c.code) (x := 0#45 ++ op.code)
  | .vperm o => some <| o.fields 0x78
  | .vbcast t d a c l => some <| fld 0x79 (var := t.code) (d := d.code) (a := a.code) (c := c.code) (x := 0#43 ++ l)
  | .vext t d a e => some <| fld 0x7A (var := t.code) (d := d.code) (a := a.code) (x := 0#41 ++ e)
  | .vld t d a c x => some <| fld 0x7B (var := t.code) (d := d.code) (a := a.code) (c := c.code) (x := x)
  | .vst t a b c x => some <| fld 0x7C (var := t.code) (a := a.code) (b := b.code) (c := c.code) (x := x)
  | .vgath o => some <| o.fields 0x7D
  | .vscat o => some <| o.fields 0x7E
  | .vcrand hi o => some <| { o.fields 0x7F with md := 0#1 ++ bit1 hi }
  | .mma o => some <| o.fields 0x80
  | .mmag o => some <| o.fields 0x81
  | .wmma e5 ia ib nl wl d a b => some <|
      fld 0x83 (var := 0#1 ++ bit1 ib ++ bit1 ia ++ bit1 e5) (md := bit1 nl ++ bit1 wl) (d := tCode d) (a := sCode a)
        (b := sCode b)
  | .tclaim w t => some <| fld 0x84 (var := 0#3 ++ bit1 w) (d := tCode t)
  | .trel w t => some <| fld 0x85 (var := 0#3 ++ bit1 w) (d := tCode t)
  | .tzero w t => some <| fld 0x86 (var := 0#3 ++ bit1 w) (d := tCode t)
  | .tst sat rm d o => some <|
      fld 0x87 (var := o.fmt.code) (md := bit1 o.w ++ bit1 sat) (d := d.code) (a := tCode o.tile) (b := o.off.code)
        (c := o.c.code) (x := 0#24 ++ o.st ++ 0#4 ++ bit1 o.ext ++ rm.code)
  | .tld o => some <|
      fld 0x88 (var := o.fmt.code) (md := bit1 o.w ++ 0#1) (d := tCode o.tile) (a := o.off.code) (c := o.c.code)
        (x := 0#24 ++ o.st ++ 0#4 ++ bit1 o.ext ++ 0#3)
  | .mhint n => some <| fld 0x89 (x := 0#32 ++ n)
  | .awr a b r g => some <| fld 0xA0 (a := a.code) (b := b.code) (x := 0#34 ++ 0#1 ++ r ++ 0#6 ++ g)
  | .avfy a b c r g => some <| fld 0xA1 (a := a.code) (b := b.code) (c := c.code) (x := 0#34 ++ 0#1 ++ r ++ 0#6 ++ g)
  | .amvm d a g => some <| fld 0xA2 (d := sCode d) (a := a.code) (x := 0#46 ++ g)
  | .acal l s g => some <| fld 0xA3 (x := 0#36 ++ l ++ 0#3 ++ s ++ g)
  | .astat d g => some <| fld 0xA4 (d := bCode d) (x := 0#46 ++ g)
  | .aclaim g => some <| fld 0xA5 (x := 0#46 ++ g)
  | .arel g => some <| fld 0xA6 (x := 0#46 ++ g)
  | .bld d a x => some <| fld 0xA7 (d := bCode d) (a := a.code) (x := x)
  | .bldBuf d u g => some <| fld 0xA7 (var := 1) (d := bCode d) (x := 0#41 ++ u ++ g)
  | .bst a b x => some <| fld 0xA8 (a := a.code) (b := bCode b) (x := x)
  | .badd d a b => some <| fld 0xA9 (d := bCode d) (a := bCode a) (b := bCode b)
  | .baddSub d a b => some <| fld 0xA9 (var := 1) (d := bCode d) (a := bCode a) (b := bCode b)
  | .bmul d a b => some <| fld 0xAA (d := bCode d) (a := bCode a) (b := b.code)
  | .bfma d a b => some <| fld 0xAB (d := bCode d) (a := bCode a) (b := b.code)
  | .bminmaxMin d a b => some <| fld 0xAC (d := bCode d) (a := bCode a) (b := bCode b)
  | .bminmaxMax d a b => some <| fld 0xAC (var := 1) (d := bCode d) (a := bCode a) (b := bCode b)
  | .bactRelu d a => some <| fld 0xAD (d := bCode d) (a := bCode a)
  | .bactClamp d a b => some <| fld 0xAD (var := 1) (d := bCode d) (a := bCode a) (b := b.code)
  | .acceptGrid i d a e => some <| fld 0xAE (md := 0#1 ++ bit1 i) (d := vCode d) (a := bCode a) (x := 0#40 ++ e)
  | .acceptRaw d a => some <| fld 0xAE (var := 1) (d := vCode d) (a := bCode a)
  | .bcvtF32 d a => some <| fld 0xAF (d := bCode d) (a := vCode a)
  | .bcvtI32 d a => some <| fld 0xAF (var := 1) (d := bCode d) (a := vCode a)
  | .bcvtBf16 d a => some <| fld 0xAF (var := 2) (d := bCode d) (a := bCode a)
  | .send a b c q w => some <|
      fld 0xC0 (md := w.md) (a := a.code) (b := b.code) (c := c.code) (x := 0#37 ++ w.x ||| (0#46 ++ q))
  | .dep d a b c w => some <|
      fld 0xC1 (md := w.md) (d := d.code) (a := a.code) (b := b.code) (c := c.code) (x := 0#37 ++ w.x)
  | .synst a b c w => some <| fld 0xC2 (md := w.md) (a := a.code) (b := b.code) (c := c.code) (x := 0#37 ++ w.x)
  | .synld d a c w => some <| fld 0xC3 (md := w.md) (d := d.code) (a := a.code) (c := c.code) (x := 0#37 ++ w.x)
  | .mcastRow a b c o w => some <|
      fld 0xC4 (md := w.md) (a := a.code) (b := b.code) (c := c.code) (x := 0#18 ++ o ++ 0#1 ++ w.x)
  | .mcastQ a b c q w => some <|
      fld 0xC4 (var := 1) (md := w.md) (a := a.code) (b := b.code) (c := c.code) (x := 0#37 ++ w.x ||| (0#46 ++ q))
  | .barj => some <| fld 0xC5
  | .barjLeave => some <| fld 0xC5 (var := 1)
  | .bara d => some <| fld 0xC6 (d := d.code)
  | .barw a => some <| fld 0xC7 (a := a.code)
  | .barq d a => some <| fld 0xC8 (d := d.code) (a := a.code)
  | .copy o => some <| o.fields 0xC9
  | .copy2 o => some <| o.fields 0xCA
  | .dcopy d a b => some <| fld 0xCB (d := sCode d) (a := a.code) (b := b.code)
  | .dzero d a => some <| fld 0xCC (d := sCode d) (a := a.code)
  | .spawn d a b c n => some <| fld 0xCD (d := d.code) (a := a.code) (b := b.code) (c := sCode c) (x := 0#28 ++ n)
  | .quit => some <| fld 0xCE
  | .migrate a m => some <| fld 0xCF (a := a.code) (x := 0#16 ++ m ++ 0#1)
  | .tdef d a b c n t k => some <|
      fld 0xD0 (d := d.code) (a := a.code) (b := b.code) (c := sCode c) (x := 0#1 ++ k ++ t ++ n)
  | .tdec a => some <| fld 0xD1 (a := a.code)
  | .launch a => some <| fld 0xD2 (a := a.code)
  | .qcfg a q dp p c => some <| fld 0xD3 (a := a.code) (x := 0#38 ++ c ++ p ++ dp ++ q)
  | .stage iq ip oq op r => some <| fld 0xD4 (x := 0#41 ++ bit1 r ++ bit1 op ++ oq ++ bit1 ip ++ iq)
  | .qeos a q => some <| fld 0xD5 (a := a.code) (x := 0#46 ++ q)
  | .ldbal m => some <| fld 0xD6 (x := 0#44 ++ m)
  | .wbegin sg sb dg d a b n g => some <|
      fld 0xE0 (var := sg ++ bit1 sb ++ bit1 dg) (d := sCode d) (a := a.code) (b := b.code) (x := 0#36 ++ g ++ n)
  | .wend => some <| fld 0xE1
  | .wloop l n t => some <| fld 0xE2 (var := 0#3 ++ bit1 l) (b := bits n 8 8) (c := bits n 0 8) (x := t.code)
  | .wjmp t => some <| fld 0xE3 (x := t.code)
  | .wvoteAnd => some <| fld 0xE4
  | .wvoteOr => some <| fld 0xE4 (var := 1)
  | .wbrvT t => some <| fld 0xE5 (x := t.code)
  | .wbrvF t => some <| fld 0xE5 (var := 1) (x := t.code)
  | .wckpt => some <| fld 0xE6
  | .mbox d => some <| fld 0xF0 (d := vCode d)
  | .mboxNb d => some <| fld 0xF0 (var := 1) (d := vCode d)
  | .fenceu a => some <| fld 0xF1 (a := a.code)
  | .fenceuUn a => some <| fld 0xF1 (var := 1) (a := a.code)
  | .stest d a => some <| fld 0xF2 (d := d.code) (a := a.code)
  | .preempt a => some <| fld 0xF3 (a := a.code)
  | .resume k w a b c => some <|
      fld 0xF4 (var := 0#2 ++ bit1 w ++ bit1 k) (a := a.code) (b := b.code) (c := c.code)
  | .kill a => some <| fld 0xF5 (a := a.code)
  | .ckpt d a b => some <| fld 0xF6 (d := d.code) (a := a.code) (b := b.code)
  | .keyz m => some <| fld 0xF7 (x := 0#45 ++ m)
  | .mapw a b c => some <| fld 0xF8 (a := a.code) (b := b.code) (c := c.code)
  | .tlbi a b => some <| fld 0xF9 (a := a.code) (b := b.code)
  | .tlbiAs a b => some <| fld 0xF9 (var := 1) (a := a.code) (b := b.code)
  | .tlbiAll a b => some <| fld 0xF9 (var := 2) (a := a.code) (b := b.code)
  | .annulUnit _ | .parkResume _ | .mailboxRecordAccept _ | .sleepExpiry _ | .alignTimeout _ | .waitLimitExpiry _
  | .barqTimeout _ | .transcendentalComplete _ | .pageWalkComplete _ | .lineRequest _ | .lineResponse _
  | .joinApply _ | .thresholdRegister _ | .waiterRetry _ | .freezeApply _ | .exactRead _ | .stqAcknowledge _
  | .depositArrival _ | .directoryForward _ | .forwardExpiry _ _ | .queueEntryArrival _ | .rowLanding _
  | .deferredLanding _ | .synldRequest _ | .mcastDelivery _ | .copyComplete _ | .pageOperationComplete _
  | .xrdtLanding _ | .bstComplete _ | .tfillSent _ | .matrixOpComplete _ | .rampLevelStep _ | .rampIdleDescent _
  | .hintLapse _ | .awrComplete _ | .avfyComplete _ | .acalComplete _ | .amvmComplete _ | .waveStreamStart _
  | .waveStep _ _ | .voteResult _ | .waveBreak _ | .waveTokenLanding _ | .streamResume _ | .launchRecordTake _
  | .contextArrival _ | .spillReturn _ | .dispatch _ | .taskRowDecrement _ | .replicaAdd _ _ | .replicaDiscard _ _
  | .contextSave _ | .killCleanup _ | .packetForward _ | .linkFlitReceive _ | .retrain _ | .llmonWindow _
  | .transitDrainEnd _ | .unitErrorDetect _ | .selfTestComplete _ | .securityAlarm _ _ | .thermalThrottle _ _
  | .throttleRelease _ _ | .dieReset _ | .boot _ | .linkTrainingComplete _ _ => none

/-- The word of an instruction (R58); the device's own steps, which have none, encode as a word of zeros. -/
def encode (i : Instr) : W96 := (i.fields.map Fields.pack).getD 0

/-! ### Reading the fields -/

abbrev Fields.sD (f : Fields) : BitVec 5 := bits f.d 0 5
abbrev Fields.sB (f : Fields) : BitVec 5 := bits f.b 0 5
abbrev Fields.sC (f : Fields) : BitVec 5 := bits f.c 0 5

def Fields.bin (f : Fields) : Option Bin := do
  let d ← Spec.ofCode f.d
  let a ← Spec.ofCode f.a
  if bitAt f.var 3 then return { f := bitAt f.md 0, d, a, src := .imm f.x }
  let b ← Spec.ofCode f.b
  return { f := bitAt f.md 0, d, a, src := .reg b }

/-- D and A. -/
def Fields.da (f : Fields) (k : Spec → Spec → Instr) : Option Instr := do
  return k (← Spec.ofCode f.d) (← Spec.ofCode f.a)
/-- A and B. -/
def Fields.ab (f : Fields) (k : Spec → Spec → Instr) : Option Instr := do
  return k (← Spec.ofCode f.a) (← Spec.ofCode f.b)
/-- D, A and B. -/
def Fields.dab (f : Fields) (k : Spec → Spec → Spec → Instr) : Option Instr := do
  return k (← Spec.ofCode f.d) (← Spec.ofCode f.a) (← Spec.ofCode f.b)
/-- D, A and C. -/
def Fields.dac (f : Fields) (k : Spec → Spec → Spec → Instr) : Option Instr := do
  return k (← Spec.ofCode f.d) (← Spec.ofCode f.a) (← Spec.ofCode f.c)
/-- A, B and C. -/
def Fields.abc (f : Fields) (k : Spec → Spec → Spec → Instr) : Option Instr := do
  return k (← Spec.ofCode f.a) (← Spec.ofCode f.b) (← Spec.ofCode f.c)
/-- A alone. -/
def Fields.a1 (f : Fields) (k : Spec → Instr) : Option Instr := do return k (← Spec.ofCode f.a)

/-- Class 0, OPC 0x00-0x1F (R152). -/
def Fields.read0 (f : Fields) : Option Instr :=
  let v3 := bits f.var 0 3
  let u := bitAt f.var 0
  match f.opc.toNat with
  | 0x00 => some .nop
  | 0x01 => do return .add (← SatMode.ofCode v3) (← f.bin)
  | 0x02 => do return .sub (← SatMode.ofCode v3) (← f.bin)
  | 0x03 => f.bin.map .mul
  | 0x04 => f.bin.map (.mulh u)
  | 0x05 => f.bin.map (.div u)
  | 0x06 => f.bin.map (.rem u)
  | 0x07 => f.bin.map .and
  | 0x08 => f.bin.map .or
  | 0x09 => f.bin.map .xor
  | 0x0A => f.bin.map .andn
  | 0x0B => f.bin.map .shl
  | 0x0C => f.bin.map .shr
  | 0x0D => f.bin.map .sar
  | 0x0E => f.bin.map .rotl
  | 0x0F => f.bin.map (.min u)
  | 0x10 => f.bin.map (.max u)
  | 0x11 => f.da .clz
  | 0x12 => f.da .popc
  | 0x13 => f.da fun d a => .bfx u d a (bits f.x 6 6) (bits f.x 0 6)
  | 0x14 => f.da fun d a => .bfi d a (bits f.x 6 6) (bits f.x 0 6)
  | 0x15 => do return .li (← Spec.ofCode f.d) (f.b ++ f.c ++ f.x)
  | 0x16 => f.dab fun d a b => .lea v3 d a b f.x
  | 0x17 => f.dab .sel
  | 0x18 => do
      let cc ← Cond.ofCode f.var
      f.ab (.cmp cc f.skip)
  | 0x19 => do return .cmpi (← Cond.ofCode f.var) f.skip (← Spec.ofCode f.a) f.x
  | 0x1A => do
      let a ← Spec.ofCode f.a
      if bitAt f.var 3 then return .test u f.skip a (.imm f.x)
      return .test u f.skip a (.reg (← Spec.ofCode f.b))
  | 0x1B => f.dab .crand
  | 0x1C => do
      let w ← XWidth.ofCode (bits f.var 1 2)
      f.da (if u then .zext w else .sext w)
  | _ => none

/-- Class 1, OPC 0x20-0x3F (R39, R68, R155). -/
def Fields.read1 (f : Fields) : Option Instr :=
  let t := Tgt.ofCode f.x
  let l := bitAt f.var 0
  match f.opc.toNat with
  | 0x20 => some (.br t)
  | 0x21 => do return .brc (← BCond.ofCode f.var) t
  | 0x22 => f.a1 .jmp
  | 0x23 => if l then f.a1 fun a => .call (.indirect a) f.sD else some (.call (.direct t) f.sD)
  | 0x24 => f.a1 .ret
  | 0x25 => f.a1 fun a => .loop l a t
  | 0x26 => some (.loopq l (bits f.a 0 2) t)
  | 0x27 => some (.align (bits f.x 0 8))
  | 0x28 => do return .mfc (← Spec.ofCode f.d) (← CReg.ofCode (bits f.x 0 12))
  | 0x29 => do
      let r ← CReg.ofCode (bits f.x 0 12)
      f.a1 (match r with
        | .flags => .flagsWrite
        | .lc0 => .loopCounterWrite false
        | .lc1 => .loopCounterWrite true
        | .region g => .regionWrite g
        | .alarm => .alarmWrite
        | .fbctl => .holdtr
        | .lse _ | .lss _ | .lsp _ | .lsg => .linkStatusClear r
        | _ => .mtc r)
  | 0x2A => f.da .rsv
  | 0x2B => some (.dead (if l then .b (bits f.x 0 8) else .sv (bits f.x 32 16) (bits f.x 0 32)))
  | 0x2C => f.a1 fun a => .trap a (bits f.x 0 16)
  | 0x2D => some .rte
  | 0x2E => some (.sleep (bits f.x 0 32))
  | 0x2F => some (.fenceX (bits f.x 8 5) (bits f.x 0 5))
  | _ => none

/-- The vector load and store form; `r` is the field of the v-register. -/
def Fields.lv (f : Fields) (r : BitVec 8) (k : LvOp → Instr) : Option Instr := do
  let t ← LaneT.ofCode f.var
  let rm ← RMode.ofCode (bits f.x 45 3)
  return k { t, sat := bitAt f.md 0, rm, r := bits r 0 4, a := ← Spec.ofCode f.a, c := ← Spec.ofCode f.c,
             x := bits f.x 0 45 }

/-- Class 2, OPC 0x40-0x5F (R136, R167). -/
def Fields.read2 (f : Fields) : Option Instr :=
  let w := Width.ofCode (bits f.var 0 2)
  let m0 := bitAt f.md 0
  match f.opc.toNat with
  | 0x40 => do
      let w ← w
      f.da fun d a => .ld w (bitAt f.var 2) d a f.x
  | 0x41 => do
      let w ← w
      f.ab fun a b => .st w a b f.x
  | 0x42 => f.lv f.d .ldv
  | 0x43 => f.lv f.b .stv
  | 0x44 => do
      let w ← w
      f.da fun d a => .spld w (bitAt f.var 2) d a f.x
  | 0x45 => do
      let w ← w
      f.ab fun a b => .spst w a b f.x
  | 0x46 => f.a1 fun a => .drain (bitAt f.var 0) a f.x
  | 0x48 => do
      let j ← JT.ofCode f.var
      f.ab fun a b => .jst j m0 a b f.x
  | 0x49 => do
      let j ← JT.ofCode f.var
      return .jstv j m0 (← Spec.ofCode f.a) (bits f.b 0 4) (← Spec.ofCode f.c) f.x
  | 0x4A => do
      let g ← TG.ofCode (bits f.x 4 3)
      let t ← Fmt.ofCode (bits f.x 0 4)
      f.ab fun a b => .tfill m0 a b g t
  | 0x4B => match f.var.toNat with
    | 9 => f.ab fun a b => .bump false m0 a b f.x
    | 10 => f.ab fun a b => .bump true m0 a b f.x
    | _ => none
  | 0x4C =>
      f.da fun d a => .trd m0 (if bitAt f.var 2 then .filled else .vals f.sB (bits f.var 0 2)) d a f.x
  | 0x4D => f.da fun d a => .xrd (bitAt f.var 0) d a f.x
  | 0x4E => f.lv f.d .xrdv
  | 0x4F => do
      let t ← Fmt.ofCode f.var
      let rm ← RMode.ofCode (bits f.x 8 3)
      f.da fun d a => .xrdt t m0 d a rm
  | 0x50 => f.a1 fun a => .fix a f.x
  | 0x51 => f.ab .fixr
  | 0x52 => f.ab .pub
  | 0x53 => f.abc .xfer
  | _ => none

def Fields.varith (f : Fields) (k : VArith → Instr) : Option Instr := do
  let t ← LaneT.ofCode f.var
  let rm ← RMode.ofCode (bits f.x 0 3)
  return k { t, sat := bitAt f.md 0, rm, d := ← Spec.ofCode f.d, a := ← Spec.ofCode f.a, b := ← Spec.ofCode f.b,
             c := ← Spec.ofCode f.c }
def Fields.vbin (f : Fields) (k : VBin → Instr) : Option Instr := do
  let t ← LaneT.ofCode f.var
  return k { t, d := ← Spec.ofCode f.d, a := ← Spec.ofCode f.a, b := ← Spec.ofCode f.b, c := ← Spec.ofCode f.c }
def Fields.vun (f : Fields) (k : VUn → Instr) : Option Instr := do
  let t ← LaneT.ofCode f.var
  return k { t, sat := bitAt f.md 0, d := ← Spec.ofCode f.d, a := ← Spec.ofCode f.a, c := ← Spec.ofCode f.c }
def Fields.vtr (f : Fields) (k : VTr → Instr) : Option Instr := do
  return k { d := ← Spec.ofCode f.d, a := ← Spec.ofCode f.a, c := ← Spec.ofCode f.c }

/-- Class 3, OPC 0x60-0x7F (R185). -/
def Fields.read3 (f : Fields) : Option Instr :=
  match f.opc.toNat with
  | 0x60 => f.varith .vadd
  | 0x61 => f.varith .vsub
  | 0x62 => f.varith .vmul
  | 0x63 => f.varith .vfma
  | 0x64 => f.varith .vfms
  | 0x65 => f.vbin .vmin
  | 0x66 => f.vbin .vmax
  | 0x67 => f.vun .vabs
  | 0x68 => f.vun .vneg
  | 0x69 => do
      let cc ← VCond.ofCode (bits f.x 0 3)
      f.vbin (.vcmp cc)
  | 0x6A => f.vbin .vsel
  | 0x6B => f.vbin .vand
  | 0x6C => f.vbin .vor
  | 0x6D => f.vbin .vxor
  | 0x6E => f.vbin .vshl
  | 0x6F => f.vbin .vshr
  | 0x70 => do
      let src ← LaneT.ofCode (0#1 ++ bits f.x 4 3)
      f.varith (.vcvt src (bits f.x 8 2))
  | 0x71 => f.vtr .vrcp
  | 0x72 => f.vtr .vrsq
  | 0x73 => f.vtr .vsqrt
  | 0x74 => f.vtr .vexp2
  | 0x75 => f.vtr .vlog2
  | 0x76 => do
      let t ← LaneT.ofCode f.var
      let op ← VOp.ofCode (bits f.x 0 3)
      f.dac fun d a c => .vred t op d a c
  | 0x77 => do
      let t ← LaneT.ofCode f.var
      let op ← VOp.ofCode (bits f.x 0 3)
      f.dac fun d a c => .vscan t (bitAt f.md 0) op d a c
  | 0x78 => f.vbin .vperm
  | 0x79 => do
      let t ← LaneT.ofCode f.var
      f.dac fun d a c => .vbcast t d a c (bits f.x 0 5)
  | 0x7A => do
      let t ← LaneT.ofCode f.var
      f.da fun d a => .vext t d a (bits f.x 0 7)
  | 0x7B => do
      let t ← LaneT.ofCode f.var
      f.dac fun d a c => .vld t d a c f.x
  | 0x7C => do
      let t ← LaneT.ofCode f.var
      f.abc fun a b c => .vst t a b c f.x
  | 0x7D => f.vbin .vgath
  | 0x7E => f.vbin .vscat
  | 0x7F => f.vbin (.vcrand (bitAt f.md 0))
  | _ => none

def Fields.mma (f : Fields) (k : MmaOp → Instr) : Option Instr := do
  let pair ← MPair.ofCode f.var
  return k { pair, d := bits f.d 0 2, a := ← Spec.ofCode f.a, b := ← Spec.ofCode f.b, c := f.sC,
             sb := bits f.x 24 16, sa := bits f.x 8 16, brow := bitAt f.x 4, ext := bitAt f.x 3, kb := bits f.x 0 3 }

/-- The shared fields of TST and TLD; `t` holds the tile and `o` the offset (R249). -/
def Fields.tileIo (f : Fields) (t o : BitVec 8) : Option TileIo := do
  return { fmt := ← Fmt.ofCode f.var, w := bitAt f.md 1, tile := bits t 0 2, off := ← Spec.ofCode o,
           c := ← Spec.ofCode f.c, ext := bitAt f.x 3, st := bits f.x 8 16 }

/-- Class 4, OPC 0x80-0x9F (R244, R249, R257). -/
def Fields.read4 (f : Fields) : Option Instr :=
  let w := bitAt f.var 0
  match f.opc.toNat with
  | 0x80 => f.mma .mma
  | 0x81 => f.mma .mmag
  | 0x83 => some (.wmma (bitAt f.var 0) (bitAt f.var 1) (bitAt f.var 2) (bitAt f.md 1) (bitAt f.md 0)
      (bits f.d 0 2) (bits f.a 0 5) f.sB)
  | 0x84 => some (.tclaim w (bits f.d 0 2))
  | 0x85 => some (.trel w (bits f.d 0 2))
  | 0x86 => some (.tzero w (bits f.d 0 2))
  | 0x87 => do
      let rm ← RMode.ofCode (bits f.x 0 3)
      let d ← Spec.ofCode f.d
      return .tst (bitAt f.md 0) rm d (← f.tileIo f.a f.b)
  | 0x88 => do return .tld (← f.tileIo f.d f.a)
  | 0x89 => some (.mhint (bits f.x 0 16))
  | _ => none

/-- Class 5, OPC 0xA0-0xBF (R271). -/
def Fields.read5 (f : Fields) : Option Instr :=
  let d := bits f.d 0 3
  let a := bits f.a 0 3
  let b := bits f.b 0 3
  let g := bits f.x 0 2
  let l := bitAt f.var 0
  match f.opc.toNat with
  | 0xA0 => f.ab fun p q => .awr p q (bits f.x 8 5) g
  | 0xA1 => f.abc fun p q r => .avfy p q r (bits f.x 8 5) g
  | 0xA2 => f.a1 fun p => .amvm f.sD p g
  | 0xA3 => some (.acal (bits f.x 8 4) (bits f.x 2 3) g)
  | 0xA4 => some (.astat d g)
  | 0xA5 => some (.aclaim g)
  | 0xA6 => some (.arel g)
  | 0xA7 => if l then some (.bldBuf d (bits f.x 2 5) g) else f.a1 fun p => .bld d p f.x
  | 0xA8 => f.a1 fun p => .bst p b f.x
  | 0xA9 => some (if l then .baddSub d a b else .badd d a b)
  | 0xAA => do return .bmul d a (← Spec.ofCode f.b)
  | 0xAB => do return .bfma d a (← Spec.ofCode f.b)
  | 0xAC => some (if l then .bminmaxMax d a b else .bminmaxMin d a b)
  | 0xAD => if l then do return .bactClamp d a (← Spec.ofCode f.b) else some (.bactRelu d a)
  | 0xAE => some (if l then .acceptRaw (bits f.d 0 4) a
      else .acceptGrid (bitAt f.md 0) (bits f.d 0 4) a (bits f.x 0 8))
  | 0xAF => match f.var.toNat with
    | 0 => some (.bcvtF32 d (bits f.a 0 4))
    | 1 => some (.bcvtI32 d (bits f.a 0 4))
    | _ => some (.bcvtBf16 d a)
  | _ => none

def Fields.wire (f : Fields) : Option Wire := do
  return { fmt := ← Fmt.ofCode (bits f.x 4 4), rm := ← RMode.ofCode (bits f.x 8 3), sat := bitAt f.md 1,
           wait := bitAt f.md 0 }

def Fields.copyOp (f : Fields) (k : CopyOp → Instr) : Option Instr := do
  return k { d := f.sD, a := ← Spec.ofCode f.a, b := ← Spec.ofCode f.b, c := f.sC, sat := bitAt f.x 15,
             rm := ← RMode.ofCode (bits f.x 12 3), dfmt := ← Fmt.ofCode (bits f.x 8 4),
             sfmt := ← Fmt.ofCode (bits f.x 4 4), dk := ← EndK.ofCode (bits f.x 2 2),
             sk := ← EndK.ofCode (bits f.x 0 2) }

/-- Class 6, OPC 0xC0-0xDF (R297, R310, R323, R338). -/
def Fields.read6 (f : Fields) : Option Instr :=
  let q := bits f.x 0 2
  let l := bitAt f.var 0
  match f.opc.toNat with
  | 0xC0 => do
      let w ← f.wire
      f.abc fun a b c => .send a b c q w
  | 0xC1 => do
      let w ← f.wire
      let d ← Spec.ofCode f.d
      f.abc fun a b c => .dep d a b c w
  | 0xC2 => do
      let w ← f.wire
      f.abc fun a b c => .synst a b c w
  | 0xC3 => do
      let w ← f.wire
      let c ← Spec.ofCode f.c
      f.da fun d a => .synld d a c w
  | 0xC4 => do
      let w ← f.wire
      f.abc fun a b c => if l then .mcastQ a b c q w else .mcastRow a b c (bits f.x 12 18) w
  | 0xC5 => some (if l then .barjLeave else .barj)
  | 0xC6 => do return .bara (← Spec.ofCode f.d)
  | 0xC7 => f.a1 .barw
  | 0xC8 => f.da .barq
  | 0xC9 => f.copyOp .copy
  | 0xCA => f.copyOp .copy2
  | 0xCB => f.ab fun a b => .dcopy f.sD a b
  | 0xCC => f.a1 fun a => .dzero f.sD a
  | 0xCD => f.dab fun d a b => .spawn d a b f.sC (bits f.x 0 20)
  | 0xCE => some .quit
  | 0xCF => f.a1 fun a => .migrate a (bits f.x 1 31)
  | 0xD0 => f.dab fun d a b => .tdef d a b f.sC (bits f.x 0 20) (bits f.x 20 15) (bits f.x 35 12)
  | 0xD1 => f.a1 .tdec
  | 0xD2 => f.a1 .launch
  | 0xD3 => f.a1 fun a => .qcfg a q (bits f.x 2 4) (bits f.x 6 2) (bits f.x 8 2)
  | 0xD4 => some (.stage q (bitAt f.x 2) (bits f.x 3 2) (bitAt f.x 5) (bitAt f.x 6))
  | 0xD5 => f.a1 fun a => .qeos a q
  | 0xD6 => some (.ldbal (bits f.x 0 4))
  | _ => none

/-- Class 7, OPC 0xE0-0xFF (R230, R373). -/
def Fields.read7 (f : Fields) : Option Instr :=
  let t := Tgt.ofCode f.x
  let l := bitAt f.var 0
  match f.opc.toNat with
  | 0xE0 => f.ab fun a b =>
      .wbegin (bits f.var 2 2) (bitAt f.var 1) l f.sD a b (bits f.x 0 8) (bits f.x 8 4)
  | 0xE1 => some .wend
  | 0xE2 => some (.wloop l (f.b ++ f.c) t)
  | 0xE3 => some (.wjmp t)
  | 0xE4 => some (if l then .wvoteOr else .wvoteAnd)
  | 0xE5 => some (if l then .wbrvF t else .wbrvT t)
  | 0xE6 => some .wckpt
  | 0xF0 => some (if l then .mboxNb (bits f.d 0 4) else .mbox (bits f.d 0 4))
  | 0xF1 => f.a1 (if l then .fenceuUn else .fenceu)
  | 0xF2 => f.da .stest
  | 0xF3 => f.a1 .preempt
  | 0xF4 => f.abc fun a b c => .resume l (bitAt f.var 1) a b c
  | 0xF5 => f.a1 .kill
  | 0xF6 => f.dab .ckpt
  | 0xF7 => some (.keyz (bits f.x 0 3))
  | 0xF8 => f.abc .mapw
  | 0xF9 => match f.var.toNat with
    | 0 => f.ab .tlbi
    | 1 => f.ab .tlbiAs
    | _ => f.ab .tlbiAll
  | _ => none

/-- The instruction the fields name, by engine class OPC[7:5] (R69). -/
def Fields.read (f : Fields) : Option Instr :=
  match (bits f.opc 5 3).toNat with
  | 0 => f.read0
  | 1 => f.read1
  | 2 => f.read2
  | 3 => f.read3
  | 4 => f.read4
  | 5 => f.read5
  | 6 => f.read6
  | _ => f.read7

/-! ### Decode -/

/-- Why a word is a reserved encoding (R59). -/
inductive DecodeError
  /-- OPC is unassigned in the opcode map (R69), or a code in VAR, a specifier or a sub-field is. -/
  | unassigned
  /-- A field the instruction does not use is not zero. -/
  | unusedField
  /-- An operand class or another field value that the instruction does not accept. -/
  | field
  deriving DecidableEq, Repr

/-- The instruction of a word in a stream (`w`) or in an ordinary context, or why it has none (R59). -/
def decode (w : Bool) (word : W96) : Except DecodeError Instr :=
  let f := Fields.unpack word
  match f.read with
  | none => .error .unassigned
  | some i =>
    if i.fields = some f then
      if i.wf w then .ok i else .error .field
    else .error .unusedField

/-- The instruction that the decoder reads from a word numbered as spec/opcode_table.json numbers it: one that an
ordinary context decodes, or else one of a wave stream. -/
def decodeTableWord (_nbits w : Nat) : Option Instr :=
  match decode false (BitVec.ofNat 96 w) with
  | .ok i => some i
  | .error _ =>
    match decode true (BitVec.ofNat 96 w) with
    | .ok i => some i
    | .error _ => none

end Sys2Proof
end

