-- ==== Sys2Proof/Config.lean ====
section
/-!
DEFINITION. What the spec leaves open: the free values. None has a body, so no proof can see its value.
The argument `n` is the number of the draw, which the step reads from State and advances (DESIGN CHOICE, log entry 2).
-/

namespace Sys2Proof.Config

/-- Which of several enabled agents acts next, where the spec fixes no order (R31, R146 to R176).
(DESIGN CHOICE, log entry 8.) -/
opaque arbiter (n : Nat) : Nat
/-- A free value of 64 bits: a physical or unstated result (DESIGN CHOICE, log entry 8). -/
opaque freeWord (n : Nat) : Word
/-- A free choice (DESIGN CHOICE, log entry 8). -/
opaque freeBool (n : Nat) : Bool
/-- The quantised output q[j] of an array before the bound law limits it (R275, R276).
(DESIGN CHOICE, log entry 8.) -/
opaque arrayOutput (n j : Nat) : Int
/-- Whether the signature of a boot image verifies (R379). (DESIGN CHOICE, log entry 8.) -/
opaque imageValid (n : Nat) : Bool
/-- Several free words of one draw: the scales (DESIGN CHOICE, log entry 12), bytes of a task row, a checkpoint store's answer.
(DESIGN CHOICE, log entry 8.) -/
opaque freeWords (n k : Nat) : Word
/-- A line of another chip's memory, in a cycle, for a check that asks no one for it (DESIGN CHOICE, log entry 112). -/
opaque farLine (cycle pa : Nat) : BitVec 512

end Sys2Proof.Config
end

