-- ==== Sys2Proof/Machine/State.lean ====
section
/-!
DEFINITION. The state of one Q4 package: plain data, all that the spec gives the machine, and State.reset.
Contexts, cores, clusters, packets and operations are held in association lists keyed by a number.
-/

namespace Sys2Proof.Machine

/-! ### Association lists -/

/-- Plain finite map: the first entry of a key counts; `put` keeps rising keys rising. -/
abbrev Map (α : Type) := List (Nat × α)

def Map.find {α : Type} (m : Map α) (k : Nat) : Option α :=
  match m with
  | [] => none
  | (j, a) :: m => if j = k then some a else Map.find m k

def Map.getD {α : Type} (m : Map α) (k : Nat) (d : α) : α := (Map.find m k).getD d

def Map.put {α : Type} (m : Map α) (k : Nat) (a : α) : Map α :=
  match m with
  | [] => [(k, a)]
  | (j, b) :: m =>
    if k < j then (k, a) :: (j, b) :: m
    else if k = j then (k, a) :: m
    else (j, b) :: Map.put m k a

def Map.del {α : Type} (m : Map α) (k : Nat) : Map α := m.filter fun p => p.1 != k

/-! ### Faults and registers -/

/-- A fault by R73 before its record is numbered. -/
structure FaultRec where
  code : BitVec 8
  info : List Word := []
  taddr : Pc := 0
  /-- reporting unit (R74) -/
  src : BitVec 4 := 0
  /-- PC the fault is charged to; none for the current instruction -/
  pc : Option Pc := none
  /-- raised by a grid ACCEPT (R28) -/
  grid : Bool := false
  deriving DecidableEq, Repr

/-- What fills a reserved register (R44, R275). -/
inductive TokKind
  /-- a DEP from the context of this chip and CXID -/
  | dep (chip : BitVec 8) (cxid : BitVec 20)
  | copy | wave | amvm
  deriving DecidableEq, Repr

/-- Register states (R63, R47). -/
inductive RegSt
  | dead
  | full
  /-- full and write-protected: deposited and not yet read; with the fault its first read raises -/
  | prot (k : TokKind) (f : Option FaultRec)
  /-- empty-reserved, with the number of the operation or the ordinal of the reservation -/
  | reserved (k : TokKind) (op : Nat)
  /-- empty-reserved with a broken reservation (R47) -/
  | broken
  deriving DecidableEq, Repr

/-- DESIGN CHOICE, log entry 3: a context has no values before its creation; fields that creation sets hold 0, and a
dead register holds 0 that no read returns. -/
structure Reg (w : Nat) where
  val : BitVec w := 0
  st : RegSt := .dead
  deriving DecidableEq, Repr

/-- FLAGS (R66). -/
structure Flags where
  e : Bool := false
  b : Bool := false
  ann : BitVec 2 := 0
  o : Bool := false
  t : Bool := false
  v : Bool := false
  c : Bool := false
  n : Bool := false
  z : Bool := false
  deriving DecidableEq, Repr

/-- Per-context control registers (R65). -/
structure Ctl where
  thnd : Pc := 0
  tcause : BitVec 8 := 0
  tpc : Pc := 0
  taddr : Pc := 0
  tinfo : Word := 0
  cvmt : BitVec 48 := 0x000000FF0000FFFE
  cvma : BitVec 48 := 0x0000000F000001FE
  cvmr : BitVec 48 := 0x0000000100000006
  waitlim : BitVec 32 := 0
  srk : Word := 0
  prov : Word := 0
  stq : Word := 0
  deriving DecidableEq, Repr

/-- One loop level (R158). (DESIGN CHOICE, log entry 3.) -/
structure LoopLv where
  count : Word := 0
  start : Pc := 0
  stop : Pc := 0
  active : Bool := false
  /-- the queue of a LOOPQ level -/
  queue : Option (BitVec 2) := none
  deriving DecidableEq, Repr

/-- Identity registers (R62, R332). (DESIGN CHOICE, log entry 3.) -/
structure Ident where
  die : Word := 0
  row : Word := 0
  col : Word := 0
  slot : Word := 0
  chip : Word := 0
  stage : Word := 0
  replica : Word := 0
  extm : Word := 0
  extn : Word := 0
  extk : Word := 0
  orgm : Word := 0
  orgn : Word := 0
  orgk : Word := 0
  grp : Word := 0
  cxid : Word := 0
  deriving DecidableEq, Repr

/-- Where a context is (R24, R335). -/
inductive Place
  | nowhere
  | slot (core k : Nat)
  | queued (core : Nat)
  | spilled (core : Nat)
  | transit
  /-- saved by a pre-emption in the spill area of a core (R178) -/
  | saved (core : Nat)
  | wave (core k : Nat)
  deriving DecidableEq, Repr

/-- Slot states of a resident context (R146). -/
inductive Run
  | ready | parked | sleeping | faulted | ended
  deriving DecidableEq, Repr

/-- Kinds of operations that await an answer (R127, R296). -/
inductive OpenKind
  | store | join | send | dep | synst | mcast | tdec | waiter | read | freeze | handoff | other
  deriving DecidableEq, Repr

/-- An operation of a context without its answer: issue number, kind, issuing PC, and whether STQ counts it. -/
structure Open where
  kind : OpenKind
  pc : Pc
  counted : Bool
  /-- ordered flow of its packet, the links it has taken, and, of a join-path request, line and join sequence
  (R293, R357, R358) -/
  flow : Option Nat := none
  path : List Nat := []
  line : Option Nat := none
  seq : BitVec 16 := 0
  deriving DecidableEq, Repr

/-- An answer that has reached its context. -/
structure Ans where
  faults : List FaultRec := []
  words : List Word := []
  data : List Byte := []
  flag : Bool := false
  deriving DecidableEq, Repr

/-- A fault owed to the next wait for STQ = 0 (R75): issue number and lane or core order. -/
structure Owed where
  op : Nat
  ord : Nat
  fault : FaultRec
  deriving DecidableEq, Repr

/-- Registers as a pair reads them, before either instruction writes (R57). -/
structure View where
  s : Vector (Reg 64) 32
  v : Vector (Reg 1024) 16
  b : Vector (Reg 2048) 8
  flags : Flags
  deriving DecidableEq, Repr

/-- A stage declaration with what STAGE saved (R348, R351). -/
structure StageSt where
  input : Option (BitVec 2)
  output : Option (BitVec 2)
  rep : Bool
  tag : BitVec 16 := 0
  /-- s1 to s8 at the STAGE -/
  regs : List (Reg 64) := []
  lc0 : LoopLv := {}
  lc1 : LoopLv := {}
  /-- PC after the STAGE (R350) -/
  restart : Pc := 0
  pushed : Bool := false
  popped : Bool := false
  deriving DecidableEq, Repr

/-- Why and how a context was created (R339, R340). -/
structure Creator where
  /-- key of the parent; none for a launched context -/
  parent : Option Nat := none
  parentCxid : BitVec 20 := 0
  /-- status word: address, or none -/
  status : Option Pc := none
  deriving DecidableEq, Repr

/-- One saved value of a link register or latch (R214, R258). -/
structure LinkVal (w : Nat) where
  step : Nat
  val : BitVec w
  deriving DecidableEq, Repr

/-- What a wave slot keeps beside its registers (R207, R212, R214, R225, R258). -/
structure WavePart where
  stream : Nat := 0
  core : Nat := 0
  /-- values that le and ls held after the last steps, newest first -/
  le : List (LinkVal 1024) := []
  ls : List (LinkVal 1024) := []
  east : List (LinkVal 8192) := []
  south : List (LinkVal 8192) := []
  /-- the step in execution, and the number of steps completed (R225) -/
  step : Nat := 0
  done : Nat := 0
  deriving DecidableEq, Repr

/-- A claimed tile (R235): set (own or wave), context of the claim, name, contents of 32 x 32 FP32. -/
structure Tile where
  wave : Bool
  cx : Nat
  name : BitVec 2
  data : BitVec 32768 := 0
  deriving DecidableEq, Repr

/-- A leaf entry with its page, as a TLB holds it (R115, R117). -/
structure Tlb where
  asid : BitVec 16
  /-- first address of the page and its size in bits: 16, 26 or 36 -/
  base : Pc
  size : Nat
  e : BitVec 128
  /-- the physical address of the leaf -/
  at_ : Nat := 0
  deriving DecidableEq, Repr

/-- A context (R23). (DESIGN CHOICE, log entry 3.) -/
structure Ctx where
  live : Bool := false
  chip : BitVec 8 := 0
  cxid : BitVec 20 := 0
  asid : BitVec 16 := 0
  priv : Bool := false
  ident : Ident := {}
  place : Place := .nowhere
  run : Run := .ready
  pc : Pc := 0
  /-- PC of the unit in progress, and the next PC after it (R55) -/
  head : Pc := 0
  npc : Pc := 0
  /-- the unit has transferred control (R159) -/
  xfer : Bool := false
  /-- where an end token sends a pair once its other half is done (R160, R349) -/
  leave : Option Pc := none
  /-- the next unit is an entry to its line (R54) -/
  entry : Bool := true
  flags : Flags := {}
  s : Vector (Reg 64) 32 := Vector.replicate 32 {}
  v : Vector (Reg 1024) 16 := Vector.replicate 16 {}
  b : Vector (Reg 2048) 8 := Vector.replicate 8 {}
  ctl : Ctl := {}
  loop0 : LoopLv := {}
  loop1 : LoopLv := {}
  unf : BitVec 5 := 0
  /-- lowest and highest VA marked, by path (R42) -/
  env : Map (Pc × Pc) := []
  /-- the parked instruction, its phase, and the entries it has popped (R8, R151, R347) -/
  instr : Option Instr := none
  phase : Nat := 0
  popped : List Word := []
  /-- how many of them the run in progress has read -/
  popIx : Nat := 0
  /-- numbers of the operations the parked instruction waits for -/
  waits : List Nat := []
  /-- a value the parked instruction formed before it parked -/
  held : List Word := []
  view : Option View := none
  opens : Map Open := []
  answers : Map Ans := []
  owed : List Owed := []
  /-- a page whose walk has ended in a fault, for the retried access: that of R116, or that of a table line (R117) -/
  badWalk : Option (Pc × Option FaultRec) := none
  /-- the line of code of another chip's memory that the context is in (R54) -/
  code : Option (Pc × Line) := none
  /-- lines received for a load in progress, by line address (R168) -/
  lineBuf : Map Line := []
  /-- translations that the instruction in progress has obtained (R8, R151) -/
  pages : List Tlb := []
  /-- entries to lines since it became resident, and the PC of the last ALIGN (R161) -/
  lineCount : Nat := 0
  alignPc : Option Pc := none
  /-- rotations or cycles left of SLEEP, TRD.W, BARQ, ALIGN (R164, R140, R305) -/
  until_ : Option Nat := none
  remain : Nat := 0
  expired : Bool := false
  /-- gives up its next own position (SLEEP 0, R164) -/
  skipOwn : Bool := false
  /-- reservations by source: (chip:cxid) ↦ (ordinal of the next RSV, of the next matched DEP) (R45) -/
  rsvNext : Map Nat := []
  rsvOpen : List (Nat × Nat × Spec) := []
  /-- DEPs issued by receiver: the sequence tags of their flows (R292) -/
  depNext : Map Nat := []
  /-- DEPs of each source that the directory has sent to this context (R45) -/
  depSeen : Map Nat := []
  creator : Creator := {}
  group : Option Nat := none
  /-- launch index (R331) -/
  index : Nat := 0
  prio : Nat := 0
  stage : Option StageSt := none
  /-- push counts by core and queue (R347) -/
  pushes : Map (BitVec 16) := []
  /-- numbers of the next join-path request and of the next other packet (R356, R357) -/
  joinSeq : BitVec 16 := 0
  pktSeq : BitVec 16 := 0
  /-- arrived by creation or MIGRATE (R344) -/
  arrival : Bool := false
  wave : Option WavePart := none
  /-- own-set tiles of a pre-empted context (R237) -/
  savedTiles : List Tile := []
  preempt : Bool := false
  /-- holds an image in a spill area; the slot it left with barrier membership (R178, R333, R336) -/
  image : Bool := false
  slotLeft : Option Nat := none
  /-- thread address of the killer (R377) -/
  kill : Option (BitVec 24) := none
  /-- faults the supervisor has yet to act on, and the PC of the record (R76, R377) -/
  faults : List FaultRec := []
  /-- reports of killed children that have yet to enter the handler (R67, R377) -/
  notices : List FaultRec := []
  deriving DecidableEq, Repr

/-! ### Cores, clusters and dies -/

/-- A region register (R171). -/
structure Region where
  cxid : BitVec 20 := 0
  kind : BitVec 2 := 0
  rowsM1 : BitVec 12 := 0
  base : BitVec 12 := 0
  deriving DecidableEq, Repr

/-- Fill bit and bound writer of a shared row (R174). -/
structure RowSt where
  full : Bool := false
  bound : Option (BitVec 24) := none
  deriving DecidableEq, Repr

/-- A line in an L1 (R169). -/
structure L1Line where
  va : Pc
  asid : BitVec 16
  /-- CXID of the context that brought it in -/
  cxid : BitVec 20
  /-- a line of a PRIV page, which hits for that context only; others are read-only -/
  own : Bool
  pa : Nat
  dirty : Bool := false
  data : Line
  deriving DecidableEq, Repr

/-- An entry of a stage queue (R346, R349). -/
structure QEntry where
  tag : BitVec 16
  val : Word
  eos : Bool := false
  /-- cycle from which it can be popped (R148) -/
  ready : Nat := 0
  deriving DecidableEq, Repr

/-- A stage queue (R346). -/
structure StageQ where
  depth : Nat := 0
  sender : Option (BitVec 28) := none
  prod : BitVec 2 := 0
  cons : BitVec 2 := 0
  group : Option Nat := none
  expect : BitVec 16 := 0
  entries : List QEntry := []
  /-- cycles since which the occupancy has been above and at zero (R350) -/
  highSince : Option Nat := none
  emptySince : Option Nat := none
  deriving DecidableEq, Repr

/-- A queued operation of a matrix engine (R238). -/
structure MatOp where
  id : Nat
  cx : Nat
  thread : BitVec 24 := 0
  pc : Pc := 0
  instr : Instr
  /-- operands read at issue -/
  args : List Word := []
  /-- the operand latch: element codes of A in row order (R243) -/
  latch : List Word := []
  /-- quarter-cycles of work at full rate (R239, R253) -/
  work : Nat := 0
  deriving DecidableEq, Repr

/-- The matrix engine of a core (R238, R253, R254, R256). -/
structure Matrix where
  level : Nat := 0
  /-- cycle in which the level was entered -/
  since : Nat := 0
  hint : Nat := 0
  /-- cycle of the last MHINT or acceptance under it -/
  hintAt : Nat := 0
  /-- cycle from which it has been idle with H = 0 -/
  idleSince : Nat := 0
  queue : List MatOp := []
  /-- quarter-cycles of work done on the first operation, up to a cycle -/
  prog : Nat := 0
  progAt : Nat := 0
  /-- held at level 4 by a stream -/
  held : Bool := false
  deriving DecidableEq, Repr

/-- A deposit held for a reservation not yet made (R46). -/
structure Deposit where
  cx : Nat
  /-- chip and CXID of the sender -/
  source : Nat
  ord : Nat
  reg : Spec
  val : BitVec 2048
  pc : Pc
  thread : BitVec 24
  /-- the CXID that the record of its refusal names (R351) -/
  sender : BitVec 20
  deriving DecidableEq, Repr

/-- What a part of a spill area holds: an arrival's entry, an image, a bounded image, a tile image, a deposit of a source
and ordinal, a wave image, a matrix wave image (R46, R178, R227, R237, R261, R336). -/
inductive SpillKind
  | entry | image | bounded
  | tile (n : Nat)
  | deposit (source ord : Nat)
  | wave | matrixWave
  deriving DecidableEq, Repr

/-- A part of a spill area: the context it belongs to, its first byte in the area, its bytes, and what was written there. -/
structure SpillPart where
  key : Nat
  kind : SpillKind
  off : Nat
  size : Nat
  wrote : List (Nat × List Byte) := []
  deriving DecidableEq, Repr

/-- What the task engine keeps of a task in its row (R341). -/
structure TaskRow where
  cx : Nat
  tag : Nat
  deriving DecidableEq, Repr

/-- DESIGN CHOICE, log entry 4: the spec gives the scratchpad no contents after reset; every row reads as zero. -/
structure Core where
  /-- residents by slot -/
  slots : Map Nat := []
  waveRes : Bool := false
  /-- streams of slots 0 and 8 -/
  waveSlots : Map Nat := []
  regions : Map Region := []
  rows : Map Row := []
  rowSt : Map RowSt := []
  /-- rows with an uncorrectable error -/
  badRows : List Nat := []
  qcap : BitVec 6 := 48
  arrivals : List Nat := []
  passed : Map Nat := []
  spill : List Nat := []
  /-- what the spill area holds, and where (R375) -/
  spillMap : List SpillPart := []
  queues : Map StageQ := []
  matrix : Matrix := {}
  tiles : List Tile := []
  /-- waiting claims: context, wave set, name -/
  tileWait : List (Nat × Bool × BitVec 2) := []
  tlb : List Tlb := []
  l1 : List L1Line := []
  /-- forwarding entries: context and destination core (R335) -/
  fwd : Map Nat := []
  wstepA : BitVec 32 := 0xFFFFFFFF
  wstepB : BitVec 32 := 0xFFFFFFFF
  deposits : List Deposit := []
  /-- task rows that hold a task, and those in the ready table (R337, R341) -/
  taskRows : Map TaskRow := []
  readyTasks : List Nat := []
  /-- positions that the unit of a slot has had, and forfeits in a row of the slot (R149, R176) -/
  forfeits : Map Nat := []
  losses : Map Nat := []
  deriving DecidableEq, Repr

/-- The barrier object (R304). -/
structure Barrier where
  member : Word := 0
  holder : Map (BitVec 20) := []
  arrived : Word := 0
  phase : BitVec 32 := 0
  deriving DecidableEq, Repr

/-- A command of an array (R267, R268). -/
structure ArrCmd where
  id : Nat
  cx : Nat
  core : Nat
  instr : Instr
  /-- operands read at issue -/
  args : List Word := []
  /-- cycle at which it completes, once it runs -/
  due : Option Nat := none
  deriving DecidableEq, Repr

/-- The result buffer of an array (R264, R275, R278). -/
inductive ArrBuf
  | empty
  /-- outputs with their saturation bits, BND and s of the product -/
  | valid (q : List Int) (sat : List Bool) (bnd s : Nat)
  /-- g* or 16, and the deviation field -/
  | withheld (g dev : Nat)
  deriving DecidableEq, Repr

/-- A crossbar array (R264). -/
structure Array4 where
  claim : Option Nat := none
  /-- weight rows of 1,024 signed 4-bit values, packed (R263) -/
  weights : Map (BitVec 4096) := []
  tag : BitVec 16 := 0
  calibrated : Bool := false
  bnd : Nat := 0
  glim : Nat := 0
  scale : Nat := 0
  queue : List ArrCmd := []
  buf : ArrBuf := .empty
  /-- numerators of dev[g] over 2^s of the last product, and that s -/
  devs : List Int := []
  devScale : Nat := 0
  products : Nat := 0
  withheldN : Nat := 0
  sats : Nat := 0
  reprog : Nat := 0
  deriving DecidableEq, Repr

/-- What a COPY or COPY2 fixes at issue (R307 to R311): endpoints, extents, strides, element bytes and formats. -/
structure CopyShape where
  sk : EndK
  dk : EndK
  sa : Word
  sb : Word
  rows : Nat
  cols : Nat
  ss : Int
  ds : Int
  zs : Nat
  zd : Nat
  fs : Fmt
  fd : Fmt
  sat : Bool
  rm : RMode
  idx : Word
  key : Word
  deriving DecidableEq, Repr

/-- A memory line of a copy: VA, place, home, and the entry of its page. -/
structure CopyLine where
  va : Nat
  pa : Nat
  home : Nat
  e : BitVec 128
  deriving DecidableEq, Repr

/-- What an operation of the copy engine does: it waits for its turn, has units of other chips marked, reads its source,
writes its destination (R311). -/
inductive CopyPhase
  | waiting | opening | reading | writing
  deriving DecidableEq, Repr

/-- An operation of the copy engine (R313). -/
structure CopyCmd where
  id : Nat
  cx : Nat
  core : Nat
  thread : BitVec 24
  reg : BitVec 5
  /-- destination address, for TADDR of a failed token (R315) -/
  target : Pc
  /-- none for DCOPY and DZERO within a stack -/
  shape : Option CopyShape
  /-- DCOPY or DZERO -/
  page : Bool := false
  src : List CopyLine := []
  dst : List CopyLine := []
  /-- cores of the scratchpad endpoints, 8192 + chip for another chip's -/
  sCore : Nat := 0
  dCore : Nat := 0
  /-- their core addresses -/
  sAddr : BitVec 20 := 0
  dAddr : BitVec 20 := 0
  /-- entry and log2 size of the destination page of DCOPY and DZERO; the rows pair for row transfers (R321) -/
  e : BitVec 128 := 0
  size : Nat := 16
  rowPair : Bool := false
  phase : CopyPhase := .waiting
  /-- answers that are out; what has been read, by line address or row; the units refused, with their faults -/
  left : Nat := 0
  got : Map (List Byte) := []
  refused : List (Nat × FaultRec) := []
  /-- bytes to write, by destination address, once the source has been read (R311) -/
  image : List Host.Cell := []
  /-- destination rows still to be written -/
  rest : List Nat := []
  deriving DecidableEq, Repr

/-- A cluster (R19). Its L2 slice is no state apart from memory (DESIGN CHOICE, log entry 92). -/
structure Cluster where
  barrier : Barrier := {}
  arrays : Map Array4 := []
  /-- waiting array claims: context, array -/
  arrWait : List (Nat × BitVec 2) := []
  tlb : List Tlb := []
  copies : List CopyCmd := []
  deriving DecidableEq, Repr

/-- State of one link: a bundle side, a peer port or the Gweblink port (R360, R365). -/
structure Link where
  crce : BitVec 16 := 0
  lrtc : BitVec 16 := 0
  /-- 0 down, 1 training, 2 up, 3 replaying, 4 fenced for self-test, 5 fenced as lasting -/
  lst : BitVec 4 := 0
  rev : Bool := false
  /-- cycles of the replays in the last 65,536, and retrains failed in a row -/
  replayAt : List Nat := []
  failed : Nat := 0
  /-- sequence number of the next link flit; the packet it belongs to (0 for one from outside) and its flits so far -/
  seq : Nat := 0
  part : Option (Nat × Nat) := none
  deriving DecidableEq, Repr

/-- A page walk in flight (R117): its number, the first address that asked for it, the first address of the leaf it
will find. -/
structure Walk where
  id : Nat
  asid : BitVec 16
  va : Pc
  leaf : Pc
  /-- contexts that wait for it, with the page of each -/
  cxs : List (Nat × Pc)
  /-- table lines received from other chips, and those asked for, by line address -/
  far : Map Line := []
  asked : List Nat := []
  /-- the fault with which another chip has refused one -/
  fault : Option FaultRec := none
  deriving DecidableEq, Repr

/-- DESIGN CHOICE, log entry 5: the spec gives the mailbox no first SEQ; SEQ starts at 0.
(DESIGN CHOICE, log entry 6.) -/
structure Die where
  /-- records accepted and not yet taken (R77) -/
  mailbox : List Line := []
  /-- records that units hold, in order (R77) -/
  heldRecs : List Line := []
  seq : BitVec 12 := 0
  avc : BitVec 640 := BitVec.allOnes 640
  ava : BitVec 640 := BitVec.allOnes 640
  avs : BitVec 192 := (BitVec.allOnes 160).setWidth 192
  avd : BitVec 128 := BitVec.allOnes 128
  alarm : Word := 2
  lqbase : Pc := 0
  lqasid : BitVec 16 := 0
  sptb : Word := 0
  astb : Word := 0
  dtemp : BitVec 16 := 0
  thr : Bool := false
  tlim : BitVec 16 := 420
  balth : BitVec 8 := 0x30
  holdtr : Bool := false
  /-- the transit packets of a held die have been carried through (R366) -/
  drained : Bool := false
  bulken : Bool := true
  llLink : BitVec 16 := 0
  llActive : Bool := false
  llImb : BitVec 16 := 0
  windowFlits : Map Nat := []
  crtb : Word := 0
  links : Map Link := []
  walks : List Walk := []
  nextRec : Nat := 0
  keyG : Bool := false
  keyP : Bool := false
  keyD : Bool := false
  fenced : List Word := []
  lasting : List Word := []
  /-- halted by the alarm policy (R378), and out of the ring for a reset (R379) -/
  halted : Bool := false
  down : Bool := false
  /-- its stacks are encrypted under a key that is gone (R378) -/
  dramLost : Bool := false
  booted : Bool := false
  resetAt : Nat := 0
  deriving DecidableEq, Repr

/-! ### Packets, marks, waiters, groups, streams -/

/-- Kinds of packets in flight (R292, R352). -/
inductive PKind
  | lineReq | lineResp | join | threshold | freeze | exact | answer
  | deposit | queueEntry | row | synld | mcast | copy | tdec | arrival | control
  /-- entry invalidation of PUB and XFER, the reset of a page of another chip, an order of TLBI and MAPW (R354) -/
  | inval | zeroReq | order
  /-- no packet: what a unit keeps of an operation until its answers have come -/
  | record
  deriving DecidableEq, Repr

/-- A packet in flight (R352 to R358): what it carries, and where it is. -/
structure Packet where
  kind : PKind
  /-- the operation it belongs to, and its context -/
  op : Nat := 0
  cx : Nat := 0
  pc : Pc := 0
  thread : BitVec 24 := 0
  /-- destination core number, or 4096 + cluster for a home slice or interface, 8192 + chip for another chip,
  8448 + die for the host at the die's Gweblink port -/
  dst : Nat := 0
  va : Pc := 0
  pa : Nat := 0
  e : BitVec 128 := 0
  /-- log2 of the bytes of the page -/
  size : Nat := 16
  instr : Option Instr := none
  /-- lane of the operation, or core of the answer (R75) -/
  ord : Nat := 0
  words : List Word := []
  data : List Byte := []
  faults : List FaultRec := []
  flag : Bool := false
  /-- the kind of the request that an answer answers -/
  asked : Option PKind := none
  /-- wire format, per-flow sequence tag, destination thread of another chip, and the header that they make (R292) -/
  wire : Wire := { fmt := .raw, rm := .rne, sat := false, wait := false }
  seq : BitVec 16 := 0
  far : BitVec 24 := 0
  head : BitVec 128 := 0
  /-- ordered flow (R293, R357), and flow id (R356) -/
  flow : Option Nat := none
  fid : BitVec 16 := 0
  /-- cluster whose router holds it, the port it came in by, its virtual channel, and its place in the order of entry
  (R352, R355): ports 0 to 3 mesh N, E, S, W; 8 the L2 slice; 9 the network interface; 10 + k link end k -/
  node : Nat := 0
  port : Nat := 9
  vc : Nat := 0
  entered : Nat := 0
  /-- intermediate router of two-phase routing (R361); branch of a multicast tree: 1 east, 2 south (R362) -/
  mid : Option Nat := none
  tree : Nat := 0
  /-- route bit and bundle choice (R356), intermediate die (R364) -/
  yx : Bool := false
  kappa : BitVec 3 := 0
  via : Option Nat := none
  /-- receiving end of the link it crosses, peer links crossed (R368), and whether it has reached its destination -/
  link : Option Nat := none
  hops : Nat := 0
  arrived : Bool := false
  deriving DecidableEq, Repr

/-- A unit that carries marks: a scratchpad row of a core, or a memory line (R34). -/
inductive MUnit
  | row (core r : Nat)
  | line (pa : Nat)
  deriving DecidableEq, Repr

/-- A mark (R34): path 0 c, 1 j, 2 d, 3 m, 4 a. -/
structure Mark where
  unit_ : MUnit
  path : Nat
  write : Bool
  cx : Nat
  op : Nat
  deriving DecidableEq, Repr

/-- The state of a tile or fold group that shares a line with another: R124 has one set of bits for the line
(DEDUCED, log entry 14). -/
structure UnitSt where
  filled : Bool := false
  conflict : Bool := false
  frozen : Bool := false
  deriving DecidableEq, Repr

/-- A threshold waiter at a home slice (R129). -/
structure Waiter where
  home : Nat
  pkt : Packet
  deriving DecidableEq, Repr

/-- A core of a launch that is to receive its contexts: launch index of the first, tile (R330, R331). -/
structure PlanCore where
  core : Nat
  base : Nat
  orgm : Nat
  orgn : Nat
  extm : Nat
  extn : Nat
  /-- contexts it receives: SLOTS, or 0 on a core that is only wave-reserved -/
  count : Nat
  deriving DecidableEq, Repr

/-- A launch group (R25, R325, R329, R331). -/
structure Group where
  number : Word := 0
  byHost : Bool := false
  /-- base and address space of the launch queue that holds its record (R327) -/
  queue : Pc × BitVec 16 := (0, 0)
  asid : BitVec 16 := 0
  entry : Pc := 0
  cxbase : Nat := 0
  /-- launched contexts, and CXIDs of the block -/
  nl : Nat := 0
  span : Nat := 0
  /-- SPAWNLIM -/
  limit : Nat := 0
  stages : Nat := 1
  stageSlots : List Nat := []
  slots : Nat := 0
  /-- ARRCAP -/
  cap : Nat := 0
  prio : Nat := 0
  waveRes : Bool := false
  completion : Option Pc := none
  /-- lowest die of DIES -/
  home : Nat := 0
  /-- every core of the grid, and the cores still to be filled -/
  cores : List Nat := []
  plan : List PlanCore := []
  /-- K, TK, rows per region, ROWBASE, REGBASE, arguments -/
  k : Nat := 0
  tk : Nat := 1
  rows : Nat := 16
  rowBase : Nat := 0
  regBase : Nat := 0
  args : List Word := []
  /-- the block was free and the creation has begun -/
  begun : Bool := false
  created : Nat := 0
  live : Nat := 0
  fb : Bool := false
  fo : Bool := false
  failed : Bool := false
  done : Bool := false
  deriving DecidableEq, Repr

/-- One step of a stream's sequence: PC and what it runs (R209, R210). -/
structure WStep where
  pc : Pc
  instrs : List Instr
  deriving DecidableEq, Repr

/-- Phase of a wave stream (R208, R224, R226 to R228): loading its code, running, stopped until its token lands,
pre-empted, waiting for its engines after a pre-emption. -/
inductive WPhase
  | loading | active | closing | preempted | resuming
  deriving DecidableEq, Repr

/-- A fault of a wave step (R222, R223): rotation, core, step, code; `past` for a sequence that runs past its code (R216). -/
structure WFault where
  rot : Nat
  core : Nat
  step : Nat
  code : BitVec 8
  past : Bool := false
  deriving DecidableEq, Repr

/-- A wave stream with its sequencer (R205 to R232); it is active as long as State holds it. -/
structure Stream where
  owner : Nat := 0
  token : BitVec 5 := 0
  die : Nat := 0
  row0 : Nat := 0
  col0 : Nat := 0
  h : Nat := 1
  w : Nat := 1
  /-- 0 stream A, 1 stream B -/
  s : Nat := 0
  shear : Nat := 1
  diag : Bool := false
  region : Nat := 0
  /-- issue units in address order -/
  code : List WStep := []
  wmma : Bool := false
  phase : WPhase := .loading
  /-- T0 (R210) -/
  start : Nat := 0
  /-- index of the next unit of the sequence, and the two loop levels (R218) -/
  pos : Nat := 0
  loop0 : LoopLv := {}
  loop1 : LoopLv := {}
  /-- number of the next step; the steps so far: 0 for a bubble, or 1 + the index of the unit -/
  emitted : Nat := 0
  steps : Map Nat := []
  /-- the sequence has come to its WEND, or past its code at a step -/
  finished : Bool := false
  pastAt : Option Nat := none
  /-- step of the most recent WVOTE, its result so far, and the vote register (R220) -/
  voteAt : Option Nat := none
  votePend : Bool := false
  vote : Bool := false
  faults : List WFault := []
  /-- break rotation (R223), and whether a KILL set it -/
  stopAt : Option Nat := none
  killed : Bool := false
  /-- rotation of a pre-emption request, and the checkpoint step (R226) -/
  ckptReq : Option Nat := none
  ckptStep : Option Nat := none
  /-- steps done, by core -/
  progress : Map Nat := []
  /-- cores that have executed WEND, and the step of it -/
  ended : List Nat := []
  endStep : Nat := 0
  deriving DecidableEq, Repr

/-- What CKPT has streamed to a store of the host: the bytes of memory that are not zero, by address, and the launch
queues of the address space (R380). -/
structure Ckpt where
  store : Word
  cells : List Host.Cell := []
  queues : List Word := []
  deriving DecidableEq, Repr

/-- A privileged context of a boot image (R370). -/
structure BootCtx where
  slot : Nat
  cxid : BitVec 20
  asid : BitVec 16
  pc : Pc
  deriving DecidableEq, Repr

/-- What a verified boot image loads into a die (R379). -/
structure BootImage where
  mem : List Host.Cell := []
  crtb : Word := 0
  pol : BitVec 2 := 2
  lqbase : Pc := 0
  lqasid : BitVec 16 := 0
  sptb : Word := 0
  astb : Word := 0
  ctxs : List BootCtx := []
  deriving DecidableEq, Repr

/-- The whole machine: one package of four dies. (DESIGN CHOICE, log entry 2.) (DESIGN CHOICE, log entry 6.) -/
structure State where
  /-- core clock (R3, R146) -/
  cycle : Nat := 0
  /-- number of the next free value (DESIGN CHOICE, log entry 2) -/
  draws : Nat := 0
  nextId : Nat := 1
  /-- key of the context whose instruction runs -/
  cur : Nat := 0
  ctxs : Map Ctx := []
  cores : Map Core := []
  clusters : Map Cluster := []
  dies : Map Die := []
  mem : List Host.Cell := []
  /-- 64-byte lines with an uncorrectable error (R322) -/
  bad : List Nat := []
  /-- units that share a line with another, by place (R121, R131) -/
  units : Map UnitSt := []
  net : Map Packet := []
  marks : List Mark := []
  waiters : Map Waiter := []
  /-- timers: cycle and the step that falls due then -/
  timers : List (Nat × Instr) := []
  due : List Instr := []
  pending : List Instr := []
  /-- the outside world's next steps (R369, R379, R381) -/
  inputs : List Instr := []
  /-- the boot images that the dies receive (R379) -/
  images : Map BootImage := []
  todo : List Nat := []
  groups : Map Group := []
  streams : Map Stream := []
  /-- the checkpoints in the stores of the host (R380) -/
  hostOut : List Ckpt := []
  /-- dies whose boot image failed, as reported on the I3C sideband (R379) -/
  sideband : List Nat := []
  portOut : List Packet := []
  /-- packets of other chips and of the host, at the far ends of the ports (R367, R369) -/
  portIn : List Packet := []
  chip : BitVec 8 := 0
  /-- pages that a CXID owned when it ended: address of the leaf, CXID (R145, R331) -/
  reclaim : List (Nat × BitVec 20) := []
  /-- packets that senders other than contexts have counted, by thread address (R356) -/
  unitSeq : Map (BitVec 16) := []
  deriving DecidableEq, Repr

/-! ### Stops -/

/-- Why a step stops with a fault of the model: never. Every physical address names memory of some chip (R112), and what
the spec calls a fault is a next state. -/
inductive Fault
  deriving DecidableEq, Repr

/-- Why a step has no meaning in the model. -/
inductive Refusal
  /-- The instruction is not modelled yet; raised by exec's arm only. Safe. -/
  | notModelled (mnemonic : String)
  /-- An instruction on a unit that the issuing core does not have (a supervisor core); raised by the unit's meanings.
  Safe. -/
  | noUnit (mnemonic : String)
  deriving DecidableEq, Repr

/-- The machine right after reset (R65, R371): no context, empty memory, every register at its reset value.
(DESIGN CHOICE, log entry 2.) -/
def State.reset : State := {}

end Sys2Proof.Machine
end

