-- ==== Sys2Proof/Machine/Mem.lean ====
section
/-!
DEFINITION. Memory: the package's DRAM as a canonical list of bytes; an unlisted byte reads as 0 (DESIGN CHOICE, log entry 1).
-/

namespace Sys2Proof.Machine

/-- What a byte that nothing has written reads as (DESIGN CHOICE, log entry 1). -/
def Memory.unlisted : Byte := 0

/-- The byte at an address. (DESIGN CHOICE, log entry 1.) -/
def Memory.get (m : List Host.Cell) (a : Nat) : Byte :=
  match m with
  | [] => Memory.unlisted
  | (j, b) :: m => if j = a then b else if a < j then Memory.unlisted else Memory.get m a

/-- Writes one byte and keeps the canonical form. -/
def Memory.set (m : List Host.Cell) (a : Nat) (b : Byte) : List Host.Cell :=
  match m with
  | [] => if b = Memory.unlisted then [] else [(a, b)]
  | (j, c) :: m =>
    if a < j then if b = Memory.unlisted then (j, c) :: m else (a, b) :: (j, c) :: m
    else if a = j then if b = Memory.unlisted then m else (a, b) :: m
    else (j, c) :: Memory.set m a b

/-- Canonical above `lo`: addresses strictly rise, and no listed byte equals what an unlisted one reads as. -/
def Memory.wfFrom (lo : Nat) (m : List Host.Cell) : Bool :=
  match m with
  | [] => true
  | (j, b) :: m => decide (lo ≤ j) && b != Memory.unlisted && Memory.wfFrom (j + 1) m

/-- The canonical form. -/
def Memory.wf (m : List Host.Cell) : Bool := Memory.wfFrom 0 m

/-- The `n` bytes from `a`. -/
def Memory.read (m : List Host.Cell) (a : Nat) : Nat → List Byte
  | 0 => []
  | n + 1 => Memory.get m a :: Memory.read m (a + 1) n

/-- Writes bytes from `a` upward. -/
def Memory.write (m : List Host.Cell) (a : Nat) (bs : List Byte) : List Host.Cell :=
  match bs with
  | [] => m
  | b :: bs => Memory.write (Memory.set m a b) (a + 1) bs

/-- The offset of a physical address in its chip's DRAM (R112). -/
def dramOf (pa : Nat) : Nat := pa % 2 ^ 40
/-- The chip of a physical address (R112). -/
def chipOf (pa : Nat) : Nat := pa / 2 ^ 40 % 256

namespace State

def readBytes (s : State) (pa n : Nat) : List Byte := Memory.read s.mem (dramOf pa) n
def writeBytes (s : State) (pa : Nat) (bs : List Byte) : State := { s with mem := Memory.write s.mem (dramOf pa) bs }
def readNat (s : State) (pa n : Nat) : Nat := natOfBytes (s.readBytes pa n)
def readWord (s : State) (pa : Nat) : Word := BitVec.ofNat 64 (s.readNat pa 8)
def readLine (s : State) (pa : Nat) : Line := BitVec.ofNat 512 (s.readNat (pa / 64 * 64) 64)
def writeNat (s : State) (pa n v : Nat) : State := s.writeBytes pa (bytesOf n (BitVec.ofNat (8 * n) v))
def writeLine (s : State) (pa : Nat) (l : Line) : State := s.writeBytes (pa / 64 * 64) (bytesOf 64 l)

/-! Accessors of the keyed parts. -/

def ctx (s : State) (k : Nat) : Ctx := s.ctxs.getD k {}
def setCtx (s : State) (k : Nat) (c : Ctx) : State := { s with ctxs := s.ctxs.put k c }
def modCtx (s : State) (k : Nat) (f : Ctx → Ctx) : State := s.setCtx k (f (s.ctx k))
def me (s : State) : Ctx := s.ctx s.cur
def setMe (s : State) (c : Ctx) : State := s.setCtx s.cur c
def modMe (s : State) (f : Ctx → Ctx) : State := s.setMe (f s.me)
def core (s : State) (k : Nat) : Core := s.cores.getD k {}
def setCore (s : State) (k : Nat) (c : Core) : State := { s with cores := s.cores.put k c }
def modCore (s : State) (k : Nat) (f : Core → Core) : State := s.setCore k (f (s.core k))
def cluster (s : State) (k : Nat) : Cluster := s.clusters.getD k {}
def setCluster (s : State) (k : Nat) (c : Cluster) : State := { s with clusters := s.clusters.put k c }
def modCluster (s : State) (k : Nat) (f : Cluster → Cluster) : State := s.setCluster k (f (s.cluster k))
def die (s : State) (k : Nat) : Die := s.dies.getD k {}
def setDie (s : State) (k : Nat) (d : Die) : State := { s with dies := s.dies.put k d }
def modDie (s : State) (k : Nat) (f : Die → Die) : State := s.setDie k (f (s.die k))

/-- The rotation number (R146). -/
def rotation (s : State) (coreNo : Nat) : Nat := (s.cycle - (s.die (coreNo / 1024)).resetAt) / 16

end State

/-! ### Numbers of cores, clusters and dies (R15 to R18)

A core number is the core address without CHIP: die·1024 + row·32 + col. A cluster number is die·160 + 16·crow + ccol. -/

def coreNo (die row col : Nat) : Nat := die * 1024 + row * 32 + col
def dieOfCore (k : Nat) : Nat := k / 1024 % 4
def rowOfCore (k : Nat) : Nat := k / 32 % 32
def colOfCore (k : Nat) : Nat := k % 32
/-- The supervisor core of a die: ROW = 31 and COL = 31 (R15). -/
def isSupervisor (k : Nat) : Bool := k % 1024 == 1023
/-- The core exists (R18). -/
def coreExists (k : Nat) : Bool := decide (k < 4096) && (decide (rowOfCore k < 20) || isSupervisor k)
/-- The cluster of a core; the supervisor core attaches to cluster (4, 7) (R17, R20). -/
def clusterOf (k : Nat) : Nat :=
  if isSupervisor k then dieOfCore k * 160 + 16 * 4 + 7
  else dieOfCore k * 160 + rowOfCore k / 2 * 16 + colOfCore k / 2
/-- The number q of a core in its cluster (R17). -/
def qOfCore (k : Nat) : Nat := rowOfCore k % 2 * 2 + colOfCore k % 2
/-- Core q of a cluster (R17). -/
def coreOfCluster (c q : Nat) : Nat :=
  coreNo (c / 160) (c % 160 / 16 * 2 + q / 2) (c % 16 * 2 + q % 2)
/-- The 20-bit address of a core on a chip (R15). -/
def coreAddr (chip : BitVec 8) (k : Nat) : BitVec 20 := chip ++ BitVec.ofNat 12 k
/-- The thread address of a slot (R16). -/
def threadAddr (chip : BitVec 8) (k slot : Nat) : BitVec 24 := coreAddr chip k ++ BitVec.ofNat 4 slot

end Sys2Proof.Machine
end

