-- ==== Sys2Proof/Machine/Random.lean ====
section
/-!
DEFINITION. The generator KM-10 (R202).
-/

namespace Sys2Proof

/-- One round of KM-10 on (L, H) with the key `k` (R202). -/
def km10Round (k : Word) (s : BitVec 32 × BitVec 32) (j : Nat) : BitVec 32 × BitVec 32 :=
  let k0 : BitVec 32 := bits k 0 32 + BitVec.ofNat 32 (j * 0x3B91D6E5)
  let k1 : BitVec 32 := bits k 32 32 + BitVec.ofNat 32 (j * 0xE61C0A47)
  let p : Word := (s.1 ^^^ k0).setWidth 64 * 0xB5C18E6D
  (bits p 32 32 + s.2 + k1, (bits p 0 32).rotateLeft 9)

/-- KM10(c, k) = H:L after ten rounds (R202). -/
def km10 (c k : Word) : Word :=
  let r := (List.range 10).foldl (km10Round k) (bits c 0 32, bits c 32 32)
  r.2 ++ r.1

end Sys2Proof
end

