-- ==== Sys2Proof/Machine/Num.lean ====
section
/-!
DEFINITION. Exact values, the element formats and rounding (R86 to R91, R98 to R103).
-/

namespace Sys2Proof

/-- An exact value: NaN, an infinity, or (-1)^neg · m · 2^e; m = 0 is a signed zero (R90). -/
inductive Val
  | nan
  | inf (neg : Bool)
  | fin (neg : Bool) (m : Nat) (e : Int)
  deriving DecidableEq, Repr

namespace Val

def zero : Val := .fin false 0 0
def ofInt (i : Int) : Val := .fin (decide (i < 0)) i.natAbs 0
def isNeg : Val → Bool
  | .nan => false
  | .inf n => n
  | .fin n _ _ => n
def isNan : Val → Bool
  | .nan => true
  | _ => false
def isZero : Val → Bool
  | .fin _ 0 _ => true
  | _ => false

def neg : Val → Val
  | .nan => .nan
  | .inf n => .inf (!n)
  | .fin n m e => .fin (!n) m e

/-- m · 2^(e - e0) for e0 ≤ e. -/
def scaled (m : Nat) (e e0 : Int) : Nat := m <<< (e - e0).toNat
def signed (n : Bool) (m : Nat) : Int := if n then -(m : Int) else m

/-- The exact sum; ∞ - ∞ is NaN, an exact zero of opposite signs is +0 (R103, R108). (DEDUCED, log entry 35.) -/
def add : Val → Val → Val
  | .nan, _ | _, .nan => .nan
  | .inf a, .inf b => if a = b then .inf a else .nan
  | .inf a, _ | _, .inf a => .inf a
  | .fin a m e, .fin b k f =>
    if m = 0 ∧ k = 0 then .fin (a && b) 0 0
    else
      let e0 := min e f
      let s := signed a (scaled m e e0) + signed b (scaled k f e0)
      .fin (decide (s < 0)) s.natAbs e0

def sub (x y : Val) : Val := x.add y.neg

/-- The exact product; 0 × ∞ is NaN (R103). -/
def mul : Val → Val → Val
  | .nan, _ | _, .nan => .nan
  | .inf a, .inf b => .inf (a != b)
  | .inf a, .fin b m _ | .fin b m _, .inf a => if m = 0 then .nan else .inf (a != b)
  | .fin a m e, .fin b k f => .fin (a != b) (m * k) (e + f)

/-- x · 2^n. -/
def scale (n : Int) : Val → Val
  | .fin a m e => .fin a m (e + n)
  | x => x

/-- IEEE comparison of two values that are not NaN: the sign of x - y, with -0 = +0. -/
def cmp : Val → Val → Ordering
  | .nan, _ | _, .nan => .eq
  | .inf a, .inf b => if a = b then .eq else if a then .lt else .gt
  | .inf a, _ => if a then .lt else .gt
  | _, .inf b => if b then .gt else .lt
  | .fin a m e, .fin b k f =>
    let e0 := min e f
    compare (signed a (scaled m e e0)) (signed b (scaled k f e0))

/-- floor of a finite value. -/
def floor : Val → Int
  | .fin a m e => if 0 ≤ e then signed a (m <<< e.toNat) else (signed a m).fdiv (2 ^ (-e).toNat)
  | _ => 0

end Val

/-- A floating-point format by R89, or E4M3N by R91. -/
structure FloatF where
  eb : Nat
  fb : Nat
  bias : Nat
  /-- E4M3N: no infinities, no -0, one NaN, the top exponent is an ordinary binade. -/
  e4 : Bool
  deriving DecidableEq, Repr

def FloatF.fp32 : FloatF := { eb := 8, fb := 23, bias := 127, e4 := false }
def FloatF.bf16 : FloatF := { eb := 8, fb := 7, bias := 127, e4 := false }
def FloatF.fp16 : FloatF := { eb := 5, fb := 10, bias := 15, e4 := false }
def FloatF.e5m2 : FloatF := { eb := 5, fb := 2, bias := 15, e4 := false }
def FloatF.e4m3n : FloatF := { eb := 4, fb := 3, bias := 7, e4 := true }

namespace FloatF

def width (F : FloatF) : Nat := 1 + F.eb + F.fb
/-- Exponent of the least significant bit of a subnormal. -/
def qmin (F : FloatF) : Int := 1 - (F.bias : Int) - F.fb
/-- Exponent of the least significant bit in the top binade. -/
def qmax (F : FloatF) : Int := F.qmin + ((2 ^ F.eb - (if F.e4 then 2 else 3) : Nat) : Int)
def signBit (F : FloatF) (neg : Bool) : Nat := if neg then 2 ^ (F.eb + F.fb) else 0
def nanCode (F : FloatF) : Nat :=
  if F.e4 then 0x80 else (2 ^ F.eb - 1) * 2 ^ F.fb + 2 ^ (F.fb - 1)
def maxCode (F : FloatF) (neg : Bool) : Nat :=
  F.signBit neg + (if F.e4 then 0x7F else (2 ^ F.eb - 1) * 2 ^ F.fb - 1)
/-- ±∞, or ±480 in E4M3N. -/
def infCode (F : FloatF) (neg : Bool) : Nat :=
  if F.e4 then F.maxCode neg else F.signBit neg + (2 ^ F.eb - 1) * 2 ^ F.fb
def zeroCode (F : FloatF) (neg : Bool) : Nat := if F.e4 then 0 else F.signBit neg

/-- Value(code, F) (R90, R91). -/
def value (F : FloatF) (code : Nat) : Val :=
  let s := (code / 2 ^ (F.eb + F.fb)) % 2 == 1
  let e := (code / 2 ^ F.fb) % 2 ^ F.eb
  let f := code % 2 ^ F.fb
  if F.e4 && code == 0x80 then .nan
  else if e = 0 then .fin s f F.qmin
  else if !F.e4 && e == 2 ^ F.eb - 1 then (if f = 0 then .inf s else .nan)
  else .fin s (f + 2 ^ F.fb) (F.qmin + (e : Int) - 1)

/-- The code of k · 2^q, k at most 2^(fb+1). -/
def code (F : FloatF) (neg : Bool) (k : Nat) (q : Int) : Nat :=
  if k = 0 then F.zeroCode neg
  else F.signBit neg + (if k < 2 ^ F.fb then k else (q - F.qmin + 1).toNat * 2 ^ F.fb + (k - 2 ^ F.fb))

end FloatF

/-- The 32-bit draw of R101 for the global index `i` under `key`. -/
def srDraw (i key : Word) : Nat := (km10 i key).toNat % 2 ^ 32

/-- Chooses between the magnitudes n and n + 1 for n + rem/2^s, 0 < rem < 2^s (R99 step 5, R101). -/
def roundUp (mode : RMode) (neg : Bool) (n rem s : Nat) (i key : Word) : Bool :=
  match mode with
  | .rne => decide (2 ^ s < 2 * rem) || (2 * rem == 2 ^ s && n % 2 == 1)
  | .rtz => false
  | .rup => !neg
  | .rdn => neg
  | .sr =>
    let up := if neg then 2 ^ s - rem else rem
    let f := up * 2 ^ 32 / 2 ^ s
    (decide (srDraw i key < f)) != neg

/-- Round(x, F, mode, i, key) into a floating format, with SAT (R99, R100). -/
def FloatF.round (F : FloatF) (mode : RMode) (sat : Bool) (i key : Word) (x : Val) : Nat :=
  match x with
  | .nan => F.nanCode
  | .inf neg => if sat then F.maxCode neg else F.infCode neg
  | .fin neg 0 _ => F.zeroCode neg
  | .fin neg m e =>
    let ovf := if sat then F.maxCode neg else F.infCode neg
    let top : Int := e + (Nat.log2 m : Int)
    let q := max (top - F.fb) F.qmin
    let s := (q - e).toNat
    let n := if e ≤ q then m >>> s else m <<< (e - q).toNat
    let rem := if e ≤ q then m % 2 ^ s else 0
    if F.qmax < q then
      match mode with
      | .rne | .sr => ovf
      | .rtz => F.maxCode neg
      | .rup => if neg then F.maxCode neg else ovf
      | .rdn => if neg then ovf else F.maxCode neg
    else if rem = 0 then F.code neg n q
    else
      let k := if roundUp mode neg n rem s i key then n + 1 else n
      if q = F.qmax ∧ k = 2 ^ (F.fb + 1) then ovf else F.code neg k q

/-- The integer that a finite value rounds to by the mode (R102). -/
def roundToInt (mode : RMode) (i key : Word) (neg : Bool) (m : Nat) (e : Int) : Int :=
  if 0 ≤ e then Val.signed neg (m <<< e.toNat)
  else
    let s := (-e).toNat
    let n := m >>> s
    let rem := m % 2 ^ s
    Val.signed neg (if rem ≠ 0 ∧ roundUp mode neg n rem s i key then n + 1 else n)

/-- Clamping to the range of a signed or unsigned integer of `w` bits (R88). -/
def clampInt (w : Nat) (signed : Bool) (x : Int) : Int :=
  let lo : Int := if signed then -(2 ^ (w - 1)) else 0
  let hi : Int := if signed then 2 ^ (w - 1) - 1 else 2 ^ w - 1
  if x < lo then lo else if hi < x then hi else x

/-- A number format with a value: floating, or a signed or unsigned integer of a width (R86, R88). -/
inductive NumF
  | flt (F : FloatF)
  | int (w : Nat) (signed : Bool)
  deriving DecidableEq, Repr

def NumF.width : NumF → Nat
  | .flt F => F.width
  | .int w _ => w

/-- The exact value of a code. -/
def NumF.value : NumF → Nat → Val
  | .flt F, c => F.value c
  | .int w signed, c =>
    let c := c % 2 ^ w
    .ofInt (if signed && decide (2 ^ (w - 1) ≤ c) then (c : Int) - 2 ^ w else c)

/-- The code of a clamped integer in `w` bits. -/
def intCode (w : Nat) (x : Int) : Nat := (x % 2 ^ w).toNat

/-- Round(x, F, mode, i, key) with SAT (R99 to R102). (DEDUCED, log entry 35.) -/
def NumF.round (mode : RMode) (sat : Bool) (i key : Word) (x : Val) : NumF → Nat
  | .flt F => F.round mode sat i key x
  | .int w signed => match x with
    | .nan => 0
    | .inf neg => intCode w (clampInt w signed (Val.signed neg (2 ^ (w + 1))))
    | .fin neg m e => intCode w (clampInt w signed (roundToInt mode i key neg m e))

/-- The number format of an FMT code that has values of its own (R86); `u` reads an integer as unsigned (R88). -/
def Fmt.num? (u : Bool) : Fmt → Option NumF
  | .int8 => some (.int 8 (!u))
  | .int16 => some (.int 16 (!u))
  | .int32 => some (.int 32 (!u))
  | .int64 => some (.int 64 (!u))
  | .fp32 => some (.flt .fp32)
  | .bf16 => some (.flt .bf16)
  | .fp16 => some (.flt .fp16)
  | .e4m3n => some (.flt .e4m3n)
  | .e5m2 => some (.flt .e5m2)
  | .raw | .int4g | .int3g | .bq16 => none

/-- The element width that a format requires (R86); none for raw. -/
def Fmt.ew? : Fmt → Option Nat
  | .raw => none
  | .int8 | .e4m3n | .e5m2 | .int4g | .int3g => some 8
  | .int16 | .bf16 | .fp16 | .bq16 => some 16
  | .int32 | .fp32 => some 32
  | .int64 => some 64

/-- The number format of a lane type's elements (R180). -/
def LaneT.num : LaneT → NumF
  | .i32 => .int 32 true
  | .u32 => .int 32 false
  | .f32 => .flt .fp32
  | .i16x2 => .int 16 true
  | .bf16x2 => .flt .bf16
  | .i8x4 => .int 8 true

/-- Element width of a lane type (R180). -/
def LaneT.w (t : LaneT) : Nat := 32 / t.elems

/-! ### FP32 by its bits -/

/-- The value of an FP32 code. -/
def f32Val (x : BitVec 32) : Val := FloatF.fp32.value x.toNat
/-- RoundRNE(x, FP32). -/
def f32Rne (x : Val) : BitVec 32 := BitVec.ofNat 32 (FloatF.fp32.round .rne false 0 0 x)
/-- Round(x, FP32, mode). -/
def f32Round (mode : RMode) (x : Val) : BitVec 32 := BitVec.ofNat 32 (FloatF.fp32.round mode false 0 0 x)
/-- RoundRNE(a + b, FP32). -/
def f32Add (a b : BitVec 32) : BitVec 32 := f32Rne ((f32Val a).add (f32Val b))
/-- The canonical NaN of FP32. -/
def f32Nan : BitVec 32 := 0x7FC00000
def f32IsNan (a : BitVec 32) : Bool := (f32Val a).isNan

/-- `a` is ordered before `b`, with -0 below +0; neither is NaN (R190). -/
def Val.before (a b : Val) : Bool :=
  match a.cmp b with
  | .lt => true
  | .gt => false
  | .eq => a.isNeg && !b.isNeg

end Sys2Proof
end

