-- ==== Sys2Proof/Machine/Xlat.lean ====
section
/-!
DEFINITION. Page entries, walks, translation caches, page rules and homes (R112 to R118, R125, R135).
-/

namespace Sys2Proof.Machine

/-- A page entry (R115). -/
abbrev Entry := BitVec 128

namespace Leaf

def valid (e : Entry) : Bool := bitAt e 0
def leaf (e : Entry) : Bool := bitAt e 1
def jtCode (e : Entry) : BitVec 4 := bits e 3 4
def jt (e : Entry) : JT := (JT.ofCode (jtCode e)).getD .priv
/-- Element width in bits. -/
def ew (e : Entry) : Nat := 8 <<< (bits e 7 2).toNat
def fmtCode (e : Entry) : BitVec 4 := bits e 9 4
def tgCode (e : Entry) : BitVec 3 := bits e 13 3
def const (e : Entry) : Bool := bitAt e 16
def frozen (e : Entry) : Bool := bitAt e 17
def bounded (e : Entry) : Bool := bitAt e 18
def exec (e : Entry) : Bool := bitAt e 19
def user (e : Entry) : Bool := bitAt e 20
def rowLocal (e : Entry) : Bool := bitAt e 21
def hpol (e : Entry) : BitVec 2 := bits e 22 2
def dam (e : Entry) : BitVec 4 := bits e 24 4
def pa (e : Entry) : Nat := (bits e 28 36).toNat * 65536
def moff (e : Entry) : Nat := (bits e 64 36).toNat * 4096
def param (e : Entry) : Nat := (bits e 100 8).toNat
def owner (e : Entry) : BitVec 20 := bits e 108 20
def pattern (e : Entry) : Word := bits e 64 64

/-- JT 2-11. -/
def lattice (e : Entry) : Bool := decide (2 ≤ (jtCode e).toNat) && decide ((jtCode e).toNat ≤ 11)
def fillOnce (e : Entry) : Bool := jt e == .fill || jt e == .fillt || jt e == .fold

/-- The format record is well-formed by R86; its format. -/
def fmt? (e : Entry) : Option Fmt := do
  let f ← Fmt.ofCode (fmtCode e)
  let t := (tgCode e).toNat
  if 5 ≤ t then none
  else if (f == .int4g || f == .int3g) && (t == 1 || t == 2) then none
  else match f.ew? with
    | none => some f
    | some w => if w = ew e then some f else none

end Leaf

/-- Elements of a tile geometry code; 0 for none (R97). -/
def tgElems (t : Nat) : Nat :=
  match t with
  | 1 => 64 | 2 => 256 | 3 => 1024 | 4 => 2048 | _ => 0

/-- Bytes of a tile of `n` elements: packed weights take 4 or 3 bits (R93, R97). -/
def tileBytes (f : Fmt) (ew n : Nat) : Nat :=
  match f with
  | .int4g => n / 2
  | .int3g => n * 3 / 8
  | _ => n * ew / 8

namespace Leaf
/-- Bytes of a tile of the page; 0 without a geometry. (DEDUCED, log entry 28.) -/
def tileSize (e : Entry) : Nat := tileBytes ((Fmt.ofCode (fmtCode e)).getD .raw) (ew e) (tgElems (tgCode e).toNat)
end Leaf

/-- Access kinds in the order R116 numbers them. -/
inductive AccKind
  | fetch | load | store | join | wait | freeze | handoff | copy | matrix | analog
  deriving DecidableEq, Repr

def AccKind.code : AccKind → Nat
  | .fetch => 0 | .load => 1 | .store => 2 | .join => 3 | .wait => 4
  | .freeze => 5 | .handoff => 6 | .copy => 7 | .matrix => 8 | .analog => 9

/-- A leaf for a page of 2^size bytes passes R116 items 1 to 4. PARAM is no reserved bit where neither JT nor FMT reads it
(DESIGN CHOICE, log entry 81); in a CONST page of CNT, CNTL or FOLD the same bits, which PATTERN takes there, are still
checked as PARAM (DESIGN CHOICE, log entry 101). -/
def leafOk (e : Entry) (size : Nat) : Bool :=
  let j := Leaf.jtCode e
  let one (d : BitVec 4) : Bool := d == 1 || d == 2 || d == 4 || d == 8
  let priv := j == 0 || j == 12
  let p := Leaf.param e
  !bitAt e 2 && Leaf.pa e % 2 ^ size == 0 && bits e 60 4 == 0
    && decide (j.toNat ≤ 12) && decide ((Leaf.hpol e).toNat ≤ 1) && Leaf.dam e != 0
    && (!Leaf.rowLocal e || size == 16)
    && (if priv then one (Leaf.dam e) && (Leaf.bounded e == (j == 12)) && !Leaf.const e && !Leaf.frozen e
        else if j == 1 then Leaf.frozen e
        else
          (decide (6 < j.toNat) || (!Leaf.const e && !Leaf.bounded e))
            && (j != 7 || Leaf.ew e == 32 || Leaf.ew e == 64)
            && (j != 8 || (decide (1 ≤ (Leaf.tgCode e).toNat) && decide ((Leaf.tgCode e).toNat ≤ 4)))
            && ((j != 9 && j != 10) || (Leaf.ew e == 64 && decide (p ≤ 64)))
            && (j != 11 ||
                (((Leaf.fmtCode e == 5 && Leaf.ew e == 32) || (Leaf.fmtCode e == 4 && Leaf.ew e == 64))
                  && decide (2 ^ p * Leaf.ew e / 8 ≤ 65536))))

/-- A table entry that is not a leaf has only V and the next table (R114). -/
def tableOk (e : Entry) : Bool := bits e 1 25 == 0 && bits e 64 64 == 0

/-! ### Storage units (R316, R322, R374, R376, R378) -/

/-- The die of the stack of a physical address (R316). -/
def stackDie (pa : Nat) : Nat := pa / 2 ^ 38 % 4

/-- Whether an uncorrectable error or an erased DRAM key spoils a line (R322, R378). (DEDUCED, log entry 65.) -/
def lineSpoilt (s : State) (pa : Nat) : Bool := s.bad.contains (pa / 64 * 64) || (s.die (stackDie pa)).dramLost

/-- A fault 0x40 of a storage unit. -/
def uncorrectable (pa : Nat) (va : Pc) : FaultRec := { code := 0x40, info := [BitVec.ofNat 64 pa], taddr := va, src := 1 }

/-- Unit ids (R374). -/
def unitId (kind index : Nat) (core : BitVec 20) : Word :=
  BitVec.ofNat 8 kind ++ (0 : BitVec 28) ++ BitVec.ofNat 8 index ++ core
def sliceUnit (s : State) (cluster : Nat) : Word := unitId 1 0 (coreAddr s.chip (coreOfCluster cluster 0))
/-- The pseudo-channel of a place, as a unit (R316, R317, R374). -/
def channelUnit (s : State) (pa : Nat) : Word :=
  unitId 5 (32 * (pa / 2 ^ 36 % 4) + pa / 256 % 32) (coreAddr s.chip (stackDie pa * 1024))

/-- The alarm policy halts the unit: a core, a slice or a port, but not the supervisor core (R374, R378). -/
def haltsUnit (u : Word) : Bool :=
  let k := (bits u 56 8).toNat
  (k == 0 || k == 1 || k == 2 || k == 6) && bits u 0 10 != 0x3FF
/-- A unit of a die is fenced, or it is halted (R376, R378). -/
def unitFenced (s : State) (die : Nat) (u : Word) : Bool :=
  let d := s.die die
  d.fenced.contains u || (d.halted && haltsUnit u)
/-- A unit of a die is lasting, or its die is away for a reset (R376, R379). -/
def unitLasting (s : State) (die : Nat) (u : Word) : Bool :=
  let d := s.die die
  d.lasting.contains u || d.down

/-- The die of a unit id. -/
def unitDie (u : Word) : Nat := (bits u 10 2).toNat
def anyFenced (s : State) (us : List Word) : Bool := us.any fun u => unitFenced s (unitDie u) u
def firstLasting (s : State) (us : List Word) : Option Word := us.find? fun u => unitLasting s (unitDie u) u

/-! ### Walks (R112 to R117) -/

/-- A physical address lies in the memory of this package (R112). -/
def State.here (s : State) (pa : Nat) : Bool := chipOf pa == s.chip.toNat

/-- Entry `k` of the table at `t`. -/
def State.entryAt (s : State) (t k : Nat) : Entry := BitVec.ofNat 128 (s.readNat (t + 16 * k) 16)

/-- The `n` bits at an address of any chip: `far` holds the lines that other chips have sent; none while the line of the
address is missing. -/
def State.farBits (s : State) (far : Map Line) (a n : Nat) : Option (BitVec n) :=
  if s.here a then some (BitVec.ofNat n (s.readNat a (n / 8)))
  else (far.find (a / 64 * 64)).map fun l => bits l (8 * (a % 64)) n

/-- The table that an entry above the leaves names. Bits [51:48] of its address are not checked and select no chip
(DESIGN CHOICE, log entry 82). -/
def nextTable (e : Entry) : Nat := (bits e 26 38).toNat * 16384 % 2 ^ 48

/-- How a walk ends: at a leaf, by R116, for want of a table line of another chip, at a channel that is fenced, or with
the fault of a table line (R376, R378). -/
inductive WalkEnd
  | found (t : Tlb)
  | bad
  | needs (line : Nat)
  | held
  | failed (f : FaultRec)
  deriving DecidableEq, Repr

/-- What keeps a walk from an entry at an address of this package: its channel is lasting or fenced, or its line is spoilt.
The fault is that of the access (DEDUCED, log entry 113). -/
def tableStop (s : State) (va : Pc) (a : Nat) : Option WalkEnd :=
  let u := channelUnit s a
  if !s.here a then none
  else if unitLasting s (unitDie u) u then some (.failed { code := 0x41, info := [u], taddr := va, src := 8 })
  else if unitFenced s (unitDie u) u then some .held
  else if lineSpoilt s a then some (.failed (uncorrectable a va))
  else none

/-- The walk of the lowest `n` levels from table `t` (R113, R114, R116 items 1 to 4). -/
def walkFrom (s : State) (far : Map Line) (va : Pc) (asid : BitVec 16) (t : Nat) : Nat → WalkEnd
  | 0 => .bad
  | lv + 1 =>
    let size := 16 + 10 * lv
    let a := t + 16 * (va.toNat / 2 ^ size % 1024)
    match tableStop s va a, s.farBits far a 128 with
    | some stop, _ => stop
    | none, none => .needs (a / 64 * 64)
    | none, some e =>
      if !Leaf.valid e then .bad
      else if Leaf.leaf e then
        if lv = 3 || !leafOk e size then .bad
        else .found { asid, base := BitVec.ofNat 56 (va.toNat / 2 ^ size * 2 ^ size), size, e, at_ := a }
      else if !tableOk e then .bad
      else walkFrom s far va asid (nextTable e) lv

/-- Address of the 8-byte root entry of an address space on a die: ASTB + 8·ASID (R375). -/
def rootAt (s : State) (die : Nat) (asid : BitVec 16) : Nat := (s.die die).astb.toNat + 8 * asid.toNat

/-- A whole walk with the lines received from other chips (R113). -/
def walkWith (s : State) (far : Map Line) (die : Nat) (asid : BitVec 16) (va : Pc) : WalkEnd :=
  let a := rootAt s die asid
  match tableStop s va a, s.farBits far a 64 with
  | some stop, _ => stop
  | none, none => .needs (a / 64 * 64)
  | none, some w => if bitAt w 0 then walkFrom s far va asid ((bits w 26 38).toNat * 16384 % 2 ^ 48) 4 else .bad

/-- A whole walk through the tables of this package (R113). -/
def walk (s : State) (die : Nat) (asid : BitVec 16) (va : Pc) : Option Tlb :=
  match walkWith s [] die asid va with
  | .found t => some t
  | _ => none

/-! ### Metadata regions (R124) -/

/-- The indices of the entries of a table, of `w` bytes each, that hold anything: the others are zero. -/
def listedEntries (s : State) (t n w : Nat) : List Nat :=
  ((s.mem.filter fun c => decide (t ≤ c.1) && decide (c.1 < t + n * w)).map fun c => (c.1 - t) / w).eraseDups

/-- A valid leaf in a table: its address, itself, the log2 of its page's bytes, the first address it maps. -/
structure LeafAt where
  at_ : Nat
  e : Entry
  size : Nat
  va : Nat
  deriving DecidableEq, Repr

/-- Every valid leaf of the lowest `n` levels under a table, which maps the pages of index `ix`. -/
def leavesFrom (s : State) (t ix : Nat) : Nat → List LeafAt
  | 0 => []
  | lv + 1 => (listedEntries s t 1024 16).flatMap fun k =>
      let e := s.entryAt t k
      let size := 16 + 10 * lv
      if !s.here t || !Leaf.valid e then []
      else if Leaf.leaf e then
        if lv = 3 || !leafOk e size then []
        else [{ at_ := t + 16 * k, e, size, va := (ix * 1024 + k) * 2 ^ size }]
      else if !tableOk e then []
      else leavesFrom s (nextTable e) (ix * 1024 + k) lv

/-- Every valid leaf of every address space. -/
def allLeaves (s : State) : List LeafAt :=
  (((List.range 4).map fun d => (s.die d).astb.toNat).eraseDups).flatMap fun t =>
    (listedEntries s t 65536 8).flatMap fun a =>
      let w := s.readWord (t + 8 * a)
      if bitAt w 0 then leavesFrom s ((bits w 26 38).toNat * 16384 % 2 ^ 48) 0 4 else []

/-- The leaf at an address names the CXID as OWNER of a private page. -/
def leafOwned (s : State) (a : Nat) (x : BitVec 20) : Bool :=
  let e : Entry := BitVec.ofNat 128 (s.readNat a 16)
  Leaf.valid e && Leaf.owner e == x && (Leaf.jt e == .priv || Leaf.jt e == .bpriv)

/-- A page whose entry no longer names the CXID of its ended holder is reclaimed for good (R145, R331). -/
def State.reclaimed (s : State) : State := { s with reclaim := s.reclaim.filter fun p => leafOwned s p.1 p.2 }

/-- Bytes of one location of a page (R119). -/
def Leaf.locBytes (e : Entry) : Nat :=
  match Leaf.jt e with
  | .fillt => Leaf.tileSize e
  | .cntl => 64
  | _ => Leaf.ew e / 8

/-- Bytes of the metadata region of a page (R124). -/
def metaBytes (e : Entry) (size : Nat) : Nat :=
  let l := 2 ^ size / 64
  4 * l + l / 8 + (if Leaf.fillOnce e then 8 * (2 ^ size / Leaf.locBytes e) else 0)

/-- A physical address lies in a metadata region. -/
def inMeta (s : State) (pa : Nat) : Bool :=
  (allLeaves s).any fun p =>
    Leaf.lattice p.e && !Leaf.const p.e && decide (Leaf.moff p.e ≤ pa) && decide (pa < Leaf.moff p.e + metaBytes p.e p.size)

/-- The entry serves the address. -/
def Tlb.hits (t : Tlb) (asid : BitVec 16) (va : Pc) : Bool :=
  t.asid == asid && t.base.toNat == va.toNat / 2 ^ t.size * 2 ^ t.size

def tlbFind (ts : List Tlb) (asid : BitVec 16) (va : Pc) : Option Tlb := ts.find? fun t => t.hits asid va

/-- The newest entry first, at most `n` in all (R117). -/
def tlbPut (n : Nat) (ts : List Tlb) (t : Tlb) : List Tlb := (t :: ts.filter (fun u => u != t)).take n

/-- The DRAM place of a row-local page offset, as the ordinary address that maps to the same place (R317, R318). -/
def rowLocalPlace (pa po : Nat) : Nat :=
  let o : BitVec 36 := BitVec.ofNat 36 pa
  let q : BitVec 16 := BitVec.ofNat 16 po
  pa / 2 ^ 36 * 2 ^ 36
    + (bits o 28 8 ++ bits o 16 3 ++ bits q 10 6 ++ bits o 24 4 ++ bits q 8 2 ++ bits o 19 5 ++ bits q 0 8 : BitVec 36).toNat

/-- The place of a page offset: PA plus offset, or by the row-local map (R318). -/
def Leaf.place (e : Entry) (off : Nat) : Nat :=
  if Leaf.rowLocal e then rowLocalPlace (Leaf.pa e) off else Leaf.pa e + off

/-- The place of a VA under an entry. -/
def Tlb.pa (t : Tlb) (va : Pc) : Nat := Leaf.place t.e (va.toNat % 2 ^ t.size)
/-- The physical address of a VA under an entry, which the home hash takes (R125). -/
def Tlb.phys (t : Tlb) (va : Pc) : Nat := Leaf.pa t.e + va.toNat % 2 ^ t.size

/-- R116 item 5: USER and EXEC. -/
def permitted (priv : Bool) (k : AccKind) (e : Entry) : Bool := (priv || Leaf.user e) && (k != .fetch || Leaf.exec e)

/-! ### Homes (R125) -/

/-- The dies of a mask in ascending order. -/
def diesOf (m : BitVec 4) : List Nat := (List.range 4).filter fun d => bitAt m d

/-- The address whose line picks the home (R125). -/
def homeUnit (t : Tlb) (va : Pc) : Nat :=
  let p := t.phys va
  match Leaf.jt t.e with
  | .fillt =>
    let z := Leaf.tileSize t.e
    let off := va.toNat % 2 ^ t.size
    Leaf.pa t.e + off / z * z
  | .fold =>
    let z := 2 ^ Leaf.param t.e * Leaf.ew t.e / 8
    let off := va.toNat % 2 ^ t.size
    Leaf.pa t.e + off / z * z
  | _ => if Leaf.hpol t.e = 1 then Leaf.pa t.e else p / 64 * 64

/-- The number of the cluster whose slice homes a unit under a die mask (R125). -/
def homeOf (dam : BitVec 4) (u : Nat) : Nat :=
  let h := km10 (BitVec.ofNat 64 (u / 64)) 0x686F6D65
  let ds := diesOf dam
  let die := ds.getD ((bits h 32 32).toNat % ds.length) 0
  die * 160 + (bits h 0 32).toNat % 160

def homeOfVa (t : Tlb) (va : Pc) : Nat := homeOf (Leaf.dam t.e) (homeUnit t va)

/-! ### Page rules (R135) -/

/-- Rows of the table of R135. -/
inductive PageKind
  | privOwn | privLive | privQuit | publ | lattice | frozenLattice | bprivOwn | bprivOther | publBounded
  deriving DecidableEq, Repr

/-- Columns of the table of R135. -/
inductive PageAcc
  | load | store | join | trd | xrd | fix | pub | xfer
  deriving DecidableEq, Repr

/-- Entries of the table of R135. -/
inductive PageRule
  | yes | parks | nothing | fault (code : BitVec 8)
  deriving DecidableEq, Repr

/-- The row of an entry for a context; `live` says that OWNER names a live context. A CONST page of JT 7 to 11 is in the row
"PUBL, CONST"; one that is not CONST and has BOUNDED = 1 is in the rows of its JT. (DEDUCED, log entry 99.)
(DESIGN CHOICE, log entry 100.) -/
def pageKind (e : Entry) (own : BitVec 20) (live : Bool) : PageKind :=
  match Leaf.jt e with
  | .priv => if Leaf.owner e = own then .privOwn else if live then .privLive else .privQuit
  | .bpriv => if Leaf.owner e = own then .bprivOwn else .bprivOther
  | .publ => if Leaf.bounded e then .publBounded else .publ
  | _ =>
    if Leaf.const e then if Leaf.bounded e then .publBounded else .publ
    else if Leaf.frozen e then .frozenLattice else .lattice

/-- The table of R135. -/
def pageRule : PageKind → PageAcc → PageRule
  | .privOwn, .load | .privOwn, .store | .privOwn, .pub | .privOwn, .xfer => .yes
  | .privOwn, .xrd => .fault 0x11
  | .privLive, .load | .privLive, .store | .privLive, .xrd => .parks
  | .privLive, .pub | .privLive, .xfer => .fault 0x11
  | .privQuit, .load | .privQuit, .store | .privQuit, .xrd | .privQuit, .pub | .privQuit, .xfer => .fault 0x11
  | .publ, .load | .publ, .xrd => .yes
  | .publ, .store | .publ, .pub | .publ, .xfer => .fault 0x11
  | .lattice, .load | .lattice, .store | .lattice, .pub | .lattice, .xfer => .fault 0x11
  | .lattice, _ => .yes
  | .frozenLattice, .load | .frozenLattice, .trd | .frozenLattice, .xrd => .yes
  | .frozenLattice, .join => .fault 0x13
  | .frozenLattice, .fix => .nothing
  | .frozenLattice, _ => .fault 0x11
  | .bprivOwn, .pub | .bprivOwn, .xfer => .yes
  | .bprivOwn, .load | .bprivOwn, .store | .bprivOwn, .xrd => .fault 0x18
  | .bprivOther, .load | .bprivOther, .store | .bprivOther, .xrd => .fault 0x18
  | .bprivOther, .pub | .bprivOther, .xfer => .fault 0x11
  | .publBounded, .load | .publBounded, .xrd => .fault 0x18
  | .publBounded, .store | .publBounded, .pub | .publBounded, .xfer => .fault 0x11
  | _, _ => .fault 0x12

/-- The live context of a CXID, by key. -/
def cxidKey (s : State) (x : BitVec 20) : Option Nat :=
  (s.ctxs.find? fun p => p.2.live && p.2.cxid == x && p.2.wave.isNone).map (·.1)

end Sys2Proof.Machine
end

