-- ==== Sys2Proof/Machine/Ops.lean ====
section
/-!
DEFINITION. The named operations of the meanings: faults and parking, registers, flags, translation, marks, packets,
and taking an exception and returning from one (R8, R35 to R43, R56, R63, R74 to R77, R117, R166).
-/

namespace Sys2Proof.Machine

/-- How the pseudocode of an instruction ends early. -/
inductive Exc
  /-- Fault(...) of R8; several faults charged to one instruction by R75 -/
  | fault (fs : List FaultRec)
  /-- Park(...) of R8 whose condition does not hold -/
  | park
  /-- a pop that delivered an end token (R349) -/
  | eos
  | refuse (r : Refusal)
  deriving DecidableEq, Repr

/-- Pseudocode (R7): state, with early ends; state written before an early end stands. -/
abbrev M := EStateM Exc State

/-! ### Elementary -/

def me : M Ctx := do return (← get).me
def modMe (f : Ctx → Ctx) : M Unit := modify fun s => s.modMe f
def raise {α : Type} (f : FaultRec) : M α := throw (.fault [f])
/-- Fault(code, info…) (R8). -/
def fault {α : Type} (code : BitVec 8) (info : List Word := []) (taddr : Pc := 0) (src : BitVec 4 := 0) : M α :=
  raise { code, info, taddr, src }
/-- Park(cond) (R8). A resumption tests the condition at the context's position only: a condition that held in between and
holds no more parks again. (DEDUCED, log entry 94.) -/
def parkUnless (c : Bool) : M Unit := if c then pure () else throw .park
def whenM (c : Bool) (m : M Unit) : M Unit := if c then m else pure ()

/-- The core of a context: where it is resident, or the core of its wave slot. -/
def Ctx.coreNo (c : Ctx) : Nat :=
  match c.place with
  | .slot k _ => k
  | .wave k _ => k
  | .queued k => k
  | .spilled k => k
  | .saved k => k
  | _ => 0
def Ctx.slotNo (c : Ctx) : Nat :=
  match c.place with
  | .slot _ k => k
  | .wave _ k => k
  | _ => 0
/-- The thread address of a context, formed from its creation core and slot (R16, R332). -/
def Ctx.thread (c : Ctx) : BitVec 24 :=
  bits c.ident.chip 0 8 ++ bits c.ident.die 0 2 ++ bits c.ident.row 0 5 ++ bits c.ident.col 0 5 ++ bits c.ident.slot 0 4

def myCore : M Nat := do return (← me).coreNo
def modCore (k : Nat) (f : Core → Core) : M Unit := modify fun s => s.modCore k f
def modCluster (k : Nat) (f : Cluster → Cluster) : M Unit := modify fun s => s.modCluster k f
def modDie (k : Nat) (f : Die → Die) : M Unit := modify fun s => s.modDie k f

/-- The next free value's number (DESIGN CHOICE, log entry 2). -/
def draw : M Nat := do
  let s ← get
  set { s with draws := s.draws + 1 }
  return s.draws

/-- A fresh number for a packet or an operation. (DESIGN CHOICE, log entry 2.) -/
def freshId : M Nat := do
  let s ← get
  set { s with nextId := s.nextId + 1 }
  return s.nextId

def addPending (i : Instr) : M Unit := modify fun s => { s with pending := s.pending ++ [i] }
def addTimer (at_ : Nat) (i : Instr) : M Unit := modify fun s => { s with timers := s.timers ++ [(at_, i)] }
def delTimer (i : Instr) : M Unit := modify fun s => { s with timers := s.timers.filter fun t => t.2 != i }

/-! ### Fault records and taking an exception (R73 to R77, R166) -/

/-- The codes that are timing-visible by R28 whatever raises them. -/
def timingVisible (c : BitVec 8) : Bool :=
  c == 0x13 || c == 0x17 || c == 0x30 || c == 0x31 || c == 0x40 || c == 0x41 || c == 0x42 || c == 0x48 || c == 0x4F

/-- A fault record without its SEQ (R74). -/
def recordOf (cxid : BitVec 20) (thread : BitVec 24) (pc : Pc) (f : FaultRec) : Line :=
  let tv := timingVisible f.code || (f.code == 0x18 && f.grid)
  let w0 : Word := (0 : BitVec 12) ++ cxid ++ thread ++ f.code
  let w1 : Word := BitVec.ofNat 3 f.info.length ++ BitVec.ofBool tv ++ f.src ++ pc
  let w2 : Word := (0 : BitVec 8) ++ f.taddr
  let i (k : Nat) : Word := f.info.getD k 0
  i 4 ++ i 3 ++ i 2 ++ i 1 ++ i 0 ++ w2 ++ w1 ++ w0

/-- The reporting unit holds a record for the mailbox of a die (R76, R77). -/
def postRecord (die : Nat) (r : Line) (s : State) : State :=
  { s.modDie die (fun d => { d with heldRecs := d.heldRecs ++ [r] }) with
    pending := s.pending ++ [.mailboxRecordAccept die] }

/-- A record of a unit fault with no context (R74): THREAD is the core address of the unit shifted left by 4. -/
def postUnit (die coreNo : Nat) (f : FaultRec) (s : State) : State :=
  postRecord die (recordOf 0xFFFFF (threadAddr s.chip coreNo 0) 0 f) s

/-- The CXID a record names: that of replica 0 for a replica (R351). -/
def recordCxid (s : State) (c : Ctx) : BitVec 20 :=
  match c.group with
  | some g => if c.ident.replica = 0 then c.cxid else BitVec.ofNat 20 ((s.groups.getD g {}).cxbase + c.index)
  | none => c.cxid

/-- A record charged to a context, to the mailbox of the die where it is (R76). (DEDUCED, log entry 42.) -/
def postCtx (c : Ctx) (f : FaultRec) (s : State) : State :=
  postRecord (dieOfCore c.coreNo) (recordOf (recordCxid s c) c.thread (f.pc.getD c.pc) f) s

/-- Codes that R76 delivers in-context: 0x14, 0x17, 0x18, 0x30, and the 0x4F of a killed child. -/
def handlerClass (f : FaultRec) : Bool :=
  f.code == 0x14 || f.code == 0x17 || f.code == 0x18 || f.code == 0x30 || (f.code == 0x4F && f.info.length == 3)

/-- A translation found without parking: caches first, then a walk (R117; used by deliveries and events).
(DEDUCED, log entry 23.) -/
def peek (s : State) (coreNo : Nat) (asid : BitVec 16) (va : Pc) : Option Tlb :=
  match tlbFind (s.core coreNo).tlb asid va with
  | some t => some t
  | none =>
    match tlbFind (s.cluster (clusterOf coreNo)).tlb asid va with
    | some t => some t
    | none => walk s (dieOfCore coreNo) asid va

/-- A dirty copy of a line in an L1, with its core (R134, R169). -/
def dirtyCopy (s : State) (pa : Nat) : Option (Nat × L1Line) :=
  s.cores.findSome? fun k => (k.2.l1.find? fun x => x.dirty && x.pa == pa / 64 * 64).map fun x => (k.1, x)

/-- The latest contents of a line of memory: a dirty copy in some L1, or else DRAM (R134, R169); a free line for memory of
another chip, which only checks that do not ask that chip look at (DESIGN CHOICE, log entry 112). -/
def coherentLine (s : State) (pa : Nat) : Line :=
  match dirtyCopy s pa with
  | some x => x.2.data
  | none => if s.here pa then s.readLine pa else Config.farLine s.cycle (pa / 64 * 64)

/-- A line of a CONST page, formed from PATTERN (R115, R170). -/
def constLine (e : Entry) : Line :=
  let p := Leaf.pattern e
  p ++ p ++ p ++ p ++ p ++ p ++ p ++ p

/-- What a home slice answers to a read of a line: CONST, a dirty copy obtained from its core, or DRAM (R134).
(DESIGN CHOICE, log entry 15.) -/
def homeLine (s : State) (e : Entry) (pa : Nat) : Line := if Leaf.const e then constLine e else coherentLine s pa

/-- The slot field of a PC is 0..4 and bits [5:3] are zero (R55). -/
def pcShape (pc : Pc) : Bool := bits pc 3 3 == 0 && decide ((bits pc 0 3).toNat ≤ 4)
/-- The TGT bit of slot k of a line (R51). -/
def tgtBit (l : Line) (k : Nat) : Bool := bitAt l (480 + 27 + k)
/-- The PAIR bit of slot k of a line (R51). -/
def pairBit (l : Line) (k : Nat) : Bool := decide (k < 4) && bitAt l (480 + 23 + k)
/-- The slot after a PC in sequential order (R55). -/
def seqNext (p : Pc) : Pc := if bits p 0 3 == 4 then (bits p 6 50 + 1) ++ (0 : BitVec 6) else p + 1
/-- The slot after the unit at a PC: after a pair, the slot after its second instruction (R55). (DEDUCED, log entry 23.) -/
def afterUnit (s : State) (p : Pc) : Pc :=
  match peek s s.me.coreNo s.me.asid p with
  | none => seqNext p
  | some t => seqNext (if pairBit (homeLine s t.e (t.pa p)) (bits p 0 3).toNat then p + 1 else p)

/-- Why a transfer to a target is refused (R56, R76). -/
inductive TargetCheck
  | ok | badTarget | notMapped
  deriving DecidableEq, Repr

/-- The checks of R56 on a target under a translation of its line. (DEDUCED, log entry 23.) -/
def checkTarget (s : State) (priv : Bool) (t : Option Tlb) (tgt : Pc) : TargetCheck :=
  if !pcShape tgt then .badTarget
  else match t with
    | none => .notMapped
    | some t =>
      if !permitted priv .fetch t.e then .notMapped
      else if tgtBit (homeLine s t.e (t.pa tgt)) (bits tgt 0 3).toNat then .ok else .badTarget

/-- Delivery by record: every fault is posted, and the context becomes faulted once (R75, R76). -/
def deliverByRecord (fs : List FaultRec) (s : State) : State :=
  let c := s.me
  let s := fs.foldl (fun s f => postCtx c f s) s
  s.modMe fun c => { c with run := .faulted, faults := fs }

/-- Enters the handler: TCAUSE, TPC, TADDR, TINFO and PC by R76; ANN is 0 on entry (R166). -/
def enterHandler (f : FaultRec) (c : Ctx) : Ctx :=
  { c with
    ctl := { c.ctl with tcause := f.code, tpc := f.pc.getD c.pc, taddr := f.taddr, tinfo := f.info.getD 0 0 }
    pc := c.ctl.thnd, xfer := true, leave := none, entry := true, run := .ready, flags := { c.flags with ann := 0 } }

/-- Taking an exception: the delivery of R76. (DEDUCED, log entry 23.) -/
def takeException (fs : List FaultRec) (s : State) : State :=
  let c := s.me
  match fs with
  | [f] =>
    if handlerClass f && c.ctl.thnd != 0 && c.ctl.tcause == 0 then
      let h := c.ctl.thnd
      match checkTarget s c.priv (peek s c.coreNo c.asid h) h with
      | .ok => s.modMe (enterHandler f)
      | .badTarget => deliverByRecord [{ code := 0x03, info := [h.setWidth 64], taddr := h, pc := f.pc }] s
      | .notMapped =>
          deliverByRecord [{ code := 0x10, info := [h.setWidth 64, 0], taddr := h, pc := f.pc }] s
    else deliverByRecord [f] s
  | fs => deliverByRecord fs s

/-- The return from an exception: RTE (R166). -/
def returnFromException : M Unit := do
  let c ← me
  if !pcShape c.ctl.tpc then fault 0x03 [c.ctl.tpc.setWidth 64] c.ctl.tpc
  modMe fun c => { c with pc := c.ctl.tpc, xfer := true, entry := true, ctl := { c.ctl with tcause := 0 } }

/-! ### Running a meaning -/

/-- What a completed or faulted instruction leaves of its bookkeeping. -/
def Ctx.settle (c : Ctx) : Ctx :=
  { c with
    run := if c.run = .ended || c.run = .faulted then c.run else .ready
    instr := none, phase := 0, popped := [], popIx := 0, waits := [], held := [], view := none, until_ := none
    lineBuf := [], pages := [], expired := false, badWalk := none }

/-- The context parks in `i` (R8). -/
def Ctx.parkIn (i : Instr) (c : Ctx) : Ctx :=
  { c with run := if c.run = .sleeping then .sleeping else .parked, instr := some i, popIx := 0 }

/-- A fault 0x01 of an instruction names its 96 bits (R73, R87). -/
def FaultRec.withCode (i : Instr) (f : FaultRec) : FaultRec :=
  if f.code = 0x01 && f.info.isEmpty then
    { f with info := [bits (encode i) 0 64, (bits (encode i) 64 32).setWidth 64] }
  else f

/-- Runs the meaning of an instruction of the current context. -/
def runI (m : M Unit) (i : Instr) (s : State) : Host.Outcome State Fault Refusal :=
  match m.run s with
  | .ok _ t => .next (t.modMe Ctx.settle)
  | .error .park t => .next (t.modMe (Ctx.parkIn i))
  | .error .eos t => .next (t.modMe Ctx.settle)
  | .error (.fault fs) t => .next (takeException (fs.map (FaultRec.withCode i)) (t.modMe Ctx.settle))
  | .error (.refuse r) _ => .refused r

/-- Runs a step of the device that is no instruction of a context. -/
def runE (m : M Unit) (s : State) : Host.Outcome State Fault Refusal :=
  match m.run s with
  | .ok _ t => .next t
  | .error (.refuse r) _ => .refused r
  | .error _ t => .next t

/-! ### Phases of a parked instruction (R151) -/

def phase : M Nat := do return (← me).phase
def setPhase (n : Nat) : M Unit := modMe fun c => { c with phase := n }
/-- Runs `m` once, in phase `n`, and goes on in phase n + 1. -/
def stage (n : Nat) (m : M Unit) : M Unit := do
  if (← phase) = n then
    m
    setPhase (n + 1)

/-! ### Registers (R62, R63) -/

/-- The identity registers (R62, R332). -/
def Ident.get (d : Ident) : IdReg → Word
  | .die => d.die | .row => d.row | .col => d.col | .slot => d.slot | .chip => d.chip | .stage => d.stage
  | .replica => d.replica | .extm => d.extm | .extn => d.extn | .extk => d.extk | .orgm => d.orgm | .orgn => d.orgn
  | .orgk => d.orgk | .grp => d.grp | .cxid => d.cxid

/-- The register state of a specifier; s0 and every other class are always full. -/
def Ctx.regSt (c : Ctx) : Spec → RegSt
  | .s n => if n = 0 then .full else (c.s.get n.toFin).st
  | .v n => (c.v.get n.toFin).st
  | .b n => (c.b.get n.toFin).st
  | _ => .full

def Ctx.setRegSt (c : Ctx) (r : Spec) (st : RegSt) : Ctx :=
  match r with
  | .s n => if n = 0 then c else { c with s := c.s.set n.toNat { c.s.get n.toFin with st } n.toFin.isLt }
  | .v n => { c with v := c.v.set n.toNat { c.v.get n.toFin with st } n.toFin.isLt }
  | .b n => { c with b := c.b.set n.toNat { c.b.get n.toFin with st } n.toFin.isLt }
  | _ => c

/-- Writes an s-register and makes it full; s0 discards (R62, R63). -/
def Ctx.putS (c : Ctx) (n : BitVec 5) (x : Word) : Ctx :=
  if n = 0 then c else { c with s := c.s.set n.toNat { val := x, st := .full } n.toFin.isLt }
def Ctx.putV (c : Ctx) (n : BitVec 4) (x : Row) : Ctx :=
  { c with v := c.v.set n.toNat { val := x, st := .full } n.toFin.isLt }
def Ctx.putB (c : Ctx) (n : BitVec 3) (x : BReg) : Ctx :=
  { c with b := c.b.set n.toNat { val := x, st := .full } n.toFin.isLt }
def Ctx.getS (c : Ctx) (n : BitVec 5) : Word := if n = 0 then 0 else (c.s.get n.toFin).val
def Ctx.getV (c : Ctx) (n : BitVec 4) : Row := (c.v.get n.toFin).val
def Ctx.getB (c : Ctx) (n : BitVec 3) : BReg := (c.b.get n.toFin).val

/-- The registers as operands see them: those from before the pair, inside one (R57). -/
def Ctx.seen (c : Ctx) : Ctx :=
  match c.view with
  | none => c
  | some w => { c with s := w.s, v := w.v, b := w.b, flags := w.flags }

/-- The check of a read (R63): what it does to the register, or how it ends. -/
def checkRead (r : Spec) : M Unit := do
  let c ← me
  match c.regSt r with
  | .full => pure ()
  | .dead => fault 0x05 [r.code.setWidth 64]
  | .reserved _ _ => throw .park
  | .broken =>
    modMe fun c => c.setRegSt r .dead
    fault 0x06 [r.code.setWidth 64]
  | .prot _ f =>
    modMe fun c => c.setRegSt r .full
    match f with
    | some f => raise f
    | none => pure ()

/-- The check of a local write (R63): reserved, broken and write-protected registers fault with 0x06. -/
def checkWrite (r : Spec) : M Unit := do
  match (← me).regSt r with
  | .full | .dead => pure ()
  | _ => fault 0x06 [r.code.setWidth 64]

/-! ### Translation (R117) -/

/-- Starts a walk for an address, or joins one in flight on the die for the same leaf (R117 rule 2). -/
def startWalk (asid : BitVec 16) (va : Pc) (cx dieNo : Nat) : M Unit := do
  let s ← get
  let page : Pc := BitVec.ofNat 56 (va.toNat / 65536 * 65536)
  let leaf := match walk s dieNo asid va with
    | some t => t.base
    | none => page
  match (s.die dieNo).walks.find? fun w => w.asid == asid && (w.leaf == leaf || w.va == page) with
  | some w =>
    modDie dieNo fun d => { d with walks := d.walks.map fun x =>
      if x.id = w.id then { x with cxs := if x.cxs.contains (cx, page) then x.cxs else x.cxs ++ [(cx, page)] } else x }
  | none =>
    let id ← freshId
    modDie dieNo fun d => { d with walks := d.walks ++ [{ id, asid, va := page, leaf, cxs := [(cx, page)] }] }
    addPending (.pageWalkComplete id)

/-- The translation fault of an access (R116). -/
def xlatFault {α : Type} (va : Pc) (k : AccKind) : M α :=
  fault 0x10 [va.setWidth 64, BitVec.ofNat 64 k.code] va

/-- The instruction in progress keeps a translation: it goes on from a Park and translates no page again (R8, R151).
A fetch is made again. -/
def keepPage (k : AccKind) (t : Tlb) : M Unit := if k = .fetch then pure () else modMe fun c => { c with pages := t :: c.pages }

/-- Translate(va, kind) of R8: a page of the instruction in progress, the L1 TLB, or a park while a walk runs; 0x10 when
the walk ended by R116, or the fault of a table line. -/
def translate (k : AccKind) (va : Pc) : M Tlb := do
  let s ← get
  let c := s.me
  let coreNo := c.coreNo
  let found (t : Tlb) : M Tlb := if permitted c.priv k t.e then pure t else xlatFault va k
  match tlbFind c.pages c.asid va, tlbFind (s.core coreNo).tlb c.asid va with
  | some t, _ => found t
  | none, some t =>
    keepPage k t
    found t
  | none, none =>
    match c.badWalk.filter fun b => b.1 == BitVec.ofNat 56 (va.toNat / 65536 * 65536) with
    | some b =>
      modMe fun c => { c with badWalk := none }
      match b.2 with
      | some f => raise { f with taddr := va }
      | none => xlatFault va k
    | none =>
      match tlbFind (s.cluster (clusterOf coreNo)).tlb c.asid va with
      | some t => modCore coreNo fun x => { x with tlb := tlbPut 64 x.tlb t }
      | none => startWalk c.asid va s.cur (dieOfCore coreNo)
      throw .park

/-- A core-path or copy-path access to a metadata region faults with 0x11 (R124). -/
def notMeta (t : Tlb) (va : Pc) : M Unit := do
  if !Leaf.const t.e && inMeta (← get) (t.pa va) then
    fault 0x11 [va.setWidth 64, (Leaf.owner t.e).setWidth 64] va

/-- Whether OWNER names a live context (R135). -/
def ownerLive (s : State) (x : BitVec 20) : Bool := (cxidKey s x).isSome

/-- The fault of a page rule, with the INFO words that R73 gives its code. -/
def pageFault (code : BitVec 8) (e : Entry) (va : Pc) : FaultRec :=
  if code = 0x11 then { code, info := [va.setWidth 64, (Leaf.owner e).setWidth 64], taddr := va }
  else if code = 0x13 then { code, info := [va.setWidth 64], taddr := va, src := 1 }
  else if code = 0x12 then { code, info := [va.setWidth 64, (Leaf.jtCode e).setWidth 64], taddr := va, src := 1 }
  else { code, info := [va.setWidth 64], taddr := va }

/-- Applies R135 for an access; true when the page has something to do for it. A 0x12 of an access that sends no join has
no third INFO word (DESIGN CHOICE, log entry 90). -/
def applyPageRule (a : PageAcc) (t : Tlb) (va : Pc) : M Bool := do
  let s ← get
  match pageRule (pageKind t.e s.me.cxid (ownerLive s (Leaf.owner t.e))) a with
  | .yes => pure true
  | .nothing => pure false
  | .parks =>
    -- the page is evaluated again when it or its owner has changed
    modMe fun c => { c with pages := [] }
    throw .park
  | .fault code => raise (pageFault code t.e va)

/-- Fault(0x19, address, alignment). -/
def needAlign (va : Pc) (n : Nat) : M Unit :=
  if va.toNat % n = 0 then pure () else fault 0x19 [va.setWidth 64, BitVec.ofNat 64 n] va

/-! ### Marks (R34 to R37, R40, R42) -/

/-- An access from path `p` to a unit parks under a mark of another path (R36). -/
def markBlocks (s : State) (u : MUnit) (p : Nat) (write : Bool) : Bool :=
  s.marks.any fun m => m.unit_ == u && m.path != p && (m.write || write)

/-- A unit conflicts with an earlier operation of the same context and path (R37). -/
def heldBehind (s : State) (u : MUnit) (p cx op : Nat) (write : Bool) : Bool :=
  s.marks.any fun m => m.unit_ == u && m.path == p && m.cx == cx && decide (m.op < op) && (m.write || write)

/-! ### Packets and answers (R75, R127, R296) -/

/-- Where a request for an address goes: its home slice, or another chip (R125, R368). -/
def homeDst (s : State) (t : Tlb) (va : Pc) : Nat :=
  if chipOf (t.phys va) = s.chip.toNat then 4096 + homeOfVa t va else 8192 + chipOf (t.phys va)

/-- Key of no context: for requests that no context waits for. -/
def nobody : Nat := 2 ^ 30
/-- Key of the host as a sender (R369). -/
def hostKey : Nat := 2 ^ 30 + 1
/-- Key of the page walkers as a sender (R117). -/
def walkKey : Nat := 2 ^ 30 + 2

/-- A join-path request, KIND 9 or 10 (R354). -/
def PKind.joinPath : PKind → Bool
  | .join | .threshold | .freeze | .exact | .inval | .zeroReq => true
  | _ => false

/-- A response travels on the channels of responses (R354, R355). -/
def PKind.response : PKind → Bool
  | .answer | .lineResp => true
  | _ => false

/-- KIND of a packet (R292, R354): an answer's is that of what it answers. -/
def Packet.code (p : Packet) : BitVec 4 :=
  match p.kind with
  | .queueEntry => 0 | .deposit => 1 | .row => 2 | .synld => 3
  | .mcast => if p.words.length = 2 then 5 else 6
  | .copy => if p.words.length = 3 then 12 else 7
  | .answer => match p.asked with
    | some .synld => 4
    | some .copy => if p.data.isEmpty then 8 else 7
    | some k => if k.joinPath then 11 else 8
    | none => 8
  | .join => 9
  | .threshold | .freeze | .exact | .inval | .zeroReq => 10
  | .lineReq => 12
  | .lineResp => 13
  | .tdec | .arrival | .record => 14
  | .control | .order => 15

/-- ARG of a header (R292). -/
def Packet.arg (p : Packet) : BitVec 28 :=
  let x (k : Nat) : Word := p.words.getD k 0
  match p.kind with
  | .deposit => bits (x 0) 0 20 ++ bits (x 1) 0 8
  | .queueEntry => (bits (x 0) 0 2).setWidth 28
  | .mcast => if p.words.length = 2 then (bits (x 1) 0 18).setWidth 28 else (bits (x 1) 0 2).setWidth 28
  | .row | .synld => (bits (x 0) 0 18).setWidth 28
  | .answer => ((p.faults.head?.map fun f : FaultRec => f.code).getD 0).setWidth 28
  | _ => 0

/-- The context that counts a packet: that of its operation, or the one that moves (R356). -/
def Packet.counter (p : Packet) : Nat :=
  if p.kind == .arrival && p.cx == nobody && p.flow.isNone then (p.words.getD 0 0).toNat else p.cx

/-- The flow id of a packet (R356, R357). -/
def flowId (s : State) (p : Packet) : BitVec 16 :=
  let x := p.words.getD 0 0
  match p.kind with
  | .queueEntry => (bits x 0 2).setWidth 16
  | .deposit => 0x4000 ||| (bits x 0 14).setWidth 16
  | .row | .synld => 0x8000
  | .mcast => 0xC000
  | .answer | .lineResp => p.fid
  | .join | .threshold | .freeze | .exact | .inval | .zeroReq =>
    match (s.ctx p.cx).opens.find? fun o => o.1 != p.op && o.2.line == some (p.pa / 64) with
    | some o => o.2.seq
    | none => (s.ctx p.cx).joinSeq
  | _ => match s.ctxs.find p.counter with
    | some c => c.pktSeq
    | none => s.unitSeq.getD p.thread.toNat 0

/-- The destination thread address that the header and the route hash take: that of the requester for an answer; a home or
a port counts as core 0 of its cluster. (DESIGN CHOICE, log entry 54.) -/
def dstThread (s : State) (p : Packet) : BitVec 24 :=
  if p.kind.response then p.far
  else if p.dst < 4096 then
    match p.kind with
    | .deposit => match cxidKey s ((p.words.getD 0 0).setWidth 20) with
      | some k => if p.flag then threadAddr s.chip (s.ctx k).coreNo (s.ctx k).slotNo else s.chip ++ (0 : BitVec 16)
      | none => s.chip ++ (0 : BitVec 16)
    | _ => threadAddr s.chip p.dst 0
  else if p.dst < 8192 then threadAddr s.chip (coreOfCluster (p.dst - 4096) 0) 0
  else p.far

/-- The route hash (R356). (DESIGN CHOICE, log entry 54.) -/
def routeHash (src dst : BitVec 24) (fid : BitVec 16) : Word := km10 (src ++ dst ++ fid) 0x726F7574

/-- The message header (R292). -/
def Packet.header (s : State) (p : Packet) : BitVec 128 :=
  let scx : BitVec 20 := if p.cx = hostKey then 0xFFFFE else (s.ctx p.cx).cxid
  let w1 : Word := scx ++ p.seq ++ p.arg
  let w0 : Word := p.code ++ Fmt.code p.wire.fmt ++ BitVec.ofBool p.wire.sat ++ RMode.code p.wire.rm ++ (0 : BitVec 4)
    ++ p.thread ++ dstThread s p
  w1 ++ w0

/-- The virtual channel of a packet of a route bit: copy data is a request, whatever it answers (R354, R355). -/
def Packet.channel (p : Packet) (yx : Bool) : Nat :=
  if p.kind == .mcast then 4 else (if yx then 2 else 0) + (if p.kind.response && p.code != 7 then 1 else 0)

/-- A packet carries copy data to a memory home, of this chip or of another: one line with its mask. -/
def Packet.toMemory (p : Packet) : Bool :=
  p.kind == .copy && p.flag && p.words.length == 1 && p.data.length == 64 && decide (4096 ≤ p.dst)

/-- The intermediate router of a copy-data packet to a memory home, while two-phase routing is on (R361). -/
def copyMid (s : State) (p : Packet) (from_ : Nat) (g : Word) : Option Nat :=
  if p.toMemory && (s.die (from_ / 160)).llActive then
    some (from_ / 160 * 160 + (bits (km10 g 0x6D696431) 0 32).toNat % 160)
  else none

/-- The header, the route word and the place of a packet at the router where it starts (R292, R355, R356, R361). -/
def routed (s : State) (id : Nat) (p : Packet) (from_ port : Nat) : Packet :=
  let fid := flowId s p
  let g := routeHash p.thread (dstThread s p) fid
  let mid := copyMid s p from_ g
  { p with
    fid, node := from_, port, entered := id, yx := bitAt g 0, kappa := bits g 1 3, mid, arrived := false
    vc := if mid.isSome then 5 else p.channel (bitAt g 0), head := p.header s }

/-- A packet is counted among those of its sender (R356, R357). -/
def counted (p : Packet) (s : State) : State :=
  let one (c : Ctx) : Ctx :=
    if p.kind.joinPath then
      { c with
        joinSeq := c.joinSeq + 1
        opens := match c.opens.find p.op with
          | some o => c.opens.put p.op { o with line := some (p.pa / 64), seq := p.fid }
          | none => c.opens }
    else { c with pktSeq := c.pktSeq + 1 }
  let counts := p.kind.joinPath || match p.kind with
    | .lineReq | .tdec | .arrival | .copy | .control | .order => true
    | _ => false
  if !counts then s
  else match s.ctxs.find p.counter with
    | some c => s.setCtx p.counter (one c)
    | none => { s with unitSeq := s.unitSeq.put p.thread.toNat (s.unitSeq.getD p.thread.toNat 0 + 1) }

/-- A request notes its flow with its operation; the answer leaves it. -/
def noted (p : Packet) (s : State) : State :=
  match p.kind.response, (s.ctx p.cx).opens.find p.op with
  | false, some o => s.modCtx p.cx fun c => { c with opens := c.opens.put p.op { o with flow := p.flow } }
  | _, _ => s

/-- A packet of a number enters a port of a router. -/
def injected (id : Nat) (p : Packet) (from_ port : Nat) (s : State) : State :=
  let p := routed s id p from_ port
  let s := noted p (counted p s)
  { s with net := s.net.put id p, pending := s.pending ++ [.packetForward id] }

/-- Sends a packet of a number from a port of a router; PACKET_FORWARD moves it. -/
def sendAs (id : Nat) (p : Packet) (from_ port : Nat) : M Unit := modify (injected id p from_ port)

/-- Sends a packet under a fresh number. -/
def sendFrom (p : Packet) (from_ port : Nat) : M Nat := do
  let id ← freshId
  sendAs id p from_ port
  return id

/-- Sends a packet from the network interface of a cluster. -/
def sendPacket (p : Packet) (fromCluster : Nat) : M Nat := sendFrom p fromCluster 9

/-- A dirty line leaves the L1 of a core for its home: memory of this package takes it, or a packet carries it to the chip
that holds it (R112, R134, R169). Later packets to that chip wait for the answer (DESIGN CHOICE, log entry 112). -/
def putBack (core pa : Nat) (l : Line) (s : State) : State :=
  if s.here pa then s.writeLine pa l
  else
    let id := s.nextId
    let p : Packet :=
      { kind := .lineReq, op := id, cx := walkKey, thread := threadAddr s.chip core 0, dst := 8192 + chipOf pa
        far := BitVec.ofNat 8 (chipOf pa) ++ (0 : BitVec 16), pa := pa / 64 * 64, flag := true, words := [BitVec.allOnes 64]
        data := bytesOf 64 l }
    let s := { s with nextId := id + 2, net := s.net.put id { p with kind := .record, asked := some .lineReq, words := [1], data := [] } }
    injected (id + 1) p (clusterOf core) 9 s

/-- A dirty line of some is on its way to another chip, unanswered. -/
def writingBack (s : State) (sel : Packet → Bool) : Bool :=
  s.net.any fun q => q.2.kind == .record && q.2.asked == some .lineReq && sel q.2

/-- The operation of the copy engine of a number, with its cluster. -/
def findCopy (s : State) (op : Nat) : Option (Nat × CopyCmd) :=
  s.clusters.findSome? fun k => (k.2.copies.find? fun c => c.id == op).map fun c => (k.1, c)

/-- Where the answer to a packet goes: its context's core or that of its copy engine, another chip, or the host. -/
def answerDst (s : State) (p : Packet) : Nat :=
  if p.cx = hostKey then 8448 + (bits p.thread 14 2).toNat
  else if bits p.thread 16 8 ≠ s.chip then 8192 + (bits p.thread 16 8).toNat
  else match findCopy s p.op with
    | some c => c.2.core
    | none => (s.ctx p.cx).coreNo

/-- Sends the answer to a request, from a cluster; no one waits for the answer to a request of no context. -/
def sendAnswer (p q : Packet) (fromCluster : Nat) : M Unit := do
  if p.cx ≠ nobody then
    let s ← get
    let _ ← sendFrom
      { q with op := p.op, cx := p.cx, dst := answerDst s p, fid := p.fid, asked := some p.kind, seq := p.seq, wire := p.wire
               far := p.thread, thread := threadAddr s.chip (coreOfCluster fromCluster 0) 0 }
      fromCluster (if 4096 ≤ p.dst && decide (p.dst < 8192) then 8 else 9)

/-- A new operation of the current context that will be answered; a counted one adds 1 to STQ (R127). -/
def openOp (kind : OpenKind) (counted : Bool) : M Nat := do
  let id ← freshId
  modMe fun c =>
    { c with
      opens := c.opens.put id { kind, pc := c.pc, counted }
      ctl := if counted then { c.ctl with stq := c.ctl.stq + 1 } else c.ctl }
  return id

/-- A fault charged to the next wait for STQ = 0: kept in ascending order of lane or core, then of issue (R75). -/
def insertOwed (o : Owed) : List Owed → List Owed
  | [] => [o]
  | x :: xs => if o.ord < x.ord || (o.ord == x.ord && decide (o.op < x.op)) then o :: x :: xs else x :: insertOwed o xs

/-- The operation is answered: STQ counts it no longer. -/
def Ctx.closeOp (c : Ctx) (op : Nat) : Ctx :=
  match c.opens.find op with
  | none => c
  | some o =>
    { c with
      opens := c.opens.del op
      ctl := if o.counted then { c.ctl with stq := c.ctl.stq - 1 } else c.ctl }

/-- Open operations of a kind. -/
def openCount (c : Ctx) (k : OpenKind) : Nat := (c.opens.filter fun o => o.2.kind == k).length

/-- Park(STQ = 0); then the faults owed to this wait are charged to it (R75). -/
def waitStq : M Unit := do
  let c ← me
  parkUnless (c.ctl.stq == 0)
  if c.owed.isEmpty then pure ()
  else
    modMe fun c => { c with owed := [] }
    throw (.fault (c.owed.map (·.fault)))

/-- Park(every operation of `waits` answered), then their faults; the answers in order. -/
def waitAnswers : M (List Ans) := do
  let c ← me
  parkUnless (c.waits.all fun w => (c.opens.find w).isNone)
  let as := c.waits.filterMap fun w => c.answers.find w
  modMe fun c => { c with answers := c.answers.filter fun a => !c.waits.contains a.1 }
  let fs := as.flatMap (·.faults)
  if fs.isEmpty then pure as else throw (.fault fs)

/-- The context's own faults among `owed` for the operations it waits for are taken with them. -/
def addWait (op : Nat) : M Unit := modMe fun c => { c with waits := c.waits ++ [op] }

/-- A condition holds of the current context's core being an ordinary one; a supervisor core has no such unit.
(DEDUCED, log entry 66.) -/
def needUnit (mnemonic : String) : M Unit := do
  if isSupervisor (← myCore) then throw (.refuse (.noUnit mnemonic))

/-! ### Placing marks (R34, R35, R40, R42) -/

/-- The dirty copies of a line are written back and become clean (R35, R134). -/
def pullLine (pa : Nat) (s : State) : State :=
  let l := pa / 64 * 64
  match dirtyCopy s pa with
  | none => s
  | some x =>
    let s := putBack x.1 l x.2.data s
    { s with cores := s.cores.map fun k =>
        (k.1, { k.2 with l1 := k.2.l1.map fun y => if y.pa = l then { y with dirty := false } else y }) }

/-- Places a mark; a memory line is first written back and downgraded in its owner's L1 (R34, R35).
(DEDUCED, log entry 88.) -/
def placeMark (u : MUnit) (path : Nat) (write : Bool) (op : Nat) : M Unit :=
  modify fun s =>
    let s := match u with
      | .line pa => pullLine pa s
      | .row _ _ => s
    { s with marks := s.marks ++ [{ unit_ := u, path, write, cx := s.cur, op }] }

/-- The marks of an operation clear. -/
def clearMarks (op : Nat) : M Unit := modify fun s => { s with marks := s.marks.filter fun m => m.op != op }
def clearMarkUnit (op : Nat) (u : MUnit) : M Unit :=
  modify fun s => { s with marks := s.marks.filter fun m => m.op != op || m.unit_ != u }

/-- UNF[q] := 1, and ENV[q] covers the lines lo .. hi when there are any (R42). -/
def setUnfenced (q : Nat) (range : Option (Pc × Pc)) : M Unit :=
  modMe fun c =>
    { c with
      unf := setBit c.unf q true
      env := match range with
        | none => c.env
        | some (lo, hi) =>
          match c.env.find q with
          | none => c.env.put q (lo, hi)
          | some (l, h) => c.env.put q (if lo < l then lo else l, if h < hi then hi else h) }

/-! ### Reading code (R54, R112, R125, R376) -/

/-- The line of an address. -/
def lineVa (va : Pc) : Pc := va &&& ~~~0x3F

/-- The units that an access to a line needs: its home slice, and the channel of its place unless the page is CONST. -/
def lineUnits (s : State) (home pa : Nat) (const : Bool) : List Word :=
  sliceUnit s home :: if const then [] else [channelUnit s pa]

/-- The thread address of the home of an address (R356). (DESIGN CHOICE, log entry 54.) -/
def homeThread (t : Tlb) (va : Pc) : BitVec 24 :=
  threadAddr (BitVec.ofNat 8 (chipOf (t.phys va))) (coreOfCluster (homeOfVa t va) 0) 0

/-- Requests a line at its home for a path (R168). -/
def requestLine (path : Nat) (t : Tlb) (va : Pc) : M Unit := do
  let c ← me
  let s ← get
  let op ← openOp .read false
  addWait op
  let _ ← sendPacket
    { kind := .lineReq, op, cx := s.cur, pc := c.pc, thread := c.thread, dst := homeDst s t va, far := homeThread t va, va := lineVa va
      pa := t.pa va / 64 * 64, e := t.e, ord := path, flag := false } (clusterOf c.coreNo)

/-- A line of another chip for a fetch or for the check of a target: requested at its home, and read when it has come. -/
def farCode (t : Tlb) (va : Pc) : M Line := do
  let c ← me
  match c.lineBuf.find (lineVa va).toNat with
  | some l => return l
  | none =>
    if c.waits.isEmpty then requestLine 0 t va
    else
      let _ ← waitAnswers
      modMe fun c => { c with waits := [] }
    throw .park

/-- A line of code: from its home in this package, unless that is fenced or lasting or the line is spoilt, or from another
chip (R125, R322, R376). -/
def codeLine (t : Tlb) (va : Pc) : M Line := do
  let s ← get
  let pa := t.pa va
  if !s.here pa then farCode t va
  else
    let us := lineUnits s (homeOfVa t va) pa (Leaf.const t.e)
    match firstLasting s us with
    | some u => fault 0x41 [u] va 8
    | none =>
      parkUnless (!anyFenced s us)
      if lineSpoilt s pa && !Leaf.const t.e then raise (uncorrectable pa va)
      return homeLine s t.e pa

end Sys2Proof.Machine
end

