-- ==== Sys2Proof/Machine/Operands.lean ====
section
/-!
DEFINITION. Operands: which registers an instruction reads and writes, the register checks of R72 step 5, reads and
writes of every operand form of R62, and the local pushes and pops of the stage queues (R346 to R351).
-/

namespace Sys2Proof

/-- The register behind a source operand: a scratchpad operand reads its base (R183). -/
def Spec.srcReg : Spec → List Spec
  | .sp n | .spi n => [.s n]
  | r => [r]
/-- The base that a scratchpad destination reads. -/
def Spec.dstBase : Spec → List Spec
  | .sp n | .spi n => [.s n]
  | _ => []
/-- The register that a destination operand writes. -/
def Spec.dstReg : Spec → List Spec
  | .sp _ | .spi _ => []
  | r => [r]

def Src.regs : Src → List Spec
  | .reg r => [r]
  | .imm _ => []

/-- The s-registers n, n + 1, … of a list operand; none when n names s0. -/
def sRun (n : BitVec 5) (k : Nat) : List Spec :=
  if n = 0 then [] else (List.range k).map fun i => .s (n + BitVec.ofNat 5 i)

/-- The s-registers of a mask of s1..s31. -/
def maskRegs (m : BitVec 31) : List Spec :=
  (List.range 31).filterMap fun i => if bitAt m i then some (.s (BitVec.ofNat 5 (i + 1))) else none

def VArith.srcs (o : VArith) : List Spec := o.d.dstBase ++ o.a.srcReg ++ o.b.srcReg ++ [o.c]
def VBin.srcs (o : VBin) : List Spec := o.d.dstBase ++ o.a.srcReg ++ o.b.srcReg ++ [o.c]
def VUn.srcs (o : VUn) : List Spec := o.d.dstBase ++ o.a.srcReg ++ [o.c]
def VTr.srcs (o : VTr) : List Spec := o.d.dstBase ++ o.a.srcReg ++ [o.c]

/-- The registers an instruction reads, in the order D, A, B, C. (DEDUCED, log entry 24.) (DEDUCED, log entry 69.) -/
def Instr.srcs : Instr → List Spec
  | .add _ o | .sub _ o | .mul o | .mulh _ o | .div _ o | .rem _ o | .and o | .or o | .xor o | .andn o
  | .shl o | .shr o | .sar o | .rotl o | .min _ o | .max _ o => o.a :: o.src.regs
  | .clz _ a | .popc _ a | .bfx _ _ a _ _ | .sext _ _ a | .zext _ _ a | .cmpi _ _ a _ => [a]
  | .bfi d a _ _ => [d, a]
  | .lea _ _ a b _ | .sel _ a b | .crand _ a b | .cmp _ _ a b => [a, b]
  | .test _ _ a src => a :: src.regs
  | .jmp a | .ret a | .loop _ a _ | .mtc _ a | .flagsWrite a | .loopCounterWrite _ a | .regionWrite _ a
  | .linkStatusClear _ a | .alarmWrite a | .holdtr a | .rsv _ a | .trap a _ => [a]
  | .call (.indirect a) _ => [a]
  | .ld _ _ _ a _ | .spld _ _ _ a _ | .drain _ a _ | .xrd _ _ a _ | .fix a _ => [a]
  | .st _ a b _ | .spst _ a b _ | .jst _ _ a b _ | .bump _ _ a b _ | .fixr a b | .pub a b => [a, b]
  | .ldv o | .xrdv o => [o.a, o.c]
  | .stv o => [o.a, .v o.r, o.c]
  | .jstv _ _ a b c _ => [a, .v b, c]
  | .tfill _ a b _ _ => [a, b]
  | .trd _ (.vals b m) _ a _ => a :: (List.range (m.toNat + 1)).map fun i => .s (b + BitVec.ofNat 5 i)
  | .trd _ .filled _ a _ => [a]
  | .xrdt _ _ d a _ => [d, a]
  | .xfer a b c => [a, b, c]
  | .vadd o | .vsub o | .vmul o => o.srcs
  | .vfma o | .vfms o => o.d.srcReg ++ o.a.srcReg ++ o.b.srcReg ++ [o.c]
  | .vmin o | .vmax o | .vsel o | .vand o | .vor o | .vxor o | .vshl o | .vshr o | .vperm o | .vcmp _ o
  | .vgath o | .vcrand _ o => o.srcs
  | .vscat o => [o.d, o.a, o.b, o.c]
  | .vabs o | .vneg o => o.srcs
  | .vcvt _ _ o => o.srcs
  | .vrcp o | .vrsq o | .vsqrt o | .vexp2 o | .vlog2 o => o.srcs
  | .vred _ _ _ a c => a.srcReg ++ [c]
  | .vscan _ _ _ d a c => d.dstBase ++ a.srcReg ++ [c]
  | .vbcast _ d a c _ => d.dstBase ++ a.srcReg ++ [c]
  | .vext _ _ a _ => a.srcReg
  | .vld _ _ a c _ => [a, c]
  | .vst _ a b c _ => [a, b, c]
  | .mma o | .mmag o => [o.a, o.b] ++ sRun o.c 2
  | .wmma _ _ _ _ _ _ a b => [.s a, .s b]
  | .tst _ _ d o => [d, o.off, o.c]
  | .tld o => [o.off, o.c]
  | .awr a b _ _ => [a, b]
  | .avfy a b c _ _ => [a, b, c]
  | .amvm _ a _ => [a]
  | .bld _ a _ => [a]
  | .bst a b _ => [a, .b b]
  | .badd _ a b | .baddSub _ a b | .bminmaxMin _ a b | .bminmaxMax _ a b => [.b a, .b b]
  | .bmul _ a b => [.b a, b]
  | .bfma d a b => [.b d, .b a, b]
  | .bactRelu _ a | .acceptGrid _ _ a _ | .acceptRaw _ a | .bcvtBf16 _ a => [.b a]
  | .bactClamp _ a b => [.b a, b]
  | .bcvtF32 _ a | .bcvtI32 _ a => [.v a]
  | .send a b c _ _ | .dep _ a b c _ | .mcastQ a b c _ _ => [a, b, c]
  | .synst a b c _ | .mcastRow a b c _ _ => a :: b.srcReg ++ [c]
  | .synld d a c _ => d.dstBase ++ [a, c]
  | .barw a | .barq _ a => [a]
  | .copy o => [o.a, o.b] ++ sRun o.c 2
  | .copy2 o => [o.a, o.b] ++ sRun o.c 3
  | .dcopy _ a b => [a, b]
  | .dzero _ a => [a]
  | .spawn d a b c _ | .tdef d a b c _ _ _ => [d, a, b] ++ sRun c 4
  | .migrate a m => a :: maskRegs m
  | .tdec a | .launch a | .qcfg a _ _ _ _ | .qeos a _ => [a]
  | .wbegin _ _ _ _ a b _ _ => [a, b]
  | .fenceu a | .fenceuUn a | .stest _ a | .preempt a | .kill a => [a]
  | .resume _ _ a b c | .mapw a b c => [a, b, c]
  | .ckpt _ a b | .tlbi a b | .tlbiAs a b | .tlbiAll a b => [a, b]
  | _ => []

/-- The registers an instruction writes, token registers apart. -/
def Instr.dsts : Instr → List Spec
  | .add _ o | .sub _ o | .mul o | .mulh _ o | .div _ o | .rem _ o | .and o | .or o | .xor o | .andn o
  | .shl o | .shr o | .sar o | .rotl o | .min _ o | .max _ o => [o.d]
  | .clz d _ | .popc d _ | .bfx _ d _ _ _ | .sext _ d _ | .zext _ d _ | .bfi d _ _ _ | .li d _
  | .lea _ d _ _ _ | .sel d _ _ | .crand d _ _ | .mfc d _ | .ld _ _ d _ _ | .spld _ _ d _ _
  | .trd _ _ d _ _ | .xrd _ d _ _ => [d]
  | .call _ d => [.s d]
  | .ldv o | .xrdv o => [.v o.r]
  | .vadd o | .vsub o | .vmul o | .vfma o | .vfms o | .vcvt _ _ o => o.d.dstReg
  | .vmin o | .vmax o | .vsel o | .vand o | .vor o | .vxor o | .vshl o | .vshr o | .vperm o | .vcmp _ o
  | .vgath o | .vcrand _ o => o.d.dstReg
  | .vabs o | .vneg o => o.d.dstReg
  | .vrcp o | .vrsq o | .vsqrt o | .vexp2 o | .vlog2 o => o.d.dstReg
  | .vred _ _ d _ _ | .vscan _ _ _ d _ _ | .vbcast _ d _ _ _ | .vext _ d _ _ | .vld _ d _ _ _ => d.dstReg
  | .astat d _ | .bld d _ _ | .bldBuf d _ _ | .badd d _ _ | .baddSub d _ _ | .bmul d _ _ | .bfma d _ _
  | .bminmaxMin d _ _ | .bminmaxMax d _ _ | .bactRelu d _ | .bactClamp d _ _ | .bcvtF32 d _ | .bcvtI32 d _
  | .bcvtBf16 d _ => [.b d]
  | .acceptGrid _ d _ _ | .acceptRaw d _ | .mbox d | .mboxNb d => [.v d]
  | .synld d _ _ _ => d.dstReg
  | .bara d | .barq d _ | .stest d _ | .ckpt d _ _ => [d]
  | _ => []

/-- The registers an instruction names as destinations, token and reserved registers included (R53 rule 6). -/
def Instr.named (i : Instr) : List Spec :=
  match i with
  | .rsv d _ => [d]
  | .amvm d _ _ | .dcopy d _ _ | .dzero d _ | .wbegin _ _ _ d _ _ _ _ => [.s d]
  | .copy o | .copy2 o => [.s o.d]
  | i => i.dsts

/-- The registers of a DEAD mask; bit 0 of the s mask is ignored (R163). -/
def DeadMask.regs : DeadMask → List Spec
  | .sv v s =>
    ((List.range 32).filterMap fun i => if i ≠ 0 ∧ bitAt s i then some (Spec.s (BitVec.ofNat 5 i)) else none) ++
      (List.range 16).filterMap fun i => if bitAt v i then some (Spec.v (BitVec.ofNat 4 i)) else none
  | .b m => (List.range 8).filterMap fun i => if bitAt m i then some (Spec.b (BitVec.ofNat 3 i)) else none

/-- The registers that an instruction reserves, fills by a token or kills, under the write check of R63 (R44, R48). -/
def Instr.reserves (i : Instr) : List Spec :=
  match i with
  | .rsv d _ => [d]
  | .dead m => m.regs
  | .amvm d _ _ | .dcopy d _ _ | .dzero d _ | .wbegin _ _ _ d _ _ _ _ => [.s d]
  | .copy o | .copy2 o => [.s o.d]
  | _ => []

end Sys2Proof

namespace Sys2Proof.Machine

/-! ### Stage queues (R346, R347, R349, R351) -/

/-- Entries from which a queue counts as full for a replica (R350). -/
def StageQ.high (q : StageQ) : Nat := ceilDiv (3 * q.depth) 4

/-- Notes since when the occupancy has been high or zero (R350). -/
def StageQ.note (cycle : Nat) (q : StageQ) : StageQ :=
  { q with
    highSince := if q.high ≤ q.entries.length then some (q.highSince.getD cycle) else none
    emptySince := if q.entries.isEmpty then some (q.emptySince.getD cycle) else none }

/-- Whether a context is of the producer or consumer stage of a queue of its group. -/
def Ctx.ofStage (c : Ctx) (q : StageQ) (n : BitVec 2) : Bool := c.ident.stage.toNat == n.toNat && c.group == q.group

/-- The queue, or a park until it is configured (R346). -/
def myQueue (j : BitVec 2) : M StageQ := do
  let s ← get
  match (s.core s.me.coreNo).queues.find j.toNat with
  | some q => pure q
  | none => throw .park

def stageFault {α : Type} (j : Nat) : M α := fault 0x3A [BitVec.ofNat 64 j] 0 3

def setQueue (coreNo j : Nat) (q : StageQ) : M Unit := do
  let s ← get
  let q := q.note s.cycle
  modCore coreNo fun c => { c with queues := c.queues.put j q }
  if q.highSince == some s.cycle then addTimer (s.cycle + 64 * 16) (.replicaAdd coreNo j)
  if q.emptySince == some s.cycle then addTimer (s.cycle + 256 * 16) (.replicaDiscard coreNo j)
  if q.entries.any fun e => e.eos && e.tag == q.expect then addPending (.replicaDiscard coreNo j)

/-- The tag of the next push: the push count, or the current tag of a replicable stage (R347). -/
def pushTag (c : Ctx) (key : Nat) : BitVec 16 :=
  match c.stage with
  | some g => if g.rep then g.tag else c.pushes.getD key 0
  | none => c.pushes.getD key 0

/-- Every pop of a replicable stage restores the context to its STAGE state (R351). -/
def Ctx.restoreStage (c : Ctx) (g : StageSt) : Ctx :=
  { c with
    s := Vector.ofFn fun i => if 1 ≤ i.val ∧ i.val ≤ 8 then g.regs.getD (i.val - 1) {} else {}
    v := Vector.replicate 16 {}
    b := Vector.replicate 8 {}
    flags := { b := c.flags.b, e := c.flags.e, o := c.flags.o }
    loop0 := { c.loop0 with count := g.lc0.count }
    loop1 := { c.loop1 with count := g.lc1.count } }

/-- The room for a push of tag t, or a park (R347 rule 4). -/
def checkPush (j : BitVec 2) : M Unit := do
  let q ← myQueue j
  let c ← me
  if q.sender.isSome || !c.ofStage q q.prod then stageFault j.toNat
  match c.stage with
  | some g => if g.rep && g.pushed then stageFault j.toNat
  | none => pure ()
  let t := pushTag c (c.coreNo * 4 + j.toNat)
  parkUnless (decide ((t - q.expect).toNat < q.depth))

/-- A local push (R347): the entry is poppable eight cycles later (R148). (DEDUCED, log entry 19.) -/
def push (j : BitVec 2) (x : Word) (eos : Bool) : M Unit := do
  let q ← myQueue j
  let c ← me
  let s ← get
  let key := c.coreNo * 4 + j.toNat
  let e : QEntry := { tag := pushTag c key, val := x, eos, ready := s.cycle + 8 }
  setQueue c.coreNo j.toNat { q with entries := q.entries ++ [e] }
  modMe fun c =>
    { c with
      pushes := c.pushes.put key (c.pushes.getD key 0 + 1)
      stage := c.stage.map fun g => { g with pushed := true } }

/-- Control goes to a PC in sequential order or elsewhere: an entry unless it is the next unit of the line (R54). -/
def Ctx.goTo (p : Pc) (c : Ctx) : Ctx := { c with pc := p, xfer := true, entry := c.entry || p != c.npc || bits p 0 3 == 0 }

/-- An end token ends the LOOPQ level of its queue, level 1 before level 0; `after` gives the slot after a unit
(R160, R349). -/
def Ctx.endOfStream (after : Pc → Pc) (j : BitVec 2) (c : Ctx) : Ctx :=
  let c := { c with flags := { c.flags with e := true } }
  if c.loop1.active && c.loop1.queue == some j then
    { c with loop1 := { c.loop1 with active := false } }.goTo (after c.loop1.stop)
  else if c.loop0.active && c.loop0.queue == some j then
    { c with loop0 := { c.loop0 with active := false } }.goTo (after c.loop0.stop)
  else c

/-- What every pop of a replicable stage does first (R351), and its current tag (R348). -/
def Ctx.popsTag (tag : BitVec 16) (c : Ctx) : Ctx :=
  match c.stage with
  | some g =>
    if g.rep then { c.restoreStage g with stage := some { g with tag, popped := true, pushed := false } } else c
  | none => c

/-- A pop (R347, R349, R351): the entry with the expected tag, or a park. (DEDUCED, log entry 48.) -/
def pop (j : BitVec 2) : M Word := do
  let q ← myQueue j
  let c ← me
  let s ← get
  if !c.ofStage q q.cons then stageFault j.toNat
  match c.stage with
  | some g => if g.rep && g.popped && !g.pushed then stageFault j.toNat
  | none => pure ()
  match q.entries.find? fun e => e.tag == q.expect && decide (e.ready ≤ s.cycle) with
  | none => throw .park
  | some e =>
    if e.eos then
      -- a replica waits here to be discarded (R350)
      if c.ident.replica != 0 then throw .park
      modMe fun c => (c.popsTag e.tag).endOfStream (afterUnit s) j
      throw .eos
    else
      setQueue c.coreNo j.toNat
        { q with entries := q.entries.filter (fun x => x.tag != e.tag), expect := q.expect + 1 }
      modMe (Ctx.popsTag e.tag)
      return e.val

/-! ### The register checks of R72 step 5 -/

/-- The queue that an operand names. -/
def Spec.queue? : Spec → Option (BitVec 2)
  | .q j => some j
  | _ => none

def Ctx.addPopped (x : Word) (c : Ctx) : Ctx := { c with popped := c.popped ++ [x] }

/-- Pops the queues of a list of operands after the first `n`, which have been popped. (DEDUCED, log entry 19.) -/
def popQueues (rs : List Spec) (n : Nat) : M Unit :=
  ((rs.filterMap Spec.queue?).drop n).forM fun j => do
    let x ← pop j
    modMe (Ctx.addPopped x)

/-- The check of a destination; a queue has the check of `checkRoom` instead. -/
def checkDst (r : Spec) : M Unit :=
  match r with
  | .q _ => pure ()
  | r => checkWrite r

/-- The room for a push, when the destination is a queue. -/
def checkRoom (r : Spec) : M Unit :=
  match r with
  | .q j => checkPush j
  | _ => pure ()

/-- The context is of a replicable stage (R348). -/
def Ctx.replicable (c : Ctx) : Bool :=
  match c.stage with
  | some g => g.rep
  | none => false

/-- Checks the registers of an instruction: reads, then destinations, then the pops and the room of pushes. A context
of a replicable stage pops first, because the pop restores its registers (R351). A register that is both source and
destination is read first (DESIGN CHOICE, log entry 84). -/
def checkRegs (i : Instr) : M Unit := do
  let c ← me
  if c.phase ≠ 0 || c.view.isSome then pure ()
  else
    whenM c.replicable (popQueues i.srcs c.popped.length)
    i.srcs.forM checkRead
    i.dsts.forM checkDst
    whenM (!c.replicable) (popQueues i.srcs c.popped.length)
    i.dsts.forM checkRoom

/-! ### Reading operands -/

/-- The value of lw or ln of a wave context at its current step (R212, R214). -/
def linkOf (s : State) (c : Ctx) (north : Bool) : Row :=
  match c.wave with
  | none => 0
  | some w =>
    let st := s.streams.getD w.stream {}
    let r := rowOfCore w.core
    let c := colOfCore w.core
    if (north && r == st.row0) || (!north && c == st.col0) then 0
    else
      let nb := if north then w.core - 32 else w.core - 1
      match (s.ctx (2 ^ 20 + nb * 2 + st.s)).wave with
      | none => 0
      | some n =>
        let i := if north && !st.diag then w.step else w.step + 1
        match (if north then n.ls else n.le).find? fun x => decide (x.step < i) with
        | some x => x.val
        | none => 0

def linkRead (s : State) (north : Bool) : Row := linkOf s s.me north

/-- The value that a scalar source will have, with nothing popped: what the ports of a unit are counted by (R176). -/
def foresee (s : State) (c : Ctx) (r : Spec) : Word :=
  match r with
  | .s n => c.getS n
  | .id d => c.ident.get d
  | .lw => (linkOf s c false).setWidth 64
  | .ln => (linkOf s c true).setWidth 64
  | .q j => match (s.core c.coreNo).queues.find j.toNat with
    | some q => ((q.entries.find? fun e => e.tag == q.expect).map (·.val)).getD 0
    | none => 0
  | _ => 0

/-- A scalar source (R62, R182, R212, R347). -/
def rdS (r : Spec) : M Word := do
  let s ← get
  let c := s.me
  match r with
  | .s n => return c.seen.getS n
  | .id d => return c.ident.get d
  | .lw => return (linkRead s false).setWidth 64
  | .ln => return (linkRead s true).setWidth 64
  | .q _ =>
    modMe fun c => { c with popIx := c.popIx + 1 }
    return c.popped.getD c.popIx 0
  | _ => return 0

def rdSn (n : BitVec 5) : M Word := do return (← me).seen.getS n
def rdVn (n : BitVec 4) : M Row := do return (← me).seen.getV n
def rdBn (n : BitVec 3) : M BReg := do return (← me).seen.getB n

/-- The second source of the binary form (R60). -/
def rdSrc : Src → M Word
  | .reg r => rdS r
  | .imm x => return sext64 x

/-- FLAGS as an instruction reads it (R57). -/
def rdFlags : M Flags := do return (← me).seen.flags

/-! ### Writing destinations -/

/-- Writes a link register of a wave context: the value of this step (R212, R214). (DEDUCED, log entry 68.) -/
def linkWrite (south : Bool) (x : Row) : M Unit :=
  modMe fun c =>
    { c with wave := c.wave.map fun w =>
        let put (l : List (LinkVal 1024)) : List (LinkVal 1024) :=
          ({ step := w.step, val := x } :: l.filter fun y => y.step != w.step).take 8
        if south then { w with ls := put w.ls } else { w with le := put w.le } }

/-- The value a link register held before the step. (DEDUCED, log entry 68.) -/
def linkOld (c : Ctx) (south : Bool) : Row :=
  match c.wave with
  | none => 0
  | some w => match (if south then w.ls else w.le) with
    | [] => 0
    | x :: _ => x.val

/-- A scalar destination (R63, R212, R347). -/
def wrS (r : Spec) (x : Word) : M Unit :=
  match r with
  | .s n => modMe fun c => c.putS n x
  | .q j => push j x false
  | .le => linkWrite false (x.setWidth 1024)
  | .ls => linkWrite true (x.setWidth 1024)
  | _ => pure ()

def wrVn (n : BitVec 4) (x : Row) : M Unit := modMe fun c => c.putV n x
def wrBn (n : BitVec 3) (x : BReg) : M Unit := modMe fun c => c.putB n x

/-- A v-register under a lane mask: unwritten lanes keep their contents, or 0 in a dead register (R63, R181).
(DEDUCED, log entry 73.) -/
def wrVm (n : BitVec 4) (m : BitVec 32) (x : Row) : M Unit :=
  modMe fun c => c.putV n (Row.merge m (if (c.regSt (.v n)) = .dead then 0 else c.getV n) x)

/-- The lane mask that a field names: s0 means all lanes (R181). -/
def rdMask (r : Spec) : M (BitVec 32) := do
  if r = .s 0 then return BitVec.allOnes 32 else return (← rdS r).setWidth 32

def modFlags (f : Flags → Flags) : M Unit := modMe fun c => { c with flags := f c.flags }

end Sys2Proof.Machine
end

