-- ==== Sys2Proof/Machine/Flags.lean ====
section
/-!
DEFINITION. FLAGS as a word, and every flag computation of class 0 (R66, R67, R153, R154, R156).
-/

namespace Sys2Proof.Machine

/-- FLAGS as MFC reads it (R66). -/
def Flags.word (f : Flags) : Word :=
  (0 : BitVec 54) ++ bit1 f.e ++ bit1 f.b ++ f.ann ++ bit1 f.o ++ bit1 f.t ++ bit1 f.v ++ bit1 f.c ++ bit1 f.n
    ++ bit1 f.z

/-- MTC to FLAGS: Z, N, C, V, T and E; B and O set only; ANN ignored (R66, R162). -/
def Flags.write (f : Flags) (x : Word) : Flags :=
  { f with
    e := bitAt x 9, b := f.b || bitAt x 8, o := f.o || bitAt x 5, t := bitAt x 4, v := bitAt x 3, c := bitAt x 2
    n := bitAt x 1, z := bitAt x 0 }

/-- The flags of a .f form: Z and N from the result, C and V as given; T and ANN stay (R153). -/
def Flags.arith (f : Flags) (r : Word) (c v : Bool) : Flags := { f with z := r == 0, n := r.msb, c, v }

/-- T and ANN of CMP, CMPI and TEST (R67). -/
def Flags.compare (f : Flags) (t : Bool) (skip : BitVec 2) : Flags := { f with t, ann := if t then 0 else skip }

/-- A condition of CMP and CMPI (R154). -/
def condHolds (cc : Cond) (a b : Word) : Bool :=
  match cc with
  | .eq => a == b
  | .ne => a != b
  | .lt => a.slt b
  | .le => a.sle b
  | .gt => b.slt a
  | .ge => b.sle a
  | .ltu => a.ult b
  | .leu => a.ule b
  | .gtu => b.ult a
  | .geu => b.ule a

/-- A condition of BRC (R156). -/
def Flags.holds (f : Flags) : BCond → Bool
  | .t => f.t | .f => !f.t | .z => f.z | .nz => !f.z | .n => f.n | .nn => !f.n | .c => f.c | .nc => !f.c
  | .v => f.v | .nv => !f.v | .eos => f.e | .neos => !f.e

/-- Result, C and V of a class-0 operation. -/
structure AluOut where
  r : Word
  c : Bool := false
  v : Bool := false
  deriving DecidableEq, Repr

/-- Saturation of an exact sum or difference: the value and whether it was clamped (R153). -/
def clampS (x : Int) : Word × Bool :=
  if x < -(2 ^ 63) then (BitVec.ofNat 64 (2 ^ 63), true)
  else if 2 ^ 63 - 1 < x then (BitVec.ofNat 64 (2 ^ 63 - 1), true)
  else (BitVec.ofInt 64 x, false)
def clampU (x : Int) : Word × Bool :=
  if x < 0 then (0, true) else if 2 ^ 64 - 1 < x then (BitVec.allOnes 64, true) else (BitVec.ofInt 64 x, false)

/-- ADD (R153). -/
def aluAdd (m : SatMode) (a v : Word) : AluOut :=
  let c := decide (2 ^ 64 ≤ a.toNat + v.toNat)
  let ex := a.toInt + v.toInt
  match m with
  | .wrap => { r := a + v, c, v := (clampS ex).2 }
  | .ss => { r := (clampS ex).1, c, v := (clampS ex).2 }
  | .us => let p := clampU (a.toNat + v.toNat); { r := p.1, c, v := p.2 }

/-- SUB (R153). -/
def aluSub (m : SatMode) (a v : Word) : AluOut :=
  let c := a.ult v
  let ex := a.toInt - v.toInt
  match m with
  | .wrap => { r := a - v, c, v := (clampS ex).2 }
  | .ss => { r := (clampS ex).1, c, v := (clampS ex).2 }
  | .us => let p := clampU ((a.toNat : Int) - v.toNat); { r := p.1, c, v := p.2 }

/-- MUL (R153). -/
def aluMul (a v : Word) : AluOut := { r := a * v, v := (clampS (a.toInt * v.toInt)).2 }

/-- MULH (R153). -/
def aluMulh (u : Bool) (a v : Word) : AluOut :=
  if u then { r := BitVec.ofNat 64 (a.toNat * v.toNat / 2 ^ 64) }
  else { r := BitVec.ofInt 64 ((a.toInt * v.toInt).fdiv (2 ^ 64)) }

/-- Signed overflow of a division: -2^63 ÷ -1 (R153). -/
def divOverflow (a v : Word) : Bool := a == BitVec.ofNat 64 (2 ^ 63) && v == BitVec.allOnes 64

/-- DIV (R153). -/
def aluDiv (u : Bool) (a v : Word) : AluOut :=
  if v = 0 then { r := BitVec.allOnes 64, v := true }
  else if u then { r := a.udiv v }
  else if divOverflow a v then { r := a, v := true }
  else { r := BitVec.ofInt 64 (a.toInt.tdiv v.toInt) }

/-- REM (R153). -/
def aluRem (u : Bool) (a v : Word) : AluOut :=
  if v = 0 then { r := a, v := true }
  else if u then { r := a.umod v }
  else if divOverflow a v then { r := 0, v := true }
  else { r := BitVec.ofInt 64 (a.toInt - a.toInt.tdiv v.toInt * v.toInt) }

/-- MIN and MAX (R153). -/
def aluMin (u : Bool) (a v : Word) : AluOut := { r := if (if u then v.ult a else v.slt a) then v else a }
def aluMax (u : Bool) (a v : Word) : AluOut := { r := if (if u then a.ult v else a.slt v) then v else a }

/-- The shift amount V mod 64 (R153). -/
def shiftAmt (v : Word) : Nat := v.toNat % 64

end Sys2Proof.Machine
end

