-- ==== Sys2Proof/Machine/Scratch.lean ====
section
/-!
DEFINITION. The scratchpad: regions, fill bits, the checks and accesses of R171 to R175, R183, R184, R208.
-/

namespace Sys2Proof.Machine

/-! ### Regions (R171, R172) -/

def Region.enabled (r : Region) : Bool := r.kind == 1 || r.kind == 2
def Region.shared (r : Region) : Bool := r.kind == 2
def Region.first (r : Region) : Nat := r.base.toNat
/-- The row after its last. -/
def Region.stop (r : Region) : Nat := r.base.toNat + r.rowsM1.toNat + 1
def Region.covers (r : Region) (row : Nat) : Bool := r.enabled && decide (r.first ≤ row) && decide (row < r.stop)

def Core.region (c : Core) (g : Nat) : Region := c.regions.getD g {}

/-- The lowest-numbered enabled region that contains a row (R171). -/
def Core.regionOf (c : Core) (row : Nat) : Option Region :=
  ((List.range 16).map c.region).find? fun r => r.covers row

/-- Rows of the scratchpad: the highest covered row rounded up to 256 (R172). -/
def Core.height (c : Core) : Nat :=
  ceilDiv (((List.range 16).map c.region).foldl (fun h r => if r.enabled then Nat.max h r.stop else h) 0) 256 * 256

/-- Lines of the L1 share (R172). -/
def Core.l1Lines (c : Core) : Nat := (2048 - c.height) / 256 * 512
/-- Lines that the L1 of core k holds; a supervisor core has no L1 (R370). -/
def l1Share (k : Nat) (c : Core) : Nat := if isSupervisor k then 0 else c.l1Lines

/-! ### Rows -/

/-- DESIGN CHOICE, log entry 4: the spec gives the scratchpad no contents after reset; every row reads as zero. -/
def Core.row (c : Core) (r : Nat) : Row := c.rows.getD r 0
def Core.setRow (c : Core) (r : Nat) (x : Row) : Core := { c with rows := c.rows.put r x }
def Core.fillOf (c : Core) (r : Nat) : RowSt := c.rowSt.getD r {}
def Core.setFill (c : Core) (r : Nat) (f : RowSt) : Core := { c with rowSt := c.rowSt.put r f }
/-- The row lies in a shared region. -/
def Core.isShared (c : Core) (r : Nat) : Bool := match c.regionOf r with
  | some g => g.shared
  | none => false

/-- The `n` bytes from offset `o`. -/
def Core.readPad (c : Core) (o n : Nat) : List Byte :=
  (List.range n).map fun k => byteOf (c.row ((o + k) / 128)) ((o + k) % 128)

/-- The value of `n` bytes at `o` that lie in one row. -/
def Core.padNat (c : Core) (o n : Nat) : Nat := (c.row (o / 128)).toNat / 2 ^ (8 * (o % 128)) % 2 ^ (8 * n)

/-- Replaces the bytes of one row from byte `k`. -/
def rowSetBytes (r : Row) (k : Nat) (bs : List Byte) : Row := setBits r (8 * k) (BitVec.ofNat (8 * bs.length) (natOfBytes bs))

/-- Writes bytes from offset `o` upward. -/
def Core.writePad (c : Core) (o : Nat) (bs : List Byte) : Core :=
  match bs with
  | [] => c
  | b :: bs => (c.setRow (o / 128) (rowSetBytes (c.row (o / 128)) (o % 128) [b])).writePad (o + 1) bs

/-- Outcome of a fill (R174). -/
inductive FillOut
  | ok (c : Core)
  | second (bound : BitVec 24)
  | full
  deriving DecidableEq, Repr

/-- A fill of a shared row by a thread address (R174 rules 1 to 3). -/
def Core.fill (c : Core) (r : Nat) (x : Row) (t : BitVec 24) : FillOut :=
  let f := c.fillOf r
  match f.bound with
  | some b => if b ≠ t then .second b else if f.full then .full else .ok ((c.setRow r x).setFill r { f with full := true })
  | none => if f.full then .full else .ok ((c.setRow r x).setFill r { full := true, bound := some t })

/-- Fault(0x1C) (R74, R174). (DEDUCED, log entry 32.) -/
def secondWriter (row : Nat) (bound t : BitVec 24) : FaultRec :=
  { code := 0x1C, info := [BitVec.ofNat 64 (row * 128), bound.setWidth 64, t.setWidth 64] }

/-! ### Wave regions (R208) -/

/-- The core belongs to the block. -/
def Stream.has (t : Stream) (k : Nat) : Bool :=
  decide (dieOfCore k = t.die) && decide (t.row0 ≤ rowOfCore k) && decide (rowOfCore k < t.row0 + t.h)
    && decide (t.col0 ≤ colOfCore k) && decide (colOfCore k < t.col0 + t.w) && !isSupervisor k

/-- The row of a core lies in the wave region of an active stream. -/
def inWaveRegion (s : State) (coreNo row : Nat) : Bool :=
  s.streams.any fun t => t.2.has coreNo && ((s.core coreNo).region t.2.region).covers row

/-! ### Checked accesses of the core path (R173, R208) -/

/-- The region that a context reaches a row through: the wave region of its stream, or by the table (R171, R208). -/
def padRegion (s : State) (c : Ctx) (row : Nat) : Option Region :=
  let core := s.core c.coreNo
  match c.wave with
  | some w =>
    let r := core.region (s.streams.getD w.stream {}).region
    if r.covers row then some r else none
  | none => core.regionOf row

/-- The checks of R173 on `n` bytes at offset `o`, an integer, aligned to `al`; the region. A fault names the low 64 bits
of the offset (DEDUCED, log entry 71). -/
def checkPad (o n al : Nat) : M Region := do
  let s ← get
  let c := s.me
  let off : Word := BitVec.ofNat 64 o
  if o % al ≠ 0 then fault 0x19 [off, BitVec.ofNat 64 al]
  match padRegion s c (o / 128) with
  | none => fault 0x1A [off, BitVec.ofNat 64 n]
  | some r =>
    if !r.covers ((o + (n - 1)) / 128) then fault 0x1A [off, BitVec.ofNat 64 n]
    else if c.wave.isNone && !r.shared && r.cxid != c.cxid then fault 0x11 [off, r.cxid.setWidth 64]
    else pure r

/-- The rows of a run. -/
def rowsOf (o n : Nat) : List Nat := (List.range ((o + (n - 1)) / 128 - o / 128 + 1)).map fun k => o / 128 + k

/-- Parks an access from path `p` under a mark of another path, or in an active wave region (R36, R208). -/
def padFreePath (p o n : Nat) (write : Bool) : M Unit := do
  let s ← get
  let k := s.me.coreNo
  (rowsOf o n).forM fun r => do
    parkUnless (!markBlocks s (.row k r) p write)
    if s.me.wave.isNone then parkUnless (!inWaveRegion s k r)

/-- The same for the core path. -/
def padFree (o n : Nat) (write : Bool) : M Unit := padFreePath 0 o n write

/-- Park(row filled) for every shared row of a run that is read (R174 rule 5); a row with an uncorrectable error faults
with 0x40, which names the core (R73, R222). (DESIGN CHOICE, log entry 111.) -/
def padFilled (g : Region) (o n : Nat) : M Unit := do
  let s ← get
  let core := s.core s.me.coreNo
  if g.shared then (rowsOf o n).forM fun r => parkUnless (core.fillOf r).full
  if (rowsOf o n).any core.badRows.contains then fault 0x40 [(coreAddr s.chip s.me.coreNo).setWidth 64]

/-- A scratchpad row operand is checked with n = 128 (R183). -/
def checkRow (o : Word) : M Region := checkPad o.toNat 128 128

/-- Park(row empty) for the fill of a shared row by this context; 0x1C for another writer (R174). -/
def rowFillable (g : Region) (r : Nat) : M Unit := do
  if g.shared then
    let s ← get
    let c := s.me
    match (s.core c.coreNo).fill r 0 c.thread with
    | .ok _ => pure ()
    | .second b => raise (secondWriter r b c.thread)
    | .full => throw .park

/-- Writes a whole row that has passed its checks: a fill when the region is shared. -/
def putRow (g : Region) (r : Nat) (x : Row) : M Unit := do
  let c ← me
  if g.shared then
    modify fun s => match (s.core c.coreNo).fill r x c.thread with
      | .ok k => s.setCore c.coreNo k
      | _ => s
  else modCore c.coreNo fun k => k.setRow r x

def padRow (r : Nat) : M Row := do
  let s ← get
  return (s.core s.me.coreNo).row r

end Sys2Proof.Machine
end

