-- ==== Sys2Proof/Machine/Control.lean ====
section
/-!
DEFINITION. Class 1: branches, calls, hardware loops, spacing, control registers, reservations, TRAP, RTE, FENCE.X
(R39 to R41, R45 to R48, R55, R56, R65, R68, R155 to R166).
-/

namespace Sys2Proof.Machine

/-! ### Branches (R56, R60, R155 to R157) -/

/-- The branch-form target: (line address + 64·d) OR slot (R60). -/
def branchTarget (pc : Pc) (t : Tgt) : Pc := ((bits pc 6 50 + t.disp.signExtend 50) ++ (0 : BitVec 3) ++ t.slot)

/-- Checks a branch target by R56: 0x03, 0x10 with kind fetch, or a park on the translation. -/
def checkBranch (tgt : Pc) : M Unit := do
  if !pcShape tgt then fault 0x03 [tgt.setWidth 64] tgt
  let t ← translate .fetch tgt
  if tgtBit (← codeLine t tgt) (bits tgt 0 3).toNat then pure () else fault 0x03 [tgt.setWidth 64] tgt

/-- A taken transfer of control; its target is an entry to its line (R54). -/
def jumpTo (tgt : Pc) : M Unit := modMe fun c => { c with pc := tgt, xfer := true, entry := true }

def mBr (t : Tgt) : M Unit := do
  let tgt := branchTarget (← me).pc t
  checkBranch tgt
  jumpTo tgt

def mBrc (cc : BCond) (t : Tgt) : M Unit := do
  if (← rdFlags).holds cc then
    let tgt := branchTarget (← me).pc t
    checkBranch tgt
    jumpTo tgt

/-- DEDUCED, log entry 21: JMP, RET and an indirect CALL use sA[55:0]; the upper byte is ignored. -/
def mJmp (a : Spec) : M Unit := do
  checkRegs (.jmp a)
  let tgt : Pc := (← rdS a).setWidth 56
  checkBranch tgt
  jumpTo tgt

/-- Kills the registers of M(x) \ M(y), but for empty-reserved and write-protected ones (R48, R157). -/
def Ctx.killMask (c : Ctx) (x y : BitVec 48) : Ctx :=
  let dead (i : Nat) : Bool := bitAt x i && !bitAt y i
  let kill {w : Nat} (r : Reg w) : Reg w := match r.st with
    | .full => { r with st := .dead }
    | _ => r
  { c with
    s := Vector.ofFn fun i => if i.val ≠ 0 ∧ dead i.val then kill (c.s.get i) else c.s.get i
    v := Vector.ofFn fun i => if dead (32 + i.val) then kill (c.v.get i) else c.v.get i }

/-- DEDUCED, log entry 21: JMP, RET and an indirect CALL use sA[55:0]; the upper byte is ignored. -/
def mCall (k : CallKind) (d : BitVec 5) : M Unit := do
  checkRegs (.call k d)
  let c ← me
  let tgt ← match k with
    | .direct t => pure (branchTarget c.pc t)
    | .indirect a => do pure ((← rdS a).setWidth 56)
  checkBranch tgt
  modMe fun c => (c.killMask c.ctl.cvmt c.ctl.cvma).putS d (c.npc.setWidth 64)
  jumpTo tgt

/-- DEDUCED, log entry 21: JMP, RET and an indirect CALL use sA[55:0]; the upper byte is ignored. -/
def mRet (a : Spec) : M Unit := do
  checkRegs (.ret a)
  let tgt : Pc := (← rdS a).setWidth 56
  if !pcShape tgt then fault 0x03 [tgt.setWidth 64] tgt
  modMe fun c => c.killMask c.ctl.cvmt c.ctl.cvmr
  jumpTo tgt

/-! ### Loops (R68, R158) -/

def Ctx.setLoop (c : Ctx) (l1 : Bool) (l : LoopLv) : Ctx := if l1 then { c with loop1 := l } else { c with loop0 := l }
def Ctx.getLoop (c : Ctx) (l1 : Bool) : LoopLv := if l1 then c.loop1 else c.loop0

def mLoop (l1 : Bool) (a : Spec) (t : Tgt) : M Unit := do
  checkRegs (.loop l1 a t)
  let n ← rdS a
  let c ← me
  let stop := branchTarget c.pc t
  if n = 0 then
    let go := afterUnit (← get) stop
    modMe fun c => (c.setLoop l1 { c.getLoop l1 with active := false }).goTo go
  else
    modMe fun c => c.setLoop l1 { count := n, start := c.npc, stop, active := true, queue := none }

def mLoopq (l1 : Bool) (q : BitVec 2) (t : Tgt) : M Unit :=
  modMe fun c =>
    { c.setLoop l1 { count := 0, start := c.npc, stop := branchTarget c.pc t, active := true, queue := some q } with
      flags := { c.flags with e := false } }

/-! ### ALIGN and SLEEP (R161, R164) -/

/-- Smallest line count of the siblings of a context; none without one (R161). -/
def siblingCount (s : State) (k : Nat) : Option Nat :=
  let c := s.ctx k
  (s.ctxs.filterMap fun p =>
    let d := p.2
    let resident : Bool := match d.place with
      | .slot _ _ => true
      | _ => false
    if p.1 ≠ k ∧ d.live = true ∧ resident = true ∧ d.group = c.group ∧ d.group.isSome
        ∧ clusterOf d.coreNo = clusterOf c.coreNo ∧ d.alignPc = some c.pc
    then some d.lineCount else none).min?

/-- The park condition of ALIGN n fails. -/
def alignFree (s : State) (k n : Nat) : Bool :=
  match siblingCount s k with
  | none => true
  | some m => decide ((s.ctx k).lineCount ≤ m + n)

def mAlign (n : BitVec 8) : M Unit := do
  stage 0 do
    let s ← get
    modMe fun c => { c with alignPc := some c.pc, expired := false, until_ := some (s.cycle + 256 * 16) }
    if !alignFree (← get) s.cur n.toNat then addTimer (s.cycle + 256 * 16) (.alignTimeout s.cur)
  let s ← get
  let c := s.me
  if c.expired || alignFree s s.cur n.toNat then
    delTimer (.alignTimeout s.cur)
  else
    modMe fun c => { c with run := .sleeping }
    throw .park

/-- DEDUCED, log entry 70: after SLEEP 0 a context may still use positions lent to it before its next own position.
-/
def mSleep (n : BitVec 32) : M Unit := do
  if n = 0 then modMe fun c => { c with skipOwn := true }
  else
    stage 0 do
      let s ← get
      let c := s.me
      let t0 := (s.die (dieOfCore c.coreNo)).resetAt
      let at_ := t0 + (s.rotation c.coreNo + (if c.remain = 0 then n.toNat else c.remain)) * 16
      modMe fun c => { c with until_ := some at_, expired := false, remain := 0 }
      addTimer at_ (.sleepExpiry s.cur)
    let c ← me
    if !c.expired then
      modMe fun c => { c with run := .sleeping }
      throw .park

/-! ### FENCE.X (R39, R40) -/

/-- The paths a FENCE.X waits for: q in FROM, with a path other than q in TO (R40). -/
def fencePaths (to_ from_ : BitVec 5) : List Nat :=
  (List.range 5).filter fun q => bitAt from_ q && (to_ &&& ~~~(BitVec.twoPow 5 q)) != 0

def mFenceX (to_ from_ : BitVec 5) : M Unit := do
  let w := fencePaths to_ from_
  let s ← get
  parkUnless (!s.marks.any fun m => m.cx == s.cur && w.contains m.path)
  modMe fun c =>
    { c with unf := w.foldl (fun u q => setBit u q false) c.unf, env := c.env.filter fun e => !w.contains e.1 }

/-! ### Control registers (R65, R162, R371) -/

/-- Access codes of R5. -/
inductive Access
  | rw | ro | rwp | rop
  deriving DecidableEq, Repr

def CReg.access : CReg → Access
  | .pc | .prov | .stq | .wstep | .orient | .loadr => .ro
  | .qcap | .region _ | .alarm | .lqbase | .lqasid | .sptb | .astb | .tlim | .fbctl | .crtb
  | .lse _ | .lss _ | .lsp _ | .lsg => .rwp
  | .errid | .mbxcnt | .avc _ | .ava _ | .avs _ | .avd _ | .dtemp | .llmon => .rop
  | _ => .rw

/-- The privilege check of R71, before any register is read. (DEDUCED, log entry 63.) -/
def needPriv (r : CReg) : M Unit := do
  let c ← me
  if (CReg.access r == .rwp || CReg.access r == .rop) && !c.priv then fault 0x07 [r.code.setWidth 64]

/-- The privilege check of OPC 0xF0 to 0xF9 (R71). -/
def needPrivOp (opc : BitVec 8) : M Unit := do
  if !(← me).priv then fault 0x07 [opc.setWidth 64]

/-- Number of the link of a status register: east 0-7, south 8-15, peer 16-17, Gweblink 18 of a die. -/
def CReg.linkIx : CReg → Nat
  | .lse k => k.toNat
  | .lss k => 8 + k.toNat
  | .lsp p => 16 + p.toNat
  | _ => 18

/-- The word of a link status register (R365). -/
def Link.word (l : Link) : Word :=
  l.crce ++ (0 : BitVec 16) ++ l.lrtc ++ (0 : BitVec 8) ++ l.lst ++ (0 : BitVec 2) ++ bit1 l.rev
    ++ bit1 (l.lst == 2 || l.lst == 3)

def Region.word (r : Region) : Word :=
  r.cxid ++ r.kind ++ (0 : BitVec 14) ++ r.rowsM1 ++ (0 : BitVec 4) ++ r.base

/-- Resident and queued contexts of a core, saturated to a byte of LOADR (R65). -/
def coreLoad (s : State) (k : Nat) : Nat := (s.core k).slots.length + (s.core k).arrivals.length

/-- A stream is active on a core. -/
def streamActive (s : State) (coreNo : Nat) : Bool := s.streams.any fun t => t.2.has coreNo

/-- The value MFC reads (R65, R360, R371). (DESIGN CHOICE, log entry 6.) -/
def cregRead (s : State) (r : CReg) : Word :=
  let c := s.me
  let k := c.coreNo
  let d := s.die (dieOfCore k)
  let z {n : Nat} (x : BitVec n) : Word := x.setWidth 64
  match r with
  | .flags => c.seen.flags.word
  | .pc => z c.pc
  | .thnd => z c.ctl.thnd
  | .tcause => z c.ctl.tcause
  | .tpc => z c.ctl.tpc
  | .taddr => z c.ctl.taddr
  | .tinfo => c.ctl.tinfo
  | .cvmt => z c.ctl.cvmt
  | .cvma => z c.ctl.cvma
  | .cvmr => z c.ctl.cvmr
  | .lc0 => c.loop0.count
  | .lc1 => c.loop1.count
  | .waitlim => z c.ctl.waitlim
  | .srk => c.ctl.srk
  | .prov => c.ctl.prov
  | .stq => c.ctl.stq
  | .wstep => match c.wave with
    | some w => z (BitVec.ofNat 32 w.done - 1)
    | none => (s.core k).wstepB ++ (s.core k).wstepA
  | .orient => BitVec.ofNat 64 (dieOfCore k * 5)
  | .loadr =>
    let b (q : Nat) : BitVec 8 := BitVec.ofNat 8 (coreLoad s (coreOfCluster (clusterOf k) q))
    z (b 3 ++ b 2 ++ b 1 ++ b 0)
  | .qcap => z (s.core k).qcap
  | .region g => ((s.core k).region g.toNat).word
  | .errid => 0x00A10007
  | .mbxcnt =>
    z (BitVec.ofNat 16 (Nat.min d.heldRecs.length 0xFFFF) ++ (0 : BitVec 7) ++ BitVec.ofNat 9 d.mailbox.length)
  | .avc i => bits d.avc (64 * i.toNat) 64
  | .ava i => bits d.ava (64 * i.toNat) 64
  | .avs i => bits d.avs (64 * i.toNat) 64
  | .avd i => bits d.avd (64 * i.toNat) 64
  | .alarm => d.alarm
  | .lqbase => z d.lqbase
  | .lqasid => z d.lqasid
  | .sptb => d.sptb
  | .astb => d.astb
  | .dtemp => z (bit1 d.thr ++ d.dtemp)
  | .tlim => z d.tlim
  | .fbctl => z (d.balth ++ (0 : BitVec 6) ++ bit1 d.holdtr ++ bit1 d.bulken)
  | .llmon => z (d.llLink ++ (0 : BitVec 15) ++ bit1 d.llActive ++ d.llImb)
  | .lsg => if dieOfCore k % 2 = 0 then (d.links.getD 18 {}).word else 0
  | .lse _ | .lss _ | .lsp _ => (d.links.getD (CReg.linkIx r) {}).word
  | .crtb => d.crtb

def mMfc (d : Spec) (r : CReg) : M Unit := do
  needPriv r
  checkRegs (.mfc d r)
  let s ← get
  if r = .wstep && s.me.wave.isNone then parkUnless (!streamActive s s.me.coreNo)
  if r = .stq || r = .loadr then modFlags fun f => { f with o := true }
  wrS d (cregRead s r)

/-- The bits of CRTB that hold a value: V and the table's address (R6, R368). -/
def crtbMask : Word := 0x000FFFFFFFFFFF01

/-- The values MTC writes to the registers that have no row of their own (R65, R371). A write to an RO or ROP register
changes nothing (DESIGN CHOICE, log entry 76). -/
def cregWrite (r : CReg) (x : Word) : M Unit := do
  let k ← myCore
  let ctl (f : Ctl → Ctl) : M Unit := modMe fun c => { c with ctl := f c.ctl }
  let die (f : Die → Die) : M Unit := modDie (dieOfCore k) f
  let mask : BitVec 48 := x.setWidth 48 &&& ~~~1
  match r with
  | .thnd => ctl fun c => { c with thnd := x.setWidth 56 }
  | .tcause => ctl fun c => { c with tcause := x.setWidth 8 }
  | .tpc => ctl fun c => { c with tpc := x.setWidth 56 }
  | .taddr => ctl fun c => { c with taddr := x.setWidth 56 }
  | .tinfo => ctl fun c => { c with tinfo := x }
  | .cvmt => ctl fun c => { c with cvmt := mask }
  | .cvma => ctl fun c => { c with cvma := mask }
  | .cvmr => ctl fun c => { c with cvmr := mask }
  | .waitlim => ctl fun c => { c with waitlim := x.setWidth 32 }
  | .srk => ctl fun c => { c with srk := x }
  | .qcap => modCore k fun c => { c with qcap := if 48 < (bits x 0 6).toNat then 48 else bits x 0 6 }
  | .lqbase => die fun d => { d with lqbase := x.setWidth 56 &&& ~~~0xFF }
  | .lqasid => die fun d => { d with lqasid := x.setWidth 16 }
  | .sptb => die fun d => { d with sptb := (x.setWidth 52).setWidth 64 }
  | .astb => die fun d => { d with astb := (x.setWidth 52).setWidth 64 }
  | .tlim =>
    die fun d => { d with tlim := x.setWidth 16 }
    -- THR follows the new limit (R381)
    let k := dieOfCore (← myCore)
    addPending (.thermalThrottle k ((← get).die k).dtemp.toNat)
  | .crtb => die fun d => { d with crtb := x &&& crtbMask }
  | _ => pure ()

def mMtc (r : CReg) (a : Spec) : M Unit := do
  needPriv r
  checkRegs (.mtc r a)
  cregWrite r (← rdS a)
  -- the launch engine looks at its queue (R327)
  if r = .lqbase || r = .lqasid then addPending (.launchRecordTake (dieOfCore (← myCore)))

def mFlagsWrite (a : Spec) : M Unit := do
  checkRegs (.flagsWrite a)
  let x ← rdS a
  modFlags fun f => f.write x

def mLoopCounterWrite (l1 : Bool) (a : Spec) : M Unit := do
  checkRegs (.loopCounterWrite l1 a)
  let x ← rdS a
  modMe fun c =>
    let l := c.getLoop l1
    c.setLoop l1 { l with count := x, active := if x = 0 then false else l.active }

/-- The dirty ones of some L1 lines of a core are written back (R169 rule 4, R172). (DESIGN CHOICE, log entry 16.) -/
def writeBackLines (core : Nat) (ls : List L1Line) (s : State) : State :=
  ls.foldl (fun s l => if l.dirty then putBack core l.pa l.data s else s) s

/-- The region table after a write of register g: fill bits and rows that leave the L1 (R172).
(DESIGN CHOICE, log entry 16.) -/
def regionPut (coreNo g : Nat) (r : Region) (s : State) : State :=
  let c := s.core coreNo
  let old := c.region g
  let c1 := { c with regions := c.regions.put g r }
  let reset := if r.shared then (List.range (r.stop - r.first)).filterMap fun i =>
      let row := r.first + i
      if old.shared && old.covers row then none else some row
    else []
  let c2 := { c1 with rowSt := c1.rowSt.filter fun p => !reset.contains p.1 }
  let h := Nat.min c.height c2.height
  let c3 := { c2 with rows := c2.rows.filter fun p => decide (p.1 < h) }
  let cap := l1Share coreNo c3
  let s1 := writeBackLines coreNo (c3.l1.drop cap) s
  s1.setCore coreNo { c3 with l1 := c3.l1.take cap }

def mRegionWrite (g : BitVec 4) (a : Spec) : M Unit := do
  needPriv (.region g)
  checkRegs (.regionWrite g a)
  let x ← rdS a
  let r : Region := { cxid := bits x 44 20, kind := bits x 42 2, rowsM1 := bits x 16 12, base := bits x 0 12 }
  if r.kind == 3 || decide (2047 < r.base.toNat + r.rowsM1.toNat) then pure ()
  else
    let k ← myCore
    modify (regionPut k g.toNat r)

def mLinkStatusClear (r : CReg) (a : Spec) : M Unit := do
  needPriv r
  checkRegs (.linkStatusClear r a)
  let _ ← rdS a
  let d := dieOfCore (← myCore)
  modDie d fun d =>
    let l := d.links.getD (CReg.linkIx r) {}
    { d with links := d.links.put (CReg.linkIx r) { l with crce := 0, lrtc := 0 } }

/-- MTC to ALARM: a 1 clears a SRC bit; POL 3 is written as 2 (R378). -/
def alarmPut (old x : Word) : Word :=
  let src := bits old 8 5 &&& ~~~(bits x 8 5)
  let pol : BitVec 2 := if bits x 0 2 == 3 then 2 else bits x 0 2
  (src ++ (0 : BitVec 6) ++ pol).setWidth 64

def mAlarmWrite (a : Spec) : M Unit := do
  needPriv .alarm
  checkRegs (.alarmWrite a)
  let x ← rdS a
  modDie (dieOfCore (← myCore)) fun d => { d with alarm := alarmPut d.alarm x }

/-- MTC to FBCTL (R360): BALTH, HOLDTR, BULKEN; setting HOLDTR begins the drain of R366. -/
def mHoldtr (a : Spec) : M Unit := do
  needPriv .fbctl
  checkRegs (.holdtr a)
  let x ← rdS a
  let d := dieOfCore (← myCore)
  let was := ((← get).die d).holdtr
  modDie d fun d =>
    { d with balth := bits x 8 8, holdtr := bitAt x 1, bulken := bitAt x 0, drained := d.drained && bitAt x 1 }
  if bitAt x 1 && !was then addPending (.transitDrainEnd d)

/-! ### Reservations and deposits (R45 to R48, R63, R163) -/

/-- The record of a refused deposit, charged to the DEP itself, which does not stop its sender (R47).
(DEDUCED, log entry 27.) -/
def refuseDeposit (receiver : Nat) (sender : BitVec 20) (reg : Spec) (pc : Pc) (thread : BitVec 24) (unit_ : BitVec 4) : M Unit := do
  let f : FaultRec := { code := 0x08, info := [BitVec.ofNat 64 receiver, reg.code.setWidth 64], pc := some pc, src := unit_ }
  let r := recordOf sender thread pc f
  let die := (bits thread 14 2).toNat
  let s ← get
  if bits thread 16 8 = s.chip then modify (postRecord die r)
  else
    -- the mailbox of a die of another chip
    let far := threadAddr (bits thread 16 8) (die * 1024 + 1023) 0
    let core := s.me.coreNo
    let _ ← sendPacket
      { kind := .control, cx := nobody, thread := threadAddr s.chip core 0, dst := 8192 + (bits thread 16 8).toNat, far
        data := bytesOf 64 r } (clusterOf core)

/-- A deposit leaves the buffer or the spill area of its core (R46). -/
def Core.dropDeposit (c : Core) (d : Deposit) : Core :=
  { c with
    deposits := c.deposits.filter fun q => q != d
    spillMap := c.spillMap.filter fun p => p.key != d.cx || p.kind != .deposit d.source d.ord }

/-- The deposited value enters its register: full and write-protected (R48). -/
def Ctx.deposit (c : Ctx) (r : Spec) (x : BitVec 2048) (k : TokKind) (f : Option FaultRec) : Ctx :=
  let c := match r with
    | .s n => c.putS n (x.setWidth 64)
    | .v n => c.putV n (x.setWidth 1024)
    | .b n => c.putB n x
    | _ => c
  c.setRegSt r (.prot k f)

/-- chip:cxid of a context, as sA[27:0] names it. -/
def Ctx.name (c : Ctx) : Nat := c.chip.toNat * 2 ^ 20 + c.cxid.toNat

/-- The count of the RSVs that name a source goes on when the source's CXID is given to a new context (DEDUCED,
log entry 77). -/
def mRsv (d a : Spec) : M Unit := do
  checkRegs (.rsv d a)
  checkWrite d
  let x ← rdS a
  if bits x 28 36 ≠ 0 then fault 0x08 [x, d.code.setWidth 64]
  let s ← get
  let c := s.me
  let src := x.toNat
  let ord := c.rsvNext.getD src 0
  modMe fun c => { c with rsvNext := c.rsvNext.put src (ord + 1) }
  match (s.core c.coreNo).deposits.find? fun p => p.cx == s.cur && p.source == src && p.ord == ord with
  | some p =>
    modCore c.coreNo fun k => k.dropDeposit p
    if p.reg = d then modMe fun c => c.deposit d p.val (.dep (bits x 20 8) (bits x 0 20)) none
    else
      modMe fun c => c.setRegSt d .broken
      refuseDeposit c.name p.sender p.reg p.pc p.thread 0
  | none =>
    modMe fun c =>
      { c.setRegSt d (.reserved (.dep (bits x 20 8) (bits x 0 20)) ord) with rsvOpen := c.rsvOpen ++ [(src, ord, d)] }

def mDead (m : DeadMask) : M Unit := do
  (DeadMask.regs m).forM checkWrite
  (DeadMask.regs m).forM fun r => modMe fun c => c.setRegSt r .dead

/-! ### TRAP and RTE (R165, R166) -/

def mTrap (a : Spec) (n : BitVec 16) : M Unit := do
  checkRegs (.trap a n)
  let x ← rdS a
  fault 0x07 [0x2C, n.setWidth 64, x]

def mRte : M Unit := returnFromException

/-! ### The meanings -/

def execBr (t : Tgt) (s : State) := runI (mBr t) (.br t) s
def execBrc (cc : BCond) (t : Tgt) (s : State) := runI (mBrc cc t) (.brc cc t) s
def execJmp (a : Spec) (s : State) := runI (mJmp a) (.jmp a) s
def execCall (k : CallKind) (d : BitVec 5) (s : State) := runI (mCall k d) (.call k d) s
def execRet (a : Spec) (s : State) := runI (mRet a) (.ret a) s
def execLoop (l1 : Bool) (a : Spec) (t : Tgt) (s : State) := runI (mLoop l1 a t) (.loop l1 a t) s
def execLoopq (l1 : Bool) (q : BitVec 2) (t : Tgt) (s : State) := runI (mLoopq l1 q t) (.loopq l1 q t) s
def execAlign (n : BitVec 8) (s : State) := runI (mAlign n) (.align n) s
def execMfc (d : Spec) (r : CReg) (s : State) := runI (mMfc d r) (.mfc d r) s
def execMtc (r : CReg) (a : Spec) (s : State) := runI (mMtc r a) (.mtc r a) s
def execFlagsWrite (a : Spec) (s : State) := runI (mFlagsWrite a) (.flagsWrite a) s
def execLoopCounterWrite (l1 : Bool) (a : Spec) (s : State) :=
  runI (mLoopCounterWrite l1 a) (.loopCounterWrite l1 a) s
def execRegionWrite (g : BitVec 4) (a : Spec) (s : State) := runI (mRegionWrite g a) (.regionWrite g a) s
def execLinkStatusClear (r : CReg) (a : Spec) (s : State) := runI (mLinkStatusClear r a) (.linkStatusClear r a) s
def execAlarmWrite (a : Spec) (s : State) := runI (mAlarmWrite a) (.alarmWrite a) s
def execHoldtr (a : Spec) (s : State) := runI (mHoldtr a) (.holdtr a) s
def execRsv (d a : Spec) (s : State) := runI (mRsv d a) (.rsv d a) s
def execDead (m : DeadMask) (s : State) := runI (mDead m) (.dead m) s
def execTrap (a : Spec) (n : BitVec 16) (s : State) := runI (mTrap a n) (.trap a n) s
def execRte (s : State) := runI mRte .rte s
def execSleep (n : BitVec 32) (s : State) := runI (mSleep n) (.sleep n) s
def execFenceX (to_ from_ : BitVec 5) (s : State) := runI (mFenceX to_ from_) (.fenceX to_ from_) s

/-! ### Timers of this family (R161, R164) -/

/-- The wait of a context in an instruction ends, when its time has come. -/
def expireIn (cx : Nat) (p : Instr → Bool) : M Unit :=
  modify fun s => s.modCtx cx fun c =>
    let now := match c.instr, c.until_ with
      | some i, some t => p i && decide (t ≤ s.cycle)
      | _, _ => false
    if now then { c with expired := true } else c

def Instr.isSleep : Instr → Bool
  | .sleep _ => true
  | _ => false
def Instr.isAlign : Instr → Bool
  | .align _ => true
  | _ => false

def mSleepExpiry (cx : Nat) : M Unit := expireIn cx Instr.isSleep
def mAlignTimeout (cx : Nat) : M Unit := expireIn cx Instr.isAlign

def execSleepExpiry (cx : Nat) (s : State) := runE (mSleepExpiry cx) s
def execAlignTimeout (cx : Nat) (s : State) := runE (mAlignTimeout cx) s

end Sys2Proof.Machine
end

