-- ==== Sys2Proof/Machine/Convert.lean ====
section
/-!
DEFINITION. The load path and the store path between page elements and lanes, and the wire formats (R88, R92 to R95,
R103 to R106, R180).
-/

namespace Sys2Proof

/-- Element e of a lane (R180). -/
def laneElem (t : LaneT) (x : BitVec 32) (e : Nat) : Nat := x.toNat / 2 ^ (t.w * e) % 2 ^ t.w
/-- A lane from its elements. -/
def laneOf (t : LaneT) (f : Nat → Nat) : BitVec 32 :=
  BitVec.ofNat 32 ((List.range t.elems).foldr (fun e a => a * 2 ^ t.w + f e % 2 ^ t.w) 0)

/-- The lane type and the format hold the same kind of element, so that a conversion is a bit copy (R103, R104). -/
def sameFormat (t : LaneT) (f : Fmt) : Bool :=
  match t, f with
  | .i32, .int32 | .u32, .int32 | .f32, .fp32 | .i16x2, .int16 | .bf16x2, .bf16 | .i8x4, .int8 => true
  | _, _ => false

/-- Bits of one element in memory: packed weights take 4 or 3 bits (R92). -/
def elemBits (f : Fmt) (ew : Nat) : Nat :=
  match f with
  | .int4g => 4
  | .int3g => 3
  | _ => ew

/-- The integer of a packed weight (R92). -/
def weightInt (f : Fmt) (code : Nat) : Int :=
  match f with
  | .int4g => (BitVec.ofNat 4 code).toInt
  | _ => (BitVec.ofNat 3 code).toInt

/-- The cells X of R104: every value of the format is a value of the lane type. Neither the mode nor SAT matters there; an
infinity stays one, and a product of R94 beyond the FP32 range becomes one. -/
def exactCell (t : LaneT) (f : Fmt) : Bool :=
  match f with
  | .int8 => true
  | .int16 => t == .i32 || t == .u32 || t == .f32 || t == .i16x2
  | .int32 => t == .i32 || t == .u32
  | .fp32 | .fp16 | .int4g | .int3g => t == .f32
  | .bf16 | .e4m3n | .e5m2 => t == .f32 || t == .bf16x2
  | _ => false

/-- Rounds an exact value into a number format: by the instruction's mode and SAT, or exactly in a cell X (R104). -/
def roundCell (exact : Bool) (n : NumF) (rm : RMode) (sat : Bool) (i key : Word) (x : Val) : Nat :=
  if exact then n.round .rne false 0 0 x else n.round rm sat i key x

/-- The lane type whose elements a format holds, where there is one (R104). -/
def Fmt.lane? : Fmt → Option LaneT
  | .int32 => some .i32
  | .fp32 => some .f32
  | .int16 => some .i16x2
  | .bf16 => some .bf16x2
  | .int8 => some .i8x4
  | _ => none

/-- The load path for one element; `sc` is the BF16 scale of its group (R94, R104). None: refused with 0x01. -/
def loadElem (t : LaneT) (f : Fmt) (ew : Nat) (rm : RMode) (sat : Bool) (i key : Word) (sc : Nat) (code : Nat) :
    Option Nat :=
  match f with
  | .raw => if ew = t.w then some code else none
  | .int4g | .int3g =>
    if t == .f32 || t == .bf16x2 then
      some (roundCell (exactCell t f) t.num rm sat i key ((Val.ofInt (weightInt f code)).mul (FloatF.bf16.value sc)))
    else none
  | .bq16 => none
  | f =>
    if sameFormat t f then some code
    else (f.num? (t == .u32)).map fun n => roundCell (exactCell t f) t.num rm sat i key (n.value code)

/-- The store path for one element (R88, R105). None: refused with 0x01. (DEDUCED, log entry 11.) -/
def storeElem (t : LaneT) (f : Fmt) (ew : Nat) (rm : RMode) (sat : Bool) (i key : Word) (code : Nat) : Option Nat :=
  match f with
  | .raw => if ew = t.w then some code else none
  | .int4g | .int3g | .bq16 => none
  | f =>
    if sameFormat t f then some code
    else (f.num? (t == .u32)).map fun n => n.round rm sat i key (t.num.value code)

/-- Whether the load path accepts a format for a lane type (R104). -/
def loadOk (t : LaneT) (f : Fmt) (ew : Nat) : Bool := (loadElem t f ew .rne false 0 0 0 0).isSome
def storeOk (t : LaneT) (f : Fmt) (ew : Nat) : Bool := (storeElem t f ew .rne false 0 0 0).isSome

/-- An FMT to FMT conversion of copies: a bit copy for equal or raw formats of equal sizes, else Round with SAT (R87, R105,
R308). (DEDUCED, log entry 11.) -/
def convElem (src dst : Fmt) (sw dw : Nat) (rm : RMode) (sat : Bool) (i key : Word) (code : Nat) : Option Nat :=
  if src == dst || src == .raw || dst == .raw then if sw = dw then some code else none
  else do
    let a ← src.num? false
    let b ← dst.num? false
    return b.round rm sat i key (a.value code)

/-- The conversion of an element by XRDT: the cells of R104, in which a packed weight goes into no integer lane; `sc` is the
BF16 scale of its group (R93, R94, R104, R143). (DEDUCED, log entry 97.) -/
def xrdtElem (src dst : Fmt) (sw dw : Nat) (rm : RMode) (sat : Bool) (i key : Word) (sc code : Nat) : Option Nat :=
  if src == dst || src == .raw || dst == .raw then if sw = dw then some code else none
  else
    let exact := dst.lane?.any fun t => exactCell t src
    match src with
    | .int4g | .int3g =>
      if dst == .int8 || dst == .int16 || dst == .int32 then none
      else (dst.num? false).map fun b => roundCell exact b rm sat i key ((Val.ofInt (weightInt src code)).mul (FloatF.bf16.value sc))
    | src => do
      let a ← src.num? false
      let b ← dst.num? false
      return roundCell exact b rm sat i key (a.value code)

/-! ### Wire formats (R106, R295) -/

/-- Width of the local elements behind a wire format: the whole payload for raw. -/
def Fmt.localW : Fmt → Nat
  | .raw => 0
  | .int64 => 64
  | _ => 32

/-- Bits of an element on the link (R295). -/
def Fmt.linkW : Fmt → Nat
  | .int8 | .e4m3n | .e5m2 => 8
  | .int16 | .bf16 | .fp16 => 16
  | .int64 => 64
  | _ => 32

/-- Narrow(x) of one local element: its code on the link (R106, R295). FP32 on both sides is a bit copy
(DEDUCED, log entry 11). -/
def narrowElem (f : Fmt) (rm : RMode) (sat : Bool) (i key : Word) (code : Nat) : Nat :=
  match f with
  | .int8 | .int16 | .int32 => intCode f.linkW (clampInt f.linkW true (BitVec.ofNat 32 code).toInt)
  | .bf16 | .fp16 | .e4m3n | .e5m2 =>
    match f.num? false with
    | some n => n.round rm sat i key (FloatF.fp32.value code)
    | none => code
  | _ => code

/-- Widen(x) of one code on the link (R106). -/
def widenElem (f : Fmt) (code : Nat) : Nat :=
  match f with
  | .int8 | .int16 | .int32 => intCode 32 (BitVec.ofNat f.linkW code).toInt
  | .bf16 | .fp16 | .e4m3n | .e5m2 =>
    match f.num? false with
    | some n => FloatF.fp32.round .rne false 0 0 (n.value code)
    | none => code
  | _ => code

/-- The payload bytes of `w` bits in a wire format (R106, R295). -/
def narrowPayload {w : Nat} (q : Wire) (base key : Word) (x : BitVec w) : List Byte :=
  let lw := q.fmt.localW
  if lw = 0 then bytesOf (w / 8) x
  else (List.range (w / lw)).flatMap fun e =>
    let c := narrowElem q.fmt q.rm q.sat (base + BitVec.ofNat 64 e) key (x.toNat / 2 ^ (lw * e) % 2 ^ lw)
    bytesOf (q.fmt.linkW / 8) (BitVec.ofNat 64 c)

/-- The `w` bits that the receiver's widening makes of a payload (R106, R295). -/
def widenPayload (q : Wire) (w : Nat) (bs : List Byte) : BitVec w :=
  let lw := q.fmt.localW
  if lw = 0 then ofBytes w bs
  else
    let z := q.fmt.linkW / 8
    BitVec.ofNat w ((List.range (w / lw)).foldr
      (fun e a => a * 2 ^ lw + widenElem q.fmt (natOfBytes ((bs.drop (z * e)).take z)) % 2 ^ lw) 0)

end Sys2Proof
end

