-- ==== Sys2Proof/Machine/LoadStore.lean ====
section
/-!
DEFINITION. Class 2, core path: LD, ST, LDV, STV, SPLD, SPST, DRAIN, and the L1 with its requests and responses
(R134, R135, R167 to R170, R172 to R175).
-/

namespace Sys2Proof.Machine

def Width.bytes : Width → Nat
  | .w8 => 1 | .w16 => 2 | .w32 => 4 | .w64 => 8

/-! ### Lines (R134, R169) -/

/-- The L1 holds the line for this context: its own private line, or a read-only one of its address space (R169). -/
def L1Line.hits (x : L1Line) (c : Ctx) (va : Pc) : Bool :=
  x.va == lineVa va && if x.own then x.cxid == c.cxid else x.asid == c.asid

/-- The page's lines may be cached in an L1: PRIV, or read-only PUBL, CONST and FROZENPAGE (R169). -/
def cacheable (e : Entry) : Bool := Leaf.jt e == .priv || (Leaf.frozen e && !Leaf.bounded e)

/-- Two copies of one line in one L1: private ones by context, read-only ones by address space. -/
def L1Line.same (x y : L1Line) : Bool :=
  x.va == y.va && x.own == y.own && if x.own then x.cxid == y.cxid else x.asid == y.asid

/-- Installs a line as the one most recently used; the lines beyond the share, least recently used, are evicted, dirty
ones written back (R169 rules 4 and 5). (DESIGN CHOICE, log entry 16.) -/
def installLine (coreNo : Nat) (x : L1Line) (s : State) : State :=
  let c := s.core coreNo
  let l1 := x :: c.l1.filter fun y => !y.same x
  let s1 := writeBackLines coreNo (l1.drop (l1Share coreNo c)) s
  s1.setCore coreNo { c with l1 := l1.take (l1Share coreNo c) }

/-- The line that an access of a context hits. -/
def l1Find (s : State) (c : Ctx) (va : Pc) : Option L1Line := (s.core c.coreNo).l1.find? fun x => x.hits c va

/-- A hit makes the line the one most recently used (R169 rule 5). -/
def touchL1 (c : Ctx) (va : Pc) (s : State) : State :=
  match l1Find s c va with
  | some x => s.modCore c.coreNo fun k => { k with l1 := x :: k.l1.filter fun y => !y.same x }
  | none => s

/-- A core-path access to a line parks under a mark of another path (R36). -/
def lineFree (pa : Nat) (write : Bool) : M Unit := do
  parkUnless (!markBlocks (← get) (.line (pa / 64 * 64)) 0 write)

/-- Collects a line for the instruction: from the L1 on a hit, or by a request to its home (R168, R169). -/
def collectLine (path : Nat) (p : Tlb × Pc) : M Unit := do
  let s ← get
  match l1Find s s.me p.2 with
  | some x =>
    modify (touchL1 s.me p.2)
    modMe fun c => { c with lineBuf := c.lineBuf.put (lineVa p.2).toNat x.data }
  | none => requestLine path p.1 p.2

/-- Park(data returned by L1, L2 or DRAM): asks for the lines and parks, on a hit as well (R150, R168); at the resumption
every line is in `lineBuf`. What comes before it in an instruction is done in phase 0. -/
def needLinesVia (path : Nat) (ls : List (Tlb × Pc)) : M Unit := do
  if (← phase) = 0 then
    setPhase 1
    ls.forM (collectLine path)
    throw .park
  else
    let _ ← waitAnswers

/-- Done before the instruction has parked for its data: no check is made again at the resumption (R8, R151). -/
def once (m : M Unit) : M Unit := do
  if (← phase) = 0 then m

/-- The bytes of the lines received. -/
def bytesAtHand (s : State) (va : Pc) (n : Nat) : List Byte :=
  (List.range n).map fun k =>
    let a := va + BitVec.ofNat 56 k
    match s.me.lineBuf.find (lineVa a).toNat with
    | some l => byteOf l (a.toNat % 64)
    | none => 0

/-- The lines of `n` bytes at va, each once. -/
def linesOf (va : Pc) (n : Nat) : List Pc :=
  (List.range ((va.toNat % 64 + n + 63) / 64)).map fun k => lineVa va + BitVec.ofNat 56 (64 * k)

/-! ### Loads (R168) -/

def mLd (w : Width) (sx : Bool) (d a : Spec) (x : BitVec 48) : M Unit := do
  checkRegs (.ld w sx d a x)
  let ea := effAddr (← rdS a) x
  let t ← translate .load ea
  once do
    needAlign ea (Width.bytes w)
    let _ ← applyPageRule .load t ea
    notMeta t ea
    lineFree (t.pa ea) false
  needLinesVia 0 [(t, ea)]
  let v : Word := BitVec.ofNat 64 (natOfBytes (bytesAtHand (← get) ea (Width.bytes w)))
  wrS d (if sx then sxLow (8 * Width.bytes w) v else v)

/-- Writes bytes into a line image from byte k. -/
def lineSetBytes (l : Line) (k : Nat) (bs : List Byte) : Line :=
  setBits l (8 * k) (BitVec.ofNat (8 * bs.length) (natOfBytes bs))

/-- The line of a list of byte writes: address and byte. -/
def patchLine (va : Pc) (ws : List (Pc × Byte)) (l : Line) : Line :=
  ws.foldl (fun l p => if lineVa p.1 = va then lineSetBytes l (p.1.toNat % 64) [p.2] else l) l

/-- The byte mask of a line's writes. -/
def patchMask (va : Pc) (ws : List (Pc × Byte)) : Word :=
  ws.foldl (fun m p => if lineVa p.1 = va then setBit m (p.1.toNat % 64) true else m) 0

/-- STQ := STQ − 1 at the end of a private store (R168). -/
def storeDone : M Unit := modMe fun c => { c with ctl := { c.ctl with stq := c.ctl.stq - 1 } }

/-- A write of a line's bytes at its home (R168). -/
def requestWrite (ws : List (Pc × Byte)) (p : Tlb × Pc) : M Unit := do
  let s ← get
  let c := s.me
  let op ← openOp .read false
  addWait op
  let _ ← sendPacket
    { kind := .lineReq, op, cx := s.cur, pc := c.pc, thread := c.thread, dst := homeDst s p.1 p.2
      far := homeThread p.1 p.2, va := lineVa p.2, pa := p.1.pa p.2 / 64 * 64, e := p.1.e, flag := true
      words := [patchMask (lineVa p.2) ws], data := bytesOf 64 (patchLine (lineVa p.2) ws 0) } (clusterOf c.coreNo)

/-- The line with its new bytes enters the L1, or the L2 when the share has become 0. -/
def putLine (ws : List (Pc × Byte)) (p : Tlb × Pc) (s : State) : State :=
  let c := s.me
  let va := lineVa p.2
  let pa := p.1.pa p.2 / 64 * 64
  let old := match l1Find s c va with
    | some x => x.data
    | none => c.lineBuf.getD va.toNat 0
  let new := patchLine va ws old
  if l1Share c.coreNo (s.core c.coreNo) = 0 then putBack c.coreNo pa new s
  else installLine c.coreNo { va, asid := c.asid, cxid := c.cxid, own := true, pa, dirty := true, data := new } s

/-- A private store of bytes: STQ counts it; the lines are fetched into the L1 and written there, or written at their
homes when the L1 share is 0; one Park, at which the context waits for either (R150, R168, R169, R172). -/
def storeBytes (ls : List (Tlb × Pc)) (ws : List (Pc × Byte)) : M Unit := do
  if (← phase) = 0 then
    ls.forM fun p => lineFree (p.1.pa p.2) true
    let s ← get
    let home := decide (l1Share s.me.coreNo (s.core s.me.coreNo) = 0)
    modMe fun c => { c with ctl := { c.ctl with stq := c.ctl.stq + 1 }, held := [(bit1 home).setWidth 64] }
    setPhase 1
    ls.forM (if home then requestWrite ws else collectLine 0)
    throw .park
  let _ ← tryCatch waitAnswers fun e => do
    match e with
    | .fault _ => storeDone
    | _ => pure ()
    throw e
  if (← me).held = [0] then ls.forM fun p => modify (putLine ws p)
  storeDone

def mSt (w : Width) (a b : Spec) (x : BitVec 48) : M Unit := do
  checkRegs (.st w a b x)
  let ea := effAddr (← rdS a) x
  let v ← rdS b
  let t ← translate .store ea
  once do
    needAlign ea (Width.bytes w)
    let _ ← applyPageRule .store t ea
    notMeta t ea
  storeBytes [(t, ea)] ((bytesOf (Width.bytes w) v).mapIdx fun k y => (ea + BitVec.ofNat 56 k, y))

/-! ### Vector loads and stores (R104, R105, R168) -/

/-- Translates every line of a range and applies R135 to it. -/
def rangeLines (k : AccKind) (a : PageAcc) (ls : List Pc) : M (List (Tlb × Pc)) :=
  ls.mapM fun l => do
    let t ← translate k l
    once do
      let _ ← applyPageRule a t l
      notMeta t l
    return (t, l)

/-- Removes repeats. -/
def nubPc (ls : List Pc) : List Pc := ls.foldl (fun a x => if a.contains x then a else a ++ [x]) []

/-- The lines that hold the elements of the masked lanes. -/
def laneLines (t : LaneT) (f : Fmt) (ew : Nat) (mask : BitVec 32) (ea : Pc) : List Pc :=
  let eb := elemBits f ew
  nubPc ((List.range 32).flatMap fun l =>
    if bitAt mask l then
      let b0 := eb * t.elems * l / 8
      let b1 := (eb * t.elems * (l + 1) - 1) / 8
      linesOf (ea + BitVec.ofNat 56 b0) (b1 - b0 + 1)
    else [])

/-- Element `n` of a run of bytes. -/
def elemAt (bs : List Byte) (eb n : Nat) : Nat := natOfBytes ((bs.drop (eb * n / 8)).take 9) / 2 ^ (eb * n % 8) % 2 ^ eb

/-- The format of an entry for a decode, or 0x01 with TADDR the address (R87). -/
def pageFormat (e : Entry) (ea : Pc) : M Fmt :=
  match Leaf.fmt? e with
  | some f => pure f
  | none => fault 0x01 [] ea

/-- A refused conversion: 0x18 for BQ16, else 0x01 (R95, R104, R105). -/
def refuseConv {α : Type} (f : Fmt) (ea : Pc) (load : Bool) : M α :=
  if f = .bq16 && load then fault 0x18 [ea.setWidth 64] ea else fault 0x01 [] ea

/-- The index in its page of the first weight that a load at an address reads (R92, R93); an address inside a weight counts
as the weight it lies in. (DESIGN CHOICE, log entry 104.) -/
def firstWeight (t : Tlb) (eb : Nat) (ea : Pc) : Nat := (ea.toNat - t.base.toNat) * 8 / eb

/-- The lanes of a vector load; `w0` is the index of the first weight in its page, and `scales` gives the scale of each
group of 32 weights of the page (DESIGN CHOICE, log entry 12). For SR, element n has index EA ÷ (EW/8) + n, packed weights
too (DESIGN CHOICE, log entry 79). -/
def loadLanes (o : LvOp) (f : Fmt) (ew : Nat) (key : Word) (ea : Pc) (mask : BitVec 32) (bs : List Byte)
    (w0 : Nat) (scales : Nat → Nat) : Row :=
  let eb := elemBits f ew
  Row.ofLanes fun l =>
    if bitAt mask l then
      laneOf o.t fun e =>
        let n := l * o.t.elems + e
        let idx : Word := BitVec.ofNat 64 (ea.toNat / (ew / 8) + n)
        (loadElem o.t f ew o.rm o.sat idx key (scales ((w0 + n) / 32)) (elemAt bs eb n)).getD 0
    else 0

/-- Free scales of a group-scaled load: the spec names no scale array for LDV and XRDV (DESIGN CHOICE, log entry 12). -/
def freeScales (f : Fmt) : M (Nat → Nat) := do
  if f = .int4g || f = .int3g then
    let n ← draw
    return fun g => (Config.freeWords n g).toNat % 65536
  else return fun _ => 0

/-- DEDUCED, log entry 73: a vector write under an empty mask makes a dead destination full of zeros, LDV and XRDV
included; an empty mask decodes no element, so it refuses no format. -/
def mLdv (o : LvOp) : M Unit := do
  checkRegs (.ldv o)
  let ea := effAddr (← rdS o.a) o.x
  let mask ← rdMask o.c
  let t ← translate .load ea
  let ew := Leaf.ew t.e
  once do
    needAlign ea (ew / 8)
    let _ ← applyPageRule .load t ea
  if mask = 0 then wrVm o.r mask 0
  else
    let f ← pageFormat t.e ea
    if !loadOk o.t f ew then refuseConv f ea true
    let ls ← rangeLines .load .load (laneLines o.t f ew mask ea)
    once (ls.forM fun p => lineFree (p.1.pa p.2) false)
    needLinesVia 0 ls
    let sc ← freeScales f
    let eb := elemBits f ew
    let bs := bytesAtHand (← get) ea (eb * 32 * o.t.elems / 8)
    wrVm o.r mask (loadLanes o f ew (← me).ctl.srk ea mask bs (firstWeight t eb ea) sc)

/-- The byte writes of a vector store (R105, R168). -/
def storeWrites (o : LvOp) (f : Fmt) (ew : Nat) (key : Word) (ea : Pc) (mask : BitVec 32) (v : Row) : List (Pc × Byte) :=
  (List.range 32).flatMap fun l =>
    if bitAt mask l then
      (List.range o.t.elems).flatMap fun e =>
        let n := l * o.t.elems + e
        let idx : Word := BitVec.ofNat 64 (ea.toNat / (ew / 8) + n)
        let code := (storeElem o.t f ew o.rm o.sat idx key (laneElem o.t (Row.lane v l) e)).getD 0
        (bytesOf (ew / 8) (BitVec.ofNat 64 code)).mapIdx fun k y => (ea + BitVec.ofNat 56 (n * (ew / 8) + k), y)
    else []

def mStv (o : LvOp) : M Unit := do
  checkRegs (.stv o)
  let ea := effAddr (← rdS o.a) o.x
  let v ← rdVn o.r
  let mask ← rdMask o.c
  let t ← translate .store ea
  let ew := Leaf.ew t.e
  once do
    needAlign ea (ew / 8)
    let _ ← applyPageRule .store t ea
  if mask ≠ 0 then
    let f ← pageFormat t.e ea
    if !storeOk o.t f ew then refuseConv f ea false
    let ls ← rangeLines .store .store (laneLines o.t f ew mask ea)
    storeBytes ls (storeWrites o f ew (← me).ctl.srk ea mask v)

/-! ### Scratchpad (R173 to R175) -/

/-- DEDUCED, log entry 20: SPLD, SPST and DRAIN form their offset modulo 2^56, as EA is formed. -/
def mSpld (w : Width) (sx : Bool) (d a : Spec) (x : BitVec 48) : M Unit := do
  checkRegs (.spld w sx d a x)
  let o : Word := (effAddr (← rdS a) x).setWidth 64
  let n := Width.bytes w
  let g ← checkPad o.toNat n n
  padFree o.toNat n false
  padFilled g o.toNat n
  let s ← get
  let v : Word := BitVec.ofNat 64 ((s.core s.me.coreNo).padNat o.toNat n)
  wrS d (if sx then sxLow (8 * n) v else v)

/-- DEDUCED, log entry 20: SPLD, SPST and DRAIN form their offset modulo 2^56, as EA is formed. -/
def mSpst (w : Width) (a b : Spec) (x : BitVec 48) : M Unit := do
  checkRegs (.spst w a b x)
  let o : Word := (effAddr (← rdS a) x).setWidth 64
  let v ← rdS b
  let n := Width.bytes w
  let g ← checkPad o.toNat n n
  if g.shared then fault 0x1A [o, BitVec.ofNat 64 n]
  padFree o.toNat n true
  modCore (← myCore) fun c =>
    let r := o.toNat / 128
    c.setRow r (rowSetBytes (c.row r) (o.toNat % 128) (bytesOf n v))

/-- A read mark of another path stands on a row: the DRAIN that would empty it parks (R36, R243, R269). A write mark delays
no DRAIN, since a landing that finds the row full waits under it for the DRAIN (R143, R174). (DEDUCED, log entry 95.) -/
def drainHeld (s : State) (k r : Nat) : Bool :=
  s.marks.any fun m => m.unit_ == .row k r && m.path != 0 && !m.write

/-- DEDUCED, log entry 20: SPLD, SPST and DRAIN form their offset modulo 2^56, as EA is formed. -/
def mDrain (rel : Bool) (a : Spec) (x : BitVec 48) : M Unit := do
  checkRegs (.drain rel a x)
  let o : Word := (effAddr (← rdS a) x).setWidth 64
  let s ← get
  let c := s.me
  let core := s.core c.coreNo
  let r := o.toNat / 128
  match core.regionOf r with
  | none => fault 0x1A [o, 128]
  | some g =>
    if !g.shared then fault 0x1A [o, 128]
    else if c.cxid ≠ g.cxid then fault 0x11 [o, g.cxid.setWidth 64]
    else
      parkUnless (!drainHeld s c.coreNo r)
      parkUnless (core.fillOf r).full
      modCore c.coreNo fun k =>
        k.setFill r { full := false, bound := if rel then none else (k.fillOf r).bound }

/-! ### The home's and the L1's side (R134, R168, R169) -/

/-- The event stays pending. (DESIGN CHOICE, log entry 74.) -/
def keepPending (i : Instr) : M Unit := addPending i

/-- An earlier packet of the same flow is still on its way or waiting (R127, R293). -/
def flowBlocked (s : State) (id : Nat) (p : Packet) : Bool :=
  p.flow.isSome && s.net.any fun q => decide (q.1 < id) && q.2.flow == p.flow

/-- The home of a line on another chip asks for the dirty copy of a line that this package holds: it is sent, and clean from
then on; no data says that there is none (R134). (DESIGN CHOICE, log entry 112.) -/
def probed (pkt : Nat) (p : Packet) : M Unit := do
  let l := p.pa / 64 * 64
  let copy := dirtyCopy (← get) l
  modify fun s => { s with
    net := s.net.del pkt
    cores := s.cores.map fun k =>
      (k.1, { k.2 with l1 := k.2.l1.map fun y => if y.pa = l then { y with dirty := false } else y }) }
  sendAnswer p
    { kind := .lineResp, va := p.va, pa := p.pa, e := p.e
      data := match copy with
        | some x => bytesOf 64 x.2.data
        | none => [] } (p.dst - 4096)

/-- LINE_REQUEST: the home serves a read or a write of a line once no mark of another path blocks it; a line of a CONST
page is formed from its pattern (R36, R115, R168, R170).
(DESIGN CHOICE, log entry 10.) -/
def mLineRequest (pkt : Nat) : M Unit := do
  let s ← get
  match s.net.find pkt with
  | none => pure ()
  | some p =>
    let home := p.dst - 4096
    let units := lineUnits s home p.pa (Leaf.const p.e)
    if p.arrived && !s.here p.pa then probed pkt p
    else if !p.arrived || flowBlocked s pkt p then keepPending (.lineRequest pkt)
    else if let some u := firstLasting s units then
      modify fun s => { s with net := s.net.del pkt }
      sendAnswer p
        { kind := .lineResp, va := p.va, pa := p.pa, e := p.e
          faults := [{ code := 0x41, info := [u], taddr := p.va, src := 8 }], flag := p.flag } home
    else if anyFenced s units || (!Leaf.const p.e && (markBlocks s (.line p.pa) p.ord p.flag
        || heldBehind s (.line p.pa) p.ord p.cx p.op p.flag)) then
      keepPending (.lineRequest pkt)
    else
      if p.flag then
        let m := p.words.getD 0 0
        modify fun s =>
          let old := coherentLine s p.pa
          let new : Line := BitVec.ofNat 512 (natOfBytes ((List.range 64).map fun k =>
            if bitAt m k then p.data.getD k 0 else byteOf old k))
          (pullLine p.pa s).writeLine p.pa new
      else if !Leaf.const p.e then modify (pullLine p.pa)
      let s ← get
      let fs := if lineSpoilt s p.pa && !p.flag && !Leaf.const p.e then [uncorrectable p.pa p.va] else []
      modify fun s => { s with net := s.net.del pkt }
      sendAnswer p
        { kind := .lineResp, va := p.va, pa := p.pa, e := p.e
          faults := fs, flag := p.flag, data := bytesOf 64 (homeLine s p.e p.pa) } home

/-- Walkers of a die (R117). -/
def walkers : Nat := 32

/-- A table line from another chip reaches the walk that asked for it, or the fault with which that chip has refused it. -/
def giveLine (op pa : Nat) (l : Line) (f : Option FaultRec) (s : State) : State :=
  { s with
    dies := s.dies.map fun d => (d.1, { d.2 with walks := d.2.walks.map fun w =>
      if w.id = op then { w with far := w.far.put pa l, fault := w.fault.or f } else w }) }

/-- An answer reaches an operation of the copy engine: the data of a unit, or its faults (R311). -/
def copyAnswered (op unit_ : Nat) (data : List Byte) (fs : List FaultRec) (s : State) : State :=
  { s with
    clusters := s.clusters.map fun k => (k.1, { k.2 with copies := k.2.copies.map fun c =>
      if c.id = op then
        { c with
          left := c.left - 1, got := if data.isEmpty then c.got else c.got.put unit_ data
          refused := c.refused ++ fs.map fun f => (unit_, f) }
      else c }) }

def dropPacket (id : Nat) : M Unit := modify fun s => { s with net := s.net.del id }

/-- Inserts a fault of a core, in ascending order of core. (DEDUCED, log entry 43.) -/
def insertByCore (k : Nat) (f : FaultRec) : List (Nat × FaultRec) → List (Nat × FaultRec)
  | [] => [(k, f)]
  | x :: xs => if k < x.1 then (k, f) :: x :: xs else x :: insertByCore k f xs

/-- An answer reaches the record of an operation that several units answer: the count of those still out is its first
word, and its other words are the units of its faults. None while answers are out; else the answer of the whole (R302). -/
def gather (p : Packet) : M (Option Packet) := do
  let s ← get
  match s.net.find p.op with
  | some m =>
    if m.kind ≠ .record then return some p
    else
      let fs := p.faults.foldl (fun l f => insertByCore p.ord f l) (((m.words.drop 1).map (·.toNat)).zip m.faults)
      let words := fs.map fun q => BitVec.ofNat 64 q.1
      let left := m.words.getD 0 0 - 1
      if left = 0 then
        dropPacket p.op
        return some { p with faults := fs.map (·.2), words }
      else
        modify fun s => { s with net := s.net.put p.op { m with words := left :: words, faults := fs.map (·.2) } }
        return none
  | none => return some p

/-- An answer closes its operation: it goes to the parked instruction that waits for it, or its faults are owed to the
next wait for STQ = 0 (R75, R127). -/
def gathered (p : Packet) : M Unit :=
  modify fun s =>
    if ((s.ctx p.cx).opens.find p.op).isNone then copyAnswered p.op p.ord p.data p.faults s
    else s.modCtx p.cx fun c =>
      let c := c.closeOp p.op
      if c.waits.contains p.op then
        { c with answers := c.answers.put p.op { faults := p.faults, words := p.words, data := p.data, flag := p.flag } }
      else { c with owed := p.faults.zipIdx.foldl (fun l f =>
        insertOwed { op := p.op, ord := ((p.words[f.2]?).map (·.toNat)).getD p.ord, fault := f.1 } l) c.owed }

/-- A line reaches the core for the instruction that waits for it, and enters the L1 (R168, R169). -/
def lineArrived (p : Packet) (s : State) : State :=
  let l : Line := BitVec.ofNat 512 (natOfBytes p.data)
  let c := s.ctx p.cx
  let s := if !p.flag && p.faults.isEmpty && cacheable p.e && l1Share p.dst (s.core p.dst) ≠ 0 then
      installLine p.dst
        { va := p.va, asid := c.asid, cxid := c.cxid, own := Leaf.jt p.e == .priv, pa := p.pa, data := l } s
    else s
  s.modCtx p.cx fun c =>
    let c := c.closeOp p.op
    let c := { c with answers := c.answers.put p.op { faults := p.faults } }
    if p.flag || !p.faults.isEmpty then c else { c with lineBuf := c.lineBuf.put p.va.toNat l }

/-- LINE_RESPONSE: the answer to a line request reaches the instruction that waits for it, a walk, an operation of the
copy engine, or the store that made several of them. (DESIGN CHOICE, log entry 10.) -/
def mLineResponse (pkt : Nat) : M Unit := do
  let s ← get
  match s.net.find pkt with
  | none => pure ()
  | some p =>
    if !p.arrived then keepPending (.lineResponse pkt)
    else
      dropPacket pkt
      if (s.ctx p.cx).waits.contains p.op then modify (lineArrived p)
      else
        modify (giveLine p.op p.pa (BitVec.ofNat 512 (natOfBytes p.data)) p.faults.head?)
        match ← gather p with
        | some q =>
          -- a dirty line that another chip has refused
          whenM (p.cx == walkKey && p.flag) (q.faults.forM fun f => modify (postUnit (dieOfCore p.dst) p.dst f))
          modify fun s => { s with marks := s.marks.filter fun m => m.op != q.op || (findCopy s q.op).isSome }
          gathered { q with ord := q.va.toNat, data := if q.flag then [] else q.data }
        | none => pure ()

/-! ### PAGE_WALK_COMPLETE (R117) -/

/-- Asks another chip for a line of a page table (R368). -/
def askLine (die : Nat) (w : Walk) (pa : Nat) : M Unit := do
  modDie die fun d => { d with walks := d.walks.map fun x => if x.id = w.id then { x with asked := pa :: x.asked } else x }
  let s ← get
  let k := die * 1024
  let _ ← sendPacket
    { kind := .lineReq, op := w.id, cx := walkKey, thread := threadAddr s.chip k 0, dst := 8192 + chipOf pa, pa } (clusterOf k)

/-- The walk ends: the caches are refilled, or the waiting contexts learn that it ended by R116 or with a fault of a table
line. It waits for a walker, for a fenced channel, and for the table lines of other chips. (DESIGN CHOICE, log entry 67.) -/
def mPageWalkComplete (id : Nat) : M Unit := do
  let s ← get
  (List.range 4).forM fun d =>
    match (s.die d).walks.find? fun w => w.id == id with
    | none => pure ()
    | some w => do
      let turn := ((s.die d).walks.findIdx? fun w => w.id == id).getD 0
      let failed (f : Option FaultRec) : M Unit := do
        modDie d fun x => { x with walks := x.walks.filter fun y => y.id != id }
        w.cxs.forM fun k => modify fun s => s.modCtx k.1 fun c => { c with badWalk := some (k.2, f) }
      if walkers ≤ turn then keepPending (.pageWalkComplete id)
      else match (w.fault.map WalkEnd.failed).getD (walkWith s w.far d w.asid w.va) with
        | .needs pa =>
          if !w.asked.contains pa then askLine d w pa
          keepPending (.pageWalkComplete id)
        | .held => keepPending (.pageWalkComplete id)
        | .found t =>
          -- every walk of the die for the leaf ends with it (R117 rule 2)
          let served := (s.die d).walks.filter fun x => t.hits x.asid x.va
          modDie d fun x => { x with walks := x.walks.filter fun y => !t.hits y.asid y.va }
          (served.flatMap (·.cxs)).forM fun k => do
            let c := s.ctx k.1
            modCluster (clusterOf c.coreNo) fun x => { x with tlb := tlbPut 2048 x.tlb t }
            modCore c.coreNo fun x => { x with tlb := tlbPut 64 x.tlb t }
        | .bad => failed none
        | .failed f => failed (some f)

/-! ### The meanings -/

def execLd (w : Width) (sx : Bool) (d a : Spec) (x : BitVec 48) (s : State) := runI (mLd w sx d a x) (.ld w sx d a x) s
def execSt (w : Width) (a b : Spec) (x : BitVec 48) (s : State) := runI (mSt w a b x) (.st w a b x) s
def execLdv (o : LvOp) (s : State) := runI (mLdv o) (.ldv o) s
def execStv (o : LvOp) (s : State) := runI (mStv o) (.stv o) s
def execSpld (w : Width) (sx : Bool) (d a : Spec) (x : BitVec 48) (s : State) :=
  runI (mSpld w sx d a x) (.spld w sx d a x) s
def execSpst (w : Width) (a b : Spec) (x : BitVec 48) (s : State) := runI (mSpst w a b x) (.spst w a b x) s
def execDrain (rel : Bool) (a : Spec) (x : BitVec 48) (s : State) := runI (mDrain rel a x) (.drain rel a x) s
def execLineRequest (pkt : Nat) (s : State) := runE (mLineRequest pkt) s
def execLineResponse (pkt : Nat) (s : State) := runE (mLineResponse pkt) s
def execPageWalkComplete (walk : Nat) (s : State) := runE (mPageWalkComplete walk) s

end Sys2Proof.Machine
end

