-- ==== Sys2Proof/Machine/Trans.lean ====
section
/-!
DEFINITION. The five correctly rounded functions of FP32 (R194): 1/x, 1/√x, √x, 2^x and log2 x, rounded once with RNE.
The quotients and roots are exact with a sticky bit; the two series are cut off after 256 bits (DESIGN CHOICE, log entry 13).
-/

namespace Sys2Proof

/-- ⌊√n⌋ for n < 4^k, bit by bit. -/
def isqrt (n : Nat) : Nat → Nat → Nat
  | 0, r => r
  | k + 1, r => isqrt n k (if (r + 2 ^ k) * (r + 2 ^ k) ≤ n then r + 2 ^ k else r)

/-- The value (n + sticky/2) · 2^e: a truncated value whose discarded part is not zero keeps a half. -/
def stickyVal (neg : Bool) (n : Nat) (sticky : Bool) (e : Int) : Val := .fin neg (2 * n + sticky.toNat) (e - 1)

/-- 1/x (R194). -/
def fRcp : Val → Val
  | .nan => .nan
  | .inf n => .fin n 0 0
  | .fin n 0 _ => .inf n
  | .fin n m e => stickyVal n (2 ^ 64 / m) (decide (2 ^ 64 % m ≠ 0)) (-64 - e)

/-- The same value with an even exponent. -/
def evenExp (m : Nat) (e : Int) : Nat × Int := if e % 2 = 0 then (m, e) else (2 * m, e - 1)

/-- √x (R194). -/
def fSqrt : Val → Val
  | .nan => .nan
  | .inf n => if n then .nan else .inf false
  | .fin n 0 _ => .fin n 0 0
  | .fin true _ _ => .nan
  | .fin false m e =>
    let p := evenExp m e
    let y := p.1 <<< 64
    let r := isqrt y 48 0
    stickyVal false r (r * r != y) (p.2 / 2 - 32)

/-- 1/√x (R194). -/
def fRsq : Val → Val
  | .nan => .nan
  | .inf n => if n then .nan else .fin false 0 0
  | .fin n 0 _ => .inf n
  | .fin true _ _ => .nan
  | .fin false m e =>
    let p := evenExp m e
    let r := isqrt (2 ^ 120 / p.1) 61 0
    stickyVal false r (r * r * p.1 != 2 ^ 120) (-60 - p.2 / 2)

/-- Working precision of the two series, in bits. (DESIGN CHOICE, log entry 13.) -/
def seriesBits : Nat := 256

/-- Σ z^(2i+1)/(2i+1) from the term `t` = z^k on, for z·z = z2, in units of 2^-256. -/
def atanhSum (z2 t k : Nat) : Nat → Nat
  | 0 => 0
  | n + 1 => t / k + atanhSum z2 ((t * z2) >>> seriesBits) (k + 2) n

/-- ln(a/b) for b ≤ a ≤ 2b, in units of 2^-256: 2·atanh((a-b)/(a+b)). -/
def lnRatio (a b : Nat) : Nat :=
  let z := ((a - b) <<< seriesBits) / (a + b)
  2 * atanhSum ((z * z) >>> seriesBits) z 1 90

/-- Σ y^i/i! from the term `t` = y^k/k! on. -/
def expSum (y t k : Nat) : Nat → Nat
  | 0 => 0
  | n + 1 => t + expSum y (((t * y) >>> seriesBits) / (k + 1)) (k + 1) n

/-- 2^(f/2^256) for f < 2^256, in units of 2^-256. (DESIGN CHOICE, log entry 13.) -/
def exp2Frac (f : Nat) : Nat :=
  let y := (f * lnRatio 2 1) >>> seriesBits
  expSum y (2 ^ seriesBits) 0 70

/-- 2^x (R194). -/
def fExp2 : Val → Val
  | .nan => .nan
  | .inf n => if n then .fin false 0 0 else .inf false
  | .fin _ 0 _ => .fin false 1 0
  | .fin n m e =>
    let x : Val := .fin n m e
    if x.cmp (.ofInt 128) != .lt then .inf false
    else if x.cmp (.ofInt (-150)) != .gt then .fin false 0 0
    else
      let i := x.floor
      let s := x.sub (.ofInt i)
      let f := (s.scale seriesBits).floor.toNat
      if s.isZero then .fin false 1 i
      else stickyVal false (exp2Frac f) true (i - seriesBits)

/-- log2 x (R194). (DESIGN CHOICE, log entry 13.) -/
def fLog2 : Val → Val
  | .nan => .nan
  | .inf n => if n then .nan else .inf false
  | .fin _ 0 _ => .inf true
  | .fin true _ _ => .nan
  | .fin false m e =>
    let k := Nat.log2 m
    let i : Int := e + k
    if m = 2 ^ k then .ofInt i
    else
      let f := ((lnRatio m (2 ^ k)) <<< seriesBits) / lnRatio 2 1
      let x : Int := 2 * (i * 2 ^ seriesBits + f) + 1
      .fin (decide (x < 0)) x.natAbs (-(seriesBits : Int) - 1)

/-- A function of one FP32 lane (R194). -/
def transLane (f : Val → Val) (x : BitVec 32) : BitVec 32 := f32Rne (f (f32Val x))

end Sys2Proof
end

