-- ==== Sys2Proof/Machine/Vector.lean ====
section
/-!
DEFINITION. Class 3: the vector unit (R180 to R204), and TRANSCENDENTAL_COMPLETE.
-/

namespace Sys2Proof

/-! ### Lane effects -/

/-- The integer of an element code by the lane type (R189). -/
def LaneT.toInt (t : LaneT) (c : Nat) : Int :=
  if t != .u32 && decide (2 ^ (t.w - 1) ≤ c) then (c : Int) - 2 ^ t.w else c

/-- An exact integer result as an element: reduced, or clamped with .sat (R189). -/
def LaneT.ofInt (t : LaneT) (sat : Bool) (x : Int) : Nat :=
  intCode t.w (if sat then clampInt t.w (t != .u32) x else x)

/-- An element-wise effect of two sources and the destination. -/
def laneMap (t : LaneT) (f : Nat → Nat → Nat → Nat) (d a b : BitVec 32) : BitVec 32 :=
  laneOf t fun e => f (laneElem t d e) (laneElem t a e) (laneElem t b e)

/-- VADD, VSUB, VMUL, VFMA and VFMS (R189, R190). -/
inductive ArithOp
  | add | sub | mul | fma | fms
  deriving DecidableEq, Repr

def ArithOp.int (o : ArithOp) (d a b : Int) : Int :=
  match o with
  | .add => a + b
  | .sub => a - b
  | .mul => a * b
  | .fma => a * b + d
  | .fms => d - a * b

def ArithOp.val (o : ArithOp) (d a b : Val) : Val :=
  match o with
  | .add => a.add b
  | .sub => a.sub b
  | .mul => a.mul b
  | .fma => (a.mul b).add d
  | .fms => d.sub (a.mul b)

/-- One element of the five arithmetic operations (R189, R190). -/
def arithElem (o : ArithOp) (t : LaneT) (sat : Bool) (rm : RMode) (d a b : Nat) : Nat :=
  if t.isFloat then t.num.round rm sat 0 0 (o.val (t.num.value d) (t.num.value a) (t.num.value b))
  else t.ofInt sat (o.int (t.toInt d) (t.toInt a) (t.toInt b))

/-- The code of the canonical NaN of a float lane type. -/
def LaneT.nan (t : LaneT) : Nat := t.num.round .rne false 0 0 .nan

/-- VMIN and VMAX on one element (R189, R190). -/
def minElem (t : LaneT) (a b : Nat) : Nat :=
  if t.isFloat then
    let x := t.num.value a
    let y := t.num.value b
    if x.isNan || y.isNan then t.nan else if y.before x then b else a
  else if t.toInt b < t.toInt a then b else a
def maxElem (t : LaneT) (a b : Nat) : Nat :=
  if t.isFloat then
    let x := t.num.value a
    let y := t.num.value b
    if x.isNan || y.isNan then t.nan else if x.before y then b else a
  else if t.toInt a < t.toInt b then b else a

/-- VABS and VNEG on one element (R189, R190). -/
def absElem (t : LaneT) (sat : Bool) (a : Nat) : Nat :=
  if t.isFloat then if (t.num.value a).isNan then t.nan else a % 2 ^ (t.w - 1)
  else t.ofInt sat (t.toInt a).natAbs
def negElem (t : LaneT) (sat : Bool) (a : Nat) : Nat :=
  if t.isFloat then if (t.num.value a).isNan then t.nan else (a + 2 ^ (t.w - 1)) % 2 ^ t.w
  else t.ofInt sat (-(t.toInt a))

/-- VSHL and VSHR on one element (R192). -/
def shlElem (t : LaneT) (a b : Nat) : Nat := a * 2 ^ (b % t.w) % 2 ^ t.w
def shrElem (t : LaneT) (a b : Nat) : Nat := intCode t.w ((t.toInt a).fdiv (2 ^ (b % t.w)))

/-- VCMP on one lane (R191). -/
def vcondHolds (t : LaneT) (cc : VCond) (a b : BitVec 32) : Bool :=
  let pick (o : Ordering) : Bool := match cc with
    | .eq => o == .eq
    | .ne => o != .eq
    | .lt => o == .lt
    | .le => o != .gt
    | .gt => o == .gt
    | .ge => o != .lt
  if t.isFloat then
    let x := f32Val a
    let y := f32Val b
    if x.isNan || y.isNan then cc == .ne else pick (x.cmp y)
  else pick (compare (t.toInt a.toNat) (t.toInt b.toNat))

/-- VCVT on one lane (R193). -/
def cvtLane (src dst : LaneT) (h : Nat) (rm : RMode) (sat : Bool) (base key : Word) (l : Nat) (d a : BitVec 32) :
    BitVec 32 :=
  laneOf dst fun e =>
    let conv (c : Nat) : Nat :=
      if src = dst then c
      else dst.num.round rm sat (base + BitVec.ofNat 64 (4 * l + e)) key (src.num.value c)
    if src.elems < dst.elems then
      if h * src.elems ≤ e ∧ e < (h + 1) * src.elems then conv (laneElem src a (e - h * src.elems)) else laneElem dst d e
    else conv (laneElem src a (h * dst.elems + e))

/-! ### Reductions and scans (R110, R196, R197) -/

/-- Node i of level l of the tree over the lanes. -/
def treeNode {α : Type} (op : α → α → α) (w : Nat → α) : Nat → Nat → α
  | 0, i => w i
  | l + 1, i => op (treeNode op w l (2 * i)) (treeNode op w l (2 * i + 1))

/-- An operator on FP32 lanes. -/
def opF (o : VOp) (a b : BitVec 32) : BitVec 32 :=
  match o with
  | .min => BitVec.ofNat 32 (minElem .f32 a.toNat b.toNat)
  | .max => BitVec.ofNat 32 (maxElem .f32 a.toNat b.toNat)
  | _ => f32Add a b

/-- An operator on exact integers; the logical ones act on the 32 bits. -/
def opI (o : VOp) (a b : Int) : Int :=
  let u (f : BitVec 32 → BitVec 32 → BitVec 32) : Int := (f (BitVec.ofInt 32 a) (BitVec.ofInt 32 b)).toNat
  match o with
  | .add => a + b
  | .min => min a b
  | .max => max a b
  | .and => u (· &&& ·)
  | .or => u (· ||| ·)
  | .xor => u (· ^^^ ·)

/-- The identity of an operator as a lane (R196). -/
def opIdent (t : LaneT) (o : VOp) : BitVec 32 :=
  match t, o with
  | .f32, .min => 0x7F800000
  | .f32, .max => 0xFF800000
  | .f32, _ => 0x80000000
  | .i32, .min => 0x7FFFFFFF
  | .i32, .max => 0x80000000
  | _, .min => 0xFFFFFFFF
  | _, .and => 0xFFFFFFFF
  | _, _ => 0

/-- The lanes after the identity substitution. -/
def opLanes (t : LaneT) (o : VOp) (mask : BitVec 32) (a : Row) (i : Nat) : BitVec 32 :=
  if bitAt mask i then a.lane i else opIdent t o

/-- The lane as a number for the operator: the bits for the logical ones. -/
def opInt (t : LaneT) (o : VOp) (x : BitVec 32) : Int :=
  match o with
  | .and | .or | .xor => x.toNat
  | _ => t.toInt x.toNat

/-- VRED (R196). -/
def vredResult (t : LaneT) (o : VOp) (mask : BitVec 32) (a : Row) : Word :=
  if t = .f32 then (treeNode (opF o) (opLanes t o mask a) 5 0).setWidth 64
  else BitVec.ofInt 64 (treeNode (opI o) (fun i => opInt t o (opLanes t o mask a i)) 5 0)

/-- The prefix of lanes 0 .. i (R197): nodes from the highest level down. -/
def scanFold {α : Type} (node : Nat → Nat → α) (first : α → α) (op : α → α → α) (i : Nat) :
    Nat → Nat → Option α → Option α
  | 0, _, acc => acc
  | l + 1, base, acc =>
    if bitAt (BitVec.ofNat 6 (i + 1)) l then
      let n := node l (base / 2 ^ l)
      scanFold node first op i l (base + 2 ^ l) (some (match acc with
        | none => first n
        | some x => op x n))
    else scanFold node first op i l base acc

/-- Lane i of VSCAN (R197). A lane of FP32 whose prefix is one lane keeps the bits of that lane, a NaN's too: no operation
forms it (DESIGN CHOICE, log entry 85). -/
def vscanLane (t : LaneT) (sat : Bool) (o : VOp) (mask : BitVec 32) (a : Row) (i : Nat) : BitVec 32 :=
  if t = .f32 then (scanFold (treeNode (opF o) (opLanes t o mask a)) id (opF o) i 6 0 none).getD 0
  else
    let clamp (x : Int) : Int := if sat then clampInt 32 (t != .u32) x else x
    BitVec.ofInt 32
      ((scanFold (treeNode (opI o) (fun i => opInt t o (opLanes t o mask a i))) clamp (fun x n => clamp (opI o x n)) i
        6 0 none).getD 0)

end Sys2Proof

namespace Sys2Proof.Machine

/-! ### Scratchpad operands (R183, R184) -/

/-- An operand of a class-3 instruction: its specifier, and whether the instruction reads and writes it. -/
structure VOpd where
  r : Spec
  rd : Bool
  wr : Bool
  deriving DecidableEq, Repr

/-- The base register of a scratchpad operand. -/
def Spec.base? : Spec → Option (BitVec 5)
  | .sp n | .spi n => some n
  | _ => none

/-- A row that an operand names, with its region. -/
structure VRow where
  off : Word
  g : Region
  rd : Bool
  wr : Bool
  deriving DecidableEq, Repr

def VRow.ix (r : VRow) : Nat := r.off.toNat / 128

/-- The faults of R184 on one row: a shared row is written whole, is not read by the same instruction, and has no other
writer. `reads` are the offsets of the sources. -/
def rowFaults (mask : BitVec 32) (reads : List Word) (r : VRow) : M Unit := do
  let s ← get
  let c := s.me
  if r.wr && r.g.shared then
    if mask ≠ BitVec.allOnes 32 || reads.contains r.off then fault 0x1A [r.off, 128]
    match (s.core c.coreNo).fill r.ix 0 c.thread with
    | .second b => raise (secondWriter r.ix b c.thread)
    | _ => pure ()

/-- The parks on the rows of an instruction (R36, R184, R187). -/
def rowParks (rows : List VRow) : M Unit :=
  rows.forM fun r => do
    padFree r.off.toNat 128 r.wr
    if r.rd then padFilled r.g r.off.toNat 128
    if r.wr then rowFillable r.g r.ix

/-- Checks every scratchpad operand in the order D, A, B, each by R183 and then by R184; then the parks
(R187; DEDUCED, log entry 89). -/
def checkVOps (mask : BitVec 32) (ops : List VOpd) : M Unit := do
  let named ← ops.filterMapM fun o => match Spec.base? o.r with
    | none => pure none
    | some n => do return some (o, ← rdSn n)
  let reads := (named.filter fun p => p.1.rd).map (·.2)
  let rows ← named.mapM fun p => do
    let g ← checkRow p.2
    let r : VRow := { off := p.2, g, rd := p.1.rd, wr := p.1.wr }
    rowFaults mask reads r
    return r
  rowParks rows

/-- The 32 lanes of a vector source (R182). -/
def rdV (t : LaneT) (r : Spec) : M Row := do
  let s ← get
  match r with
  | .v n => rdVn n
  | .s n => do
    let x ← rdSn n
    return Row.splat (laneOf t fun _ => x.toNat)
  | .sp n | .spi n => do padRow ((← rdSn n).toNat / 128)
  | .lw => return linkRead s false
  | .ln => return linkRead s true
  | _ => return 0

/-- The contents of a destination that is read for its unwritten parts: 0 in a dead register. -/
def rdOld (r : Spec) : M Row := do
  let c ← me
  match r with
  | .v n => if c.regSt (.v n) = .dead then return 0 else rdVn n
  | .sp n | .spi n => do padRow ((← rdSn n).toNat / 128)
  | .le => return linkOld c false
  | .ls => return linkOld c true
  | _ => return 0

/-- Writes the masked lanes of a vector destination (R181). -/
def wrV (d : Spec) (mask : BitVec 32) (x : Row) : M Unit := do
  match d with
  | .v n => wrVm n mask x
  | .sp n | .spi n => do
    let off ← rdSn n
    let s ← get
    let k := s.me.coreNo
    let r := off.toNat / 128
    match padRegion s s.me r with
    | some g => putRow g r (if g.shared then x else Row.merge mask ((s.core k).row r) x)
    | none => pure ()
  | .le => do linkWrite false (Row.merge mask (linkOld (← me) false) x)
  | .ls => do linkWrite true (Row.merge mask (linkOld (← me) true) x)
  | _ => pure ()

/-- Post-increments: 128 for each `[sN]+` that names sN (R183). (DEDUCED, log entry 25.) -/
def postIncrement (ops : List Spec) : M Unit :=
  ops.forM fun r => match r with
    | .spi n => modMe fun c => c.putS n (c.getS n + 128)
    | _ => pure ()

/-! ### The common course (R187) -/

/-- The course with a vector destination: `f d a b` is the row of results. -/
def vCourse (t : LaneT) (mask : BitVec 32) (d : VOpd) (a : Spec) (b : Option Spec)
    (f : Row → Row → Row → Row) : M Unit := do
  checkVOps mask (d :: { r := a, rd := true, wr := false } ::
    (b.map fun r => { r := r, rd := true, wr := false : VOpd }).toList)
  let old ← if d.rd then rdOld d.r else pure 0
  let x ← rdV t a
  let y ← match b with
    | some r => rdV t r
    | none => pure 0
  wrV d.r mask (f old x y)
  postIncrement (d.r :: a :: b.toList)

/-- Lane by lane. -/
def lanewise (f : BitVec 32 → BitVec 32 → BitVec 32 → BitVec 32) (d a b : Row) : Row :=
  Row.ofLanes fun l => f (d.lane l) (a.lane l) (b.lane l)

def out (r : Spec) : VOpd := { r, rd := false, wr := true }
def inout (r : Spec) : VOpd := { r, rd := true, wr := true }

def vArith (i : Instr) (o : ArithOp) (acc : Bool) (v : VArith) : M Unit := do
  checkRegs i
  let mask ← rdMask v.c
  vCourse v.t mask (if acc then inout v.d else out v.d) v.a (some v.b)
    (lanewise (laneMap v.t (arithElem o v.t v.sat v.rm)))

def mVadd (o : VArith) : M Unit := vArith (.vadd o) .add false o
def mVsub (o : VArith) : M Unit := vArith (.vsub o) .sub false o
def mVmul (o : VArith) : M Unit := vArith (.vmul o) .mul false o
def mVfma (o : VArith) : M Unit := vArith (.vfma o) .fma true o
def mVfms (o : VArith) : M Unit := vArith (.vfms o) .fms true o

def vBin (i : Instr) (o : VBin) (f : BitVec 32 → BitVec 32 → BitVec 32) : M Unit := do
  checkRegs i
  let mask ← rdMask o.c
  vCourse o.t mask (out o.d) o.a (some o.b) (lanewise fun _ a b => f a b)

def mVmin (o : VBin) : M Unit := vBin (.vmin o) o (laneMap o.t (fun _ => minElem o.t) 0)
def mVmax (o : VBin) : M Unit := vBin (.vmax o) o (laneMap o.t (fun _ => maxElem o.t) 0)
def mVand (o : VBin) : M Unit := vBin (.vand o) o (· &&& ·)
def mVor (o : VBin) : M Unit := vBin (.vor o) o (· ||| ·)
def mVxor (o : VBin) : M Unit := vBin (.vxor o) o (· ^^^ ·)
def mVshl (o : VBin) : M Unit := vBin (.vshl o) o (laneMap o.t (fun _ => shlElem o.t) 0)
def mVshr (o : VBin) : M Unit := vBin (.vshr o) o (laneMap o.t (fun _ => shrElem o.t) 0)

def vUn (i : Instr) (o : VUn) (f : Nat → Nat) : M Unit := do
  checkRegs i
  let mask ← rdMask o.c
  vCourse o.t mask (out o.d) o.a none (lanewise fun _ a _ => laneMap o.t (fun _ x _ => f x) 0 a 0)

def mVabs (o : VUn) : M Unit := vUn (.vabs o) o (absElem o.t o.sat)
def mVneg (o : VUn) : M Unit := vUn (.vneg o) o (negElem o.t o.sat)

/-- VSEL: the selector chooses for all 32 lanes (R192). -/
def mVsel (o : VBin) : M Unit := do
  checkRegs (.vsel o)
  let sel ← rdMask o.c
  vCourse o.t (BitVec.allOnes 32) (out o.d) o.a (some o.b) fun _ a b => Row.merge sel b a

/-- The mask of the lanes of a comparison. -/
def cmpMask (t : LaneT) (cc : VCond) (mask : BitVec 32) (a b : Row) : Word :=
  (List.range 32).foldl
    (fun m l => if bitAt mask l && vcondHolds t cc (a.lane l) (b.lane l) then setBit m l true else m) 0

def mVcmp (cc : VCond) (o : VBin) : M Unit := do
  checkRegs (.vcmp cc o)
  let mask ← rdMask o.c
  checkVOps mask [{ r := o.a, rd := true, wr := false }, { r := o.b, rd := true, wr := false }]
  let a ← rdV o.t o.a
  let b ← rdV o.t o.b
  wrS o.d (cmpMask o.t cc mask a b)
  postIncrement [o.a, o.b]

/-- DEDUCED, log entry 24: VCVT to more elements per lane than its source reads D as a source. -/
def mVcvt (src : LaneT) (h : BitVec 2) (o : VArith) : M Unit := do
  checkRegs (.vcvt src h o)
  let base ← rdS o.b
  let mask ← rdMask o.c
  let key := (← me).ctl.srk
  let d : VOpd := if src.elems < o.t.elems then inout o.d else out o.d
  vCourse src mask d o.a none fun d a _ =>
    Row.ofLanes fun l => cvtLane src o.t h.toNat o.rm o.sat base key l (d.lane l) (a.lane l)

def mVred (t : LaneT) (op : VOp) (d a : Spec) (c : Spec) : M Unit := do
  checkRegs (.vred t op d a c)
  let mask ← rdMask c
  checkVOps mask [{ r := a, rd := true, wr := false }]
  let x ← rdV t a
  wrS d (vredResult t op mask x)
  postIncrement [a]

def mVscan (t : LaneT) (sat : Bool) (op : VOp) (d a : Spec) (c : Spec) : M Unit := do
  checkRegs (.vscan t sat op d a c)
  let mask ← rdMask c
  vCourse t mask (out d) a none fun _ x _ => Row.ofLanes (vscanLane t sat op mask x)

def mVperm (o : VBin) : M Unit := do
  checkRegs (.vperm o)
  let mask ← rdMask o.c
  vCourse o.t mask (out o.d) o.a (some o.b) fun _ a b =>
    Row.ofLanes fun l => a.lane ((b.lane l).toNat % 32)

/-- DEDUCED, log entry 22: VBCAST of lw or ln reads a vector: its lane field selects the lane. -/
def mVbcast (t : LaneT) (d a : Spec) (c : Spec) (lane : BitVec 5) : M Unit := do
  checkRegs (.vbcast t d a c lane)
  let mask ← rdMask c
  vCourse t mask (out d) a none fun _ x _ => Row.splat (x.lane lane.toNat)

/-- Element n of a row, extended (R198). -/
def vextResult (t : LaneT) (n : Nat) (a : Row) : Word :=
  let x := laneElem t (a.lane (n / t.elems)) (n % t.elems)
  if t.isFloat then BitVec.ofNat 64 x else BitVec.ofInt 64 (t.toInt x)

def mVext (t : LaneT) (d a : Spec) (el : BitVec 7) : M Unit := do
  checkRegs (.vext t d a el)
  checkVOps (BitVec.allOnes 32) [{ r := a, rd := true, wr := false }]
  let x ← rdV t a
  wrS d (vextResult t el.toNat x)
  postIncrement [a]

/-- VCRAND on one lane (R203). -/
def vcrandLane (t : LaneT) (hi : Bool) (ctr key : Word) (l : Nat) : BitVec 32 :=
  let g := km10 (ctr + BitVec.ofNat 64 l) key
  let u : BitVec 32 := if hi then bits g 32 32 else bits g 0 32
  if t = .f32 then f32Rne (.fin false (bits u 8 24).toNat (-24)) else u

def mVcrand (hi : Bool) (o : VBin) : M Unit := do
  checkRegs (.vcrand hi o)
  let ctr ← rdS o.a
  let key ← rdS o.b
  let mask ← rdMask o.c
  checkVOps mask [out o.d]
  wrV o.d mask (Row.ofLanes (vcrandLane o.t hi ctr key))
  postIncrement [o.d]

/-! ### Loads, stores, gathers and scatters (R199, R200) -/

def mVld (t : LaneT) (d a : Spec) (c : Spec) (x : BitVec 48) : M Unit := do
  checkRegs (.vld t d a c x)
  let off := (← rdS a) + sext64 x
  let mask ← rdMask c
  let g ← checkRow off
  rowParks [{ off, g, rd := true, wr := false }]
  wrV d mask (← padRow (off.toNat / 128))

def mVst (t : LaneT) (a b : Spec) (c : Spec) (x : BitVec 48) : M Unit := do
  checkRegs (.vst t a b c x)
  let off := (← rdS a) + sext64 x
  let v ← rdV t b
  let mask ← rdMask c
  let g ← checkRow off
  let r : VRow := { off, g, rd := false, wr := true }
  rowFaults mask [] r
  rowParks [r]
  let old ← padRow r.ix
  putRow g r.ix (Row.merge mask old v)

/-- The offset of a lane's word: an unbounded integer, sA + 4 × index (R7, R200). -/
def laneOff (base : Word) (ix : BitVec 32) : Nat := base.toNat + 4 * ix.toNat

/-- The offsets of the masked lanes (R200). -/
def laneOffs (mask : BitVec 32) (base : Word) (ix : Row) : List (Nat × Nat) :=
  (List.range 32).filterMap fun l => if bitAt mask l then some (l, laneOff base (ix.lane l)) else none

/-- The checks of a gather or scatter: the first failing lane gives the fault. (DEDUCED, log entry 71.) -/
def checkLanes (base : Word) (offs : List (Nat × Nat)) (write : Bool) : M Unit := do
  if base.toNat % 4 ≠ 0 then fault 0x19 [base, 4]
  let gs ← offs.mapM fun p => do
    let g ← checkPad p.2 4 4
    if write && g.shared then fault 0x1A [BitVec.ofNat 64 p.2, 4]
    return (p.2, g)
  gs.forM fun p => do
    padFree p.1 4 write
    padFilled p.2 p.1 4

def mVgath (o : VBin) : M Unit := do
  checkRegs (.vgath o)
  let base ← rdS o.a
  let ix ← rdV o.t o.b
  let mask ← rdMask o.c
  checkLanes base (laneOffs mask base ix) false
  let s ← get
  let k := s.core s.me.coreNo
  wrV o.d mask (Row.ofLanes fun l =>
    if bitAt mask l then BitVec.ofNat 32 (k.padNat (laneOff base (ix.lane l)) 4) else 0)

def mVscat (o : VBin) : M Unit := do
  checkRegs (.vscat o)
  let src ← rdV o.t o.d
  let base ← rdS o.a
  let ix ← rdV o.t o.b
  let mask ← rdMask o.c
  let offs := laneOffs mask base ix
  checkLanes base offs true
  modCore (← myCore) fun k => offs.foldl (fun k p =>
    k.setRow (p.2 / 128) (rowSetBytes (k.row (p.2 / 128)) (p.2 % 128) (bytesOf 4 (src.lane p.1)))) k

/-! ### The transcendentals (R194, R195) -/

/-- The 16 words of a row. -/
def Row.words (x : Row) : List Word := (List.range 16).map fun k => bits x (64 * k) 64
def Row.ofWords (ws : List Word) : Row := ws.foldr (fun w (a : Row) => (a <<< 64) ||| w.setWidth 1024) 0

/-- Reads at issue, parks 4 to 12 cycles, writes when it resumes. -/
def vTrans (i : Instr) (f : Val → Val) (o : VTr) : M Unit := do
  checkRegs i
  let mask ← rdMask o.c
  stage 0 do
    checkVOps mask [out o.d, { r := o.a, rd := true, wr := false }]
    let a ← rdV .f32 o.a
    let n ← draw
    let s ← get
    let at_ := s.cycle + 4 + (Config.freeWord n).toNat % 9
    modMe fun c => { c with held := Row.words (Row.ofLanes fun l => transLane f (a.lane l)), until_ := some at_
                            expired := false }
    addTimer at_ (.transcendentalComplete s.cur)
  let c ← me
  parkUnless c.expired
  checkVOps mask [out o.d]
  wrV o.d mask (Row.ofWords c.held)
  postIncrement [o.d, o.a]

def mVrcp (o : VTr) : M Unit := vTrans (.vrcp o) fRcp o
def mVrsq (o : VTr) : M Unit := vTrans (.vrsq o) fRsq o
def mVsqrt (o : VTr) : M Unit := vTrans (.vsqrt o) fSqrt o
def mVexp2 (o : VTr) : M Unit := vTrans (.vexp2 o) fExp2 o
def mVlog2 (o : VTr) : M Unit := vTrans (.vlog2 o) fLog2 o

def Instr.isTrans : Instr → Bool
  | .vrcp _ | .vrsq _ | .vsqrt _ | .vexp2 _ | .vlog2 _ => true
  | _ => false

def mTranscendentalComplete (cx : Nat) : M Unit := expireIn cx Instr.isTrans

/-! ### Positions a unit takes (R176, R201) -/

/-- ⌈n / k⌉ of the fullest of the three banks. -/
def bankLoad (rows : List Nat) (k : Nat) : Nat :=
  ((List.range 3).map fun b => ceilDiv ((rows.filter fun r => r % 3 == b).length) k).foldl Nat.max 0

/-- The distinct rows that a class-3 instruction reads. -/
def vecReadRows (c : Ctx) (ops : List Spec) : List Nat :=
  ((ops.filterMap Spec.base?).map fun n => (c.getS n).toNat / 128).eraseDups

/-- The 32 lanes of an index operand before the instruction (R182, R213). -/
def foreseeRow (s : State) (c : Ctx) (r : Spec) : Row :=
  match r with
  | .v n => c.getV n
  | .lw => linkOf s c false
  | .ln => linkOf s c true
  | _ => 0

/-- Registers whose reads neither fault nor park. -/
def readable (c : Ctx) (rs : List Spec) : Bool := rs.all fun r => match c.regSt r with
  | .full | .prot _ none => true
  | _ => false

/-- The distinct rows that a gather or scatter touches (R201). -/
def laneRows (s : State) (c : Ctx) (o : VBin) : List Nat :=
  let mask : BitVec 32 := if o.c = .s 0 then BitVec.allOnes 32 else (foresee s c o.c).setWidth 32
  ((laneOffs mask (foresee s c o.a) (foreseeRow s c o.b)).map fun p => p.2 / 128).eraseDups

/-- Positions an instruction takes: three reads of one bank take two (R176); gathers and scatters by R201. One that will
not get past its register checks takes one. -/
def positions (s : State) (c : Ctx) (i : Instr) : Nat :=
  if !readable c i.srcs then 1
  else match i with
    | .vfma o | .vfms o => Nat.max 1 (bankLoad (vecReadRows c [o.d, o.a, o.b]) 2)
    | .vcvt src _ o => Nat.max 1 (bankLoad (vecReadRows c (if src.elems < o.t.elems then [o.d, o.a] else [o.a])) 2)
    | .vgath o => Nat.max 1 (bankLoad (laneRows s c o) 2)
    | .vscat o => Nat.max 1 (bankLoad (laneRows s c o) 1)
    | _ => 1

/-- The row that a scratchpad operand names before the instruction. -/
def operandRow (c : Ctx) (r : Spec) : List Nat := (Spec.base? r).toList.map fun n => (c.getS n).toNat / 128

/-- The rows for which the unit of an instruction asks a port at its issue, each with whether it writes it (R176). -/
def padRequests (s : State) (c : Ctx) (i : Instr) : List (Nat × Bool) :=
  let rd (rs : List Spec) : List (Nat × Bool) := (rs.flatMap (operandRow c)).map (·, false)
  let wr (r : Spec) : List (Nat × Bool) := (operandRow c r).map (·, true)
  let ea (a : Spec) (x : BitVec 48) : Nat := (effAddr (foresee s c a) x).toNat / 128
  match i with
  | .spld _ _ _ a x => [(ea a x, false)]
  | .spst _ a _ x => [(ea a x, true)]
  | .vld _ _ a _ x => [(((foresee s c a) + sext64 x).toNat / 128, false)]
  | .vst _ a _ _ x => [(((foresee s c a) + sext64 x).toNat / 128, true)]
  | .vgath o => (laneRows s c o).map (·, false)
  | .vscat o => (laneRows s c o).map (·, true)
  | .vfma o | .vfms o => rd [o.d, o.a, o.b] ++ wr o.d
  | .vadd o | .vsub o | .vmul o | .vcvt _ _ o => rd [o.a, o.b] ++ wr o.d
  | .vmin o | .vmax o | .vsel o | .vand o | .vor o | .vxor o | .vshl o | .vshr o | .vperm o | .vcmp _ o
  | .vcrand _ o => rd [o.a, o.b] ++ wr o.d
  | .vabs o | .vneg o => rd [o.a] ++ wr o.d
  | .vrcp o | .vrsq o | .vsqrt o | .vexp2 o | .vlog2 o => rd [o.a] ++ wr o.d
  | .vred _ _ d a _ | .vscan _ _ _ d a _ | .vbcast _ d a _ _ | .vext _ d a _ => rd [a] ++ wr d
  | .synst _ b _ _ | .mcastRow _ b _ _ _ => rd [b]
  | .synld d _ _ _ => wr d
  | _ => []

/-! ### The meanings -/

def execVadd (o : VArith) (s : State) := runI (mVadd o) (.vadd o) s
def execVsub (o : VArith) (s : State) := runI (mVsub o) (.vsub o) s
def execVmul (o : VArith) (s : State) := runI (mVmul o) (.vmul o) s
def execVfma (o : VArith) (s : State) := runI (mVfma o) (.vfma o) s
def execVfms (o : VArith) (s : State) := runI (mVfms o) (.vfms o) s
def execVmin (o : VBin) (s : State) := runI (mVmin o) (.vmin o) s
def execVmax (o : VBin) (s : State) := runI (mVmax o) (.vmax o) s
def execVabs (o : VUn) (s : State) := runI (mVabs o) (.vabs o) s
def execVneg (o : VUn) (s : State) := runI (mVneg o) (.vneg o) s
def execVsel (o : VBin) (s : State) := runI (mVsel o) (.vsel o) s
def execVand (o : VBin) (s : State) := runI (mVand o) (.vand o) s
def execVor (o : VBin) (s : State) := runI (mVor o) (.vor o) s
def execVxor (o : VBin) (s : State) := runI (mVxor o) (.vxor o) s
def execVshl (o : VBin) (s : State) := runI (mVshl o) (.vshl o) s
def execVshr (o : VBin) (s : State) := runI (mVshr o) (.vshr o) s
def execVrcp (o : VTr) (s : State) := runI (mVrcp o) (.vrcp o) s
def execVrsq (o : VTr) (s : State) := runI (mVrsq o) (.vrsq o) s
def execVsqrt (o : VTr) (s : State) := runI (mVsqrt o) (.vsqrt o) s
def execVexp2 (o : VTr) (s : State) := runI (mVexp2 o) (.vexp2 o) s
def execVlog2 (o : VTr) (s : State) := runI (mVlog2 o) (.vlog2 o) s
def execVperm (o : VBin) (s : State) := runI (mVperm o) (.vperm o) s
def execVgath (o : VBin) (s : State) := runI (mVgath o) (.vgath o) s
def execVscat (o : VBin) (s : State) := runI (mVscat o) (.vscat o) s
def execVcmp (cc : VCond) (o : VBin) (s : State) := runI (mVcmp cc o) (.vcmp cc o) s
def execVcvt (src : LaneT) (h : BitVec 2) (o : VArith) (s : State) := runI (mVcvt src h o) (.vcvt src h o) s
def execVred (t : LaneT) (op : VOp) (d a : Spec) (c : Spec) (s : State) := runI (mVred t op d a c) (.vred t op d a c) s
def execVscan (t : LaneT) (sat : Bool) (op : VOp) (d a : Spec) (c : Spec) (s : State) :=
  runI (mVscan t sat op d a c) (.vscan t sat op d a c) s
def execVbcast (t : LaneT) (d a : Spec) (c : Spec) (lane : BitVec 5) (s : State) :=
  runI (mVbcast t d a c lane) (.vbcast t d a c lane) s
def execVext (t : LaneT) (d a : Spec) (el : BitVec 7) (s : State) := runI (mVext t d a el) (.vext t d a el) s
def execVld (t : LaneT) (d a : Spec) (c : Spec) (x : BitVec 48) (s : State) :=
  runI (mVld t d a c x) (.vld t d a c x) s
def execVst (t : LaneT) (a b : Spec) (c : Spec) (x : BitVec 48) (s : State) :=
  runI (mVst t a b c x) (.vst t a b c x) s
def execVcrand (hi : Bool) (o : VBin) (s : State) := runI (mVcrand hi o) (.vcrand hi o) s
def execTranscendentalComplete (cx : Nat) (s : State) := runE (mTranscendentalComplete cx) s

end Sys2Proof.Machine
end

