-- ==== Sys2Proof/Machine/Lattice.lean ====
section
/-!
DEFINITION. Lattice memory at a home slice: locations, metadata, joins, triggers, freezing and exact values
(R119 to R133, R144).
-/

namespace Sys2Proof.Machine

/-- A place in a page: its entry, log2 of the page's bytes, the VA. -/
structure Loc where
  e : Entry
  size : Nat
  va : Pc
  deriving DecidableEq, Repr

namespace Loc

def off (x : Loc) : Nat := x.va.toNat % 2 ^ x.size
def pa (x : Loc) : Nat := Leaf.place x.e x.off
/-- Bytes of the location (R119). -/
def bytes (x : Loc) : Nat := Leaf.locBytes x.e
/-- Page offset of the location's first byte: tiles are counted from the page's base (R93). (DESIGN CHOICE, log entry 103.) -/
def base (x : Loc) : Nat := x.off / x.bytes * x.bytes
/-- The same location by its first address. -/
def canon (x : Loc) : Loc := { x with va := x.va - BitVec.ofNat 56 (x.off - x.base) }
def ofTlb (t : Tlb) (va : Pc) : Loc := { e := t.e, size := t.size, va }

/-- Bytes of the freeze unit (R131). -/
def unitBytes (x : Loc) : Nat :=
  match Leaf.jt x.e with
  | .fillt => Leaf.tileSize x.e
  | .fold => 2 ^ Leaf.param x.e * Leaf.ew x.e / 8
  | _ => 64
/-- Page offset of the freeze unit. -/
def unitBase (x : Loc) : Nat := x.off / x.unitBytes * x.unitBytes
/-- Numbers, in the page, of the lines of a run. -/
def lineRun (o n : Nat) : List Nat := (List.range ((o % 64 + n + 63) / 64)).map fun k => o / 64 + k
def unitLines (x : Loc) : List Nat := lineRun x.unitBase x.unitBytes

/-! ### Metadata (R124) -/

def lines (x : Loc) : Nat := 2 ^ x.size / 64
/-- Address of the word of line l. -/
def lineWordAt (x : Loc) (l : Nat) : Nat := Leaf.moff x.e + 4 * l
def lineWord (s : State) (x : Loc) (l : Nat) : BitVec 32 := BitVec.ofNat 32 (s.readNat (x.lineWordAt l) 4)
def freezeByteAt (x : Loc) (l : Nat) : Nat := Leaf.moff x.e + 4 * x.lines + l / 8
def lineFrozen (s : State) (x : Loc) (l : Nat) : Bool := bitAt (BitVec.ofNat 8 (s.readNat (x.freezeByteAt l) 1)) (l % 8)
/-- Address of the writer entry of the location. -/
def writerAt (x : Loc) : Nat := Leaf.moff x.e + 4 * x.lines + x.lines / 8 + 8 * (x.base / x.bytes)
def writers (s : State) (x : Loc) : BitVec 24 × BitVec 24 :=
  let w := s.readWord x.writerAt
  (bits w 0 24, bits w 24 24)

/-- Bit of the location in its line word: (filled, conflict). -/
def fillBits (x : Loc) : Nat × Nat :=
  match Leaf.jt x.e with
  | .fillt => (31, 30)
  | _ => (x.off % 64 / x.bytes, 16 + x.off % 64 / x.bytes)

/-- The unit shares a line with another. (DEDUCED, log entry 14.) -/
def shares (x : Loc) : Bool := x.unitBytes % 64 != 0
/-- The place of the unit. -/
def unitKey (x : Loc) : Nat := Leaf.place x.e x.unitBase
/-- The state of a unit that shares a line: its own once it is listed, else that of the line.
(DEDUCED, log entry 14.) -/
def unitSt (s : State) (x : Loc) : UnitSt :=
  let line (k : Nat) : Bool := bitAt (lineWord s x (x.off / 64)) k
  s.units.getD x.unitKey
    { filled := Leaf.jt x.e == .fillt && line 31, conflict := Leaf.jt x.e == .fillt && line 30
      frozen := x.unitLines.all (lineFrozen s x) }
/-- The unit at an offset of the page. -/
def atOff (x : Loc) (o : Nat) : Loc := { x with va := x.va - BitVec.ofNat 56 x.off + BitVec.ofNat 56 o }
/-- Lists the units that share a line with x, before the line's bits change, and changes that of x. -/
def modUnit (x : Loc) (f : UnitSt → UnitSt) (s : State) : State :=
  let z := x.unitBytes
  let first := x.unitBase / 64 * 64 / z
  let last := (x.unitBase / 64 * 64 + 64 * x.unitLines.length - 1) / z
  let us := ((List.range (last + 1 - first)).map fun k => x.atOff ((first + k) * z)).filter fun y => decide (y.va.toNat / 2 ^ x.size = x.va.toNat / 2 ^ x.size)
  let t := us.foldl (fun t y => { t with units := t.units.put y.unitKey (y.unitSt s) }) s
  { t with units := t.units.put x.unitKey (f (x.unitSt s)) }

/-- The location is filled; one of a CONST page, which has no backing, holds its pattern. -/
def filled (s : State) (x : Loc) : Bool :=
  if Leaf.const x.e then true
  else if Leaf.jt x.e == .fillt && x.shares then (x.unitSt s).filled else bitAt (lineWord s x (x.off / 64)) x.fillBits.1
def conflict (s : State) (x : Loc) : Bool :=
  if Leaf.const x.e then false
  else if Leaf.jt x.e == .fillt && x.shares then (x.unitSt s).conflict else bitAt (lineWord s x (x.off / 64)) x.fillBits.2

/-- Sets a bit of the line words of the location: every line of a tile. -/
def setLineBit (x : Loc) (bit : Nat) (s : State) : State :=
  (lineRun x.base x.bytes).foldl
    (fun s l => s.writeNat (x.lineWordAt l) 4 (setBit (lineWord s x l) bit true).toNat) s
/-- The location becomes filled, or enters CONFLICT. -/
def setFilled (x : Loc) (s : State) : State :=
  x.setLineBit x.fillBits.1
    (if Leaf.jt x.e == .fillt && x.shares then x.modUnit (fun u => { u with filled := true }) s else s)
def setConflict (x : Loc) (s : State) : State :=
  x.setLineBit x.fillBits.2
    (if Leaf.jt x.e == .fillt && x.shares then x.modUnit (fun u => { u with conflict := true }) s else s)

/-! ### Values -/

def read (s : State) (x : Loc) : List Byte :=
  (List.range x.bytes).map fun k =>
    if Leaf.const x.e then byteOf (Leaf.pattern x.e) ((x.base + k) % 8)
    else Memory.get s.mem (dramOf (Leaf.place x.e (x.base + k)))
def value (s : State) (x : Loc) : Nat := natOfBytes (x.read s)
def writeFrom (e : Entry) (o : Nat) (bs : List Byte) (s : State) : State :=
  match bs with
  | [] => s
  | b :: bs => writeFrom e (o + 1) bs (s.writeBytes (Leaf.place e o) [b])
def write (x : Loc) (bs : List Byte) (s : State) : State := writeFrom x.e x.base bs s

/-- The location is frozen: its page, or the line's bit (R130, R131, R133). -/
def frozen (s : State) (x : Loc) : Bool :=
  Leaf.frozen x.e || Leaf.const x.e
    || (Leaf.lattice x.e && if x.shares then (x.unitSt s).frozen else lineFrozen s x (x.off / 64))

/-- The ceiling of a count (R119). -/
def ceiling (x : Loc) : Nat :=
  let p := Leaf.param x.e
  if Leaf.jt x.e == .cntl then if p = 0 then 512 else 8 * p else if p = 0 then 64 else p

/-- min(popcount, ceiling) of a set (R119, R133). -/
def count (s : State) (x : Loc) : Nat := Nat.min (popcount (BitVec.ofNat 512 (x.value s))) x.ceiling

end Loc

/-! ### Joins (R119, R121, R126) -/

/-- Signed reading of w bits. -/
def sxNat (w v : Nat) : Int := if 2 ^ (w - 1) ≤ v then (v : Int) - 2 ^ w else v

/-- The join of two elements of w bits (R119). -/
def joinValue (jt : JT) (w old new : Nat) : Nat :=
  match jt with
  | .maxu => Nat.max old new
  | .minu => Nat.min old new
  | .maxs => if sxNat w old < sxNat w new then new else old
  | .mins => if sxNat w new < sxNat w old then new else old
  | _ => old ||| new

/-- No writer. -/
def noWriter : BitVec 24 := 0xFFFFFF

def putWriters (x : Loc) (m1 m2 : BitVec 24) (s : State) : State :=
  s.writeNat x.writerAt 8 (((0 : BitVec 16) ++ m2 ++ m1).toNat)

/-- A fill of a location by a thread (R121). -/
def fillLoc (x : Loc) (bs : List Byte) (t : BitVec 24) (s : State) : State :=
  if !x.filled s then (putWriters x t noWriter (x.write bs s)) |> x.setFilled
  else
    let differs := decide (bs ≠ x.read s)
    let (m1, m2) := x.writers s
    let s := if differs then x.setConflict s else s
    if t < m1 then putWriters x t (if differs then m1 else m2) (x.write bs s)
    else if differs then putWriters x m1 (if t < m2 then t else m2) s
    else s

/-- Why a home refuses a join (R126). -/
inductive JoinOut
  | ok (s : State)
  | bad (f : FaultRec)
  deriving DecidableEq, Repr

/-- Faults of a home name the address (R73, R74). (DEDUCED, log entry 26.) -/
def homeFault (code : BitVec 8) (va : Pc) (info : List Word) : FaultRec :=
  { code, info := va.setWidth 64 :: info, taddr := va, src := 1 }

/-- The join matches the page: JT and EW, and the tile's TG and FMT (R126); no join matches a CONST page (R135). -/
def joinMatches (e : Entry) (jt : JT) (w : Nat) (tg : BitVec 3) (fmt : BitVec 4) : Bool :=
  !Leaf.const e && Leaf.jt e == jt && Leaf.ew e == w && (jt != .fillt || (Leaf.tgCode e == tg && Leaf.fmtCode e == fmt))

/-- A join at its home, no mark in the way (R126); `v` the value or index, `data` the tile.
(DEDUCED, log entry 26.) -/
def applyJoin (x : Loc) (jt : JT) (w : Nat) (tg : BitVec 3) (fmt : BitVec 4) (v : Word) (data : List Byte)
    (t : BitVec 24) (s : State) : JoinOut :=
  if !joinMatches x.e jt w tg fmt then
    .bad (homeFault 0x12 x.va [(Leaf.jtCode x.e).setWidth 64, (JT.code jt).setWidth 64])
  else if (jt == .cnt && decide (64 ≤ v.toNat)) || (jt == .cntl && decide (512 ≤ v.toNat)) then
    .bad (homeFault 0x15 x.va [v])
  else if x.frozen s then .bad (homeFault 0x13 x.va [])
  else match jt with
    | .fillt => .ok (fillLoc x data t s)
    | .fill | .fold => .ok (fillLoc x (bytesOf (w / 8) v) t s)
    | .cnt | .cntl => .ok (x.write (bytesOf x.bytes (BitVec.ofNat 512 (x.value s) ||| BitVec.twoPow 512 v.toNat)) s)
    | _ => .ok (x.write (bytesOf (w / 8) (BitVec.ofNat 64 (joinValue jt w (x.value s) (v.toNat % 2 ^ w)))) s)

/-! ### Triggers (R129, R130) -/

/-- A trigger set is valid for a page (R130); none is the F-kind. -/
def triggersValid (x : Loc) (ts : Option (List Word)) : Bool :=
  let jt := Leaf.jt x.e
  let w := Leaf.ew x.e
  match ts with
  | none => Leaf.fillOnce x.e
  | some [g] => Leaf.lattice x.e && jt != .fillt &&
      ((jt != .cnt && jt != .cntl) || decide (g.toNat % 2 ^ w ≤ x.ceiling))
  | some gs => (jt == .fill || jt == .fold) && decide ((gs.map fun g => g.toNat % 2 ^ w).Nodup)

/-- The index of the trigger that the location passes (R119). -/
def passed (s : State) (x : Loc) (ts : Option (List Word)) : Option Nat :=
  let w := Leaf.ew x.e
  match ts with
  | none => if x.filled s then some 0 else none
  | some gs =>
    gs.findIdx? fun g =>
      let g := g.toNat % 2 ^ w
      let v := x.value s
      match Leaf.jt x.e with
      | .maxu => decide (g ≤ v)
      | .minu => decide (v ≤ g)
      | .maxs => decide (sxNat w g ≤ sxNat w v)
      | .mins => decide (sxNat w v ≤ sxNat w g)
      | .bor => v &&& g == g
      | .cnt | .cntl => decide (g ≤ x.count s)
      | .fill | .fold => x.filled s && v == g
      | _ => false

/-- What a threshold read is answered now (R122, R129). -/
inductive TrdOut
  | idx (n : Nat)
  | none_
  | conflict
  | wait
  deriving DecidableEq, Repr

def trdNow (s : State) (x : Loc) (ts : Option (List Word)) : TrdOut :=
  if Leaf.fillOnce x.e && x.conflict s then .conflict
  else match passed s x ts with
    | some n => .idx n
    | none => if x.frozen s then .none_ else .wait

/-! ### Freezing (R131) -/

/-- A record goes from a home to the mailbox of the die of a thread of another chip (R76, R368). -/
def recordAway (thread : BitVec 24) (r : Line) (home : Nat) (s : State) : State :=
  let far := threadAddr (bits thread 16 8) ((bits thread 14 2).toNat * 1024 + 1023) 0
  injected s.nextId
    { kind := .control, cx := nobody, thread := threadAddr s.chip (coreOfCluster home 0) 0, dst := 8192 + (bits thread 16 8).toNat
      far, data := bytesOf 64 r } home 8 { s with nextId := s.nextId + 1 }

/-- The report of R122 for a location: the die it goes to when m2 is none is that of its home.
(DEDUCED, log entry 27.) -/
def conflictReport (x : Loc) (home : Nat) (s : State) : State :=
  let x := x.canon
  let (m1, m2) := x.writers s
  let f : FaultRec := homeFault 0x14 x.va [m1.setWidth 64, m2.setWidth 64]
  let r := recordOf 0xFFFFF m2 0 f
  if m2 = noWriter then postRecord (home / 160) r s
  else if bits m2 16 8 = s.chip then postRecord (bits m2 14 2).toNat r s
  else recordAway m2 r home s

/-- The locations of a freeze unit. -/
def unitLocs (x : Loc) : List Loc :=
  (List.range (x.unitBytes / x.bytes)).map fun k => x.atOff (x.unitBase + k * x.bytes)

/-- Freezes a unit: the bits of its lines (R131), and its own where it shares a line. -/
def setFrozen (x : Loc) (s : State) : State :=
  x.unitLines.foldl
    (fun s l => s.writeNat (x.freezeByteAt l) 1
      (setBit (BitVec.ofNat 8 (s.readNat (x.freezeByteAt l) 1)) (l % 8) true).toNat)
    (if x.shares then x.modUnit (fun u => { u with frozen := true }) s else s)

/-- Reports of every location of the unit in CONFLICT. -/
def reportUnit (x : Loc) (home : Nat) (s : State) : State :=
  if Leaf.fillOnce x.e then
    (unitLocs x).foldl (fun s y => if y.conflict s then conflictReport y home s else s) s
  else s

/-! ### Exact values (R111, R133, R141) -/

/-- A location's bytes as an exact read sees them: empty locations read as 0. -/
def exactElem (s : State) (x : Loc) (k : Nat) : Byte :=
  let y : Loc := { x with va := x.va + BitVec.ofNat 56 k }
  if Leaf.const x.e then byteOf (Leaf.pattern x.e) (y.off % 8)
  else match Leaf.jt x.e with
  | .cnt | .cntl => byteOf (BitVec.ofNat 64 (y.count s)) (y.off % 8)
  | .fill | .fold | .fillt => if y.filled s then Memory.get s.mem (dramOf y.pa) else 0
  | _ => byteOf (coherentLine s y.pa) (y.pa % 64)

/-- The slots of a fold group. -/
def foldSlots (x : Loc) : List Loc :=
  (List.range (2 ^ Leaf.param x.e)).map fun k =>
    { x with va := x.va - BitVec.ofNat 56 (x.off - x.unitBase) + BitVec.ofNat 56 (k * x.bytes) }

/-- An exact read of the location faults with 0x14: it is in CONFLICT, or a slot of its fold group is (R131). -/
def Loc.spoiltRead (s : State) (x : Loc) : Bool :=
  if Leaf.jt x.e == .fold then (foldSlots x).any fun y => y.conflict s else x.conflict s

/-- The line of an exact read: bytes, and per byte whether it is filled and whether it is in CONFLICT. -/
def exactLine (s : State) (x : Loc) : List Byte × Word × Word :=
  let mark (f : Loc → Bool) : Word := (List.range 64).foldl
    (fun m k => if f { x with va := x.va + BitVec.ofNat 56 k } then setBit m k true else m) 0
  let fo := Leaf.fillOnce x.e
  ((List.range 64).map (exactElem s x), mark (fun y => !fo || y.filled s), mark (fun y => fo && y.spoiltRead s))

/-- The folded value of a group, or the slot in CONFLICT; whether any slot is filled (R111, R131). -/
def foldValue (s : State) (x : Loc) : Word × Bool × Option Loc :=
  let slots := foldSlots x
  let v (i : Nat) : Nat := match slots[i]? with
    | some y => if y.filled s then y.value s else 0
    | none => 0
  let r : Word := if Leaf.ew x.e = 32 then
      (treeNode f32Add (fun i => BitVec.ofNat 32 (v i)) (Leaf.param x.e) 0).setWidth 64
    else treeNode (· + ·) (fun i => BitVec.ofNat 64 (v i)) (Leaf.param x.e) 0
  (r, slots.any (fun y => y.filled s), slots.find? fun y => y.conflict s)

end Sys2Proof.Machine
end

