-- ==== Sys2Proof/Machine/Join.lean ====
section
/-!
DEFINITION. Class 2, join engine: JST to XFER, and the steps of the home slices and of acknowledgements
(R118, R126 to R145).
-/

namespace Sys2Proof.Machine

/-! ### Requests and replies -/

/-- The ordered flow of the requests of a context to one line (R127 rule 1, R357). -/
def joinFlow (cx pa : Nat) : Nat := 2 * (cx * 2 ^ 52 + pa / 64)

/-- A request of the current context to the home of a location. -/
def homeRequest (kind : PKind) (op : Nat) (t : Tlb) (va : Pc) (lane : Nat) (words : List Word) (data : List Byte)
    (flag : Bool) : M Unit := do
  let s ← get
  let c := s.me
  let _ ← sendPacket
    { kind, op, cx := s.cur, pc := c.pc, thread := c.thread, dst := homeDst s t va, far := homeThread t va, va, pa := t.pa va, e := t.e
      size := t.size, ord := 4096 * lane, words, data, flag, flow := some (joinFlow s.cur (Loc.ofTlb t va).canon.pa) }
    (clusterOf c.coreNo)

/-- A reply of a unit of a cluster to the context of a request. -/
def reply (p : Packet) (fromCluster : Nat) (faults : List FaultRec) (words : List Word) (data : List Byte)
    (flag : Bool) : M Unit :=
  sendAnswer p { kind := .answer, ord := p.ord, faults, words, data, flag } fromCluster

/-- A request at its home: not yet there, held behind a fence or its flow, refused with 0x41, or served (R125, R376). -/
def atHome (ev : Nat → Instr) (id : Nat) (serve : Packet → Nat → M Unit) : M Unit := do
  let s ← get
  match s.net.find id with
  | none => pure ()
  | some p =>
    let home := p.dst - 4096
    let units := lineUnits s home p.pa (Leaf.const p.e)
    if !p.arrived || flowBlocked s id p then keepPending (ev id)
    else if let some u := firstLasting s units then
      modify fun s => { s with net := s.net.del id }
      reply p home [{ code := 0x41, info := [u], taddr := p.va, src := 8 }] [] [] false
    else if anyFenced s units then keepPending (ev id)
    else serve p home

def Packet.loc (p : Packet) : Loc := { e := p.e, size := p.size, va := p.va }

/-- The marks on the lines of a location do not block path j. -/
def marksFree (s : State) (x : Loc) (write : Bool) : Bool :=
  (Loc.lineRun x.base x.bytes).all fun l => !markBlocks s (.line (Leaf.place x.e (l * 64))) 1 write

/-! ### JST, JSTV, BUMP (R138) -/

/-- The release rule (R127 rule 3). -/
def JT.release (jt : JT) : Bool := jt == .fill || jt == .fillt || jt == .fold || jt == .cnt || jt == .cntl

/-- Sends a join and counts it; a waiting form waits for it. -/
def sendJoin (wait : Bool) (t : Tlb) (va : Pc) (jt : JT) (w : Nat) (v : Word) (lane : Nat) : M Unit := do
  let op ← openOp .join true
  if wait then addWait op
  homeRequest .join op t va lane [(JT.code jt).setWidth 64, BitVec.ofNat 64 w, v] [] false

/-- The common part of JST, JSTV and BUMP: the sends happen once, then the waiting form waits. -/
def joinCourse (wait : Bool) (send : M Unit) : M Unit := do
  stage 0 send
  if wait then
    let _ ← waitAnswers

def mJst (jt : JT) (wait : Bool) (a b : Spec) (x : BitVec 48) : M Unit := do
  checkRegs (.jst jt wait a b x)
  joinCourse wait do
    let ea := effAddr (← rdS a) x
    let v ← rdS b
    let t ← translate .join ea
    let w := Leaf.ew t.e
    needAlign ea (w / 8)
    if JT.release jt then waitStq
    sendJoin wait t ea jt w v 0

/-- DEDUCED, log entry 30: FIX and FIXR wait for STQ = 0 also when nothing is to be frozen; JSTV with an empty mask
passes its release wait by. -/
def mJstv (jt : JT) (wait : Bool) (a : Spec) (b : BitVec 4) (c : Spec) (x : BitVec 48) : M Unit := do
  checkRegs (.jstv jt wait a b c x)
  joinCourse wait do
    let ea := effAddr (← rdS a) x
    let v ← rdVn b
    let mask ← rdMask c
    let t ← translate .join ea
    needAlign ea 128
    if mask ≠ 0 then
      if JT.release jt then waitStq
      (List.range 32).forM fun l =>
        whenM (bitAt mask l) (sendJoin wait t (ea + BitVec.ofNat 56 (4 * l)) jt 32 ((v.lane l).setWidth 64) l)

def mBump (cntl wait : Bool) (a b : Spec) (x : BitVec 48) : M Unit := do
  checkRegs (.bump cntl wait a b x)
  joinCourse wait do
    let ea := effAddr (← rdS a) x
    let v ← rdS b
    let t ← translate .join ea
    needAlign ea 8
    waitStq
    sendJoin wait t ea (if cntl then .cntl else .cnt) 64 v 0

/-! ### TFILL (R139) -/

/-- The checks of R173 for a run of an engine, aligned to its element size. -/
def checkRun (o : Word) (n al : Nat) : M Region := checkPad o.toNat n al

def TG.code' : TG → Nat
  | .t8 => 1 | .t16 => 2 | .t32 => 3 | .t64 => 4

/-- Marks rows for an operation of path `q` and sets UNF[q] (R34, R42). -/
def markRows (q : Nat) (o n : Nat) (write : Bool) (op : Nat) : M Unit := do
  let k ← myCore
  (rowsOf o n).forM fun r => placeMark (.row k r) q write op
  setUnfenced q none

/-- An earlier operation of the same context and path holds this one back on rows of a core (R37). -/
def rowsHeld (s : State) (core path cx op : Nat) (rows : List Nat) (write : Bool) : Bool :=
  rows.any fun r => heldBehind s (.row core r) path cx op write

/-- DEDUCED, log entry 28: a tile operand must be aligned to the tile size S: its VA modulo S is 0, for any S. -/
def mTfill (wait : Bool) (a b : Spec) (tg : TG) (fmt : Fmt) : M Unit := do
  checkRegs (.tfill wait a b tg fmt)
  joinCourse wait do
    let ea : Pc := (← rdS a).setWidth 56
    let o ← rdS b
    let t ← translate .join ea
    let ew := (Fmt.ew? fmt).getD 8
    let n := tileBytes fmt ew (tgElems (TG.code' tg))
    needAlign ea n
    let g ← checkRun o n (ew / 8)
    waitStq
    padFreePath 1 o.toNat n false
    padFilled g o.toNat n
    let op ← openOp .join true
    if wait then addWait op
    markRows 1 o.toNat n false op
    let s ← get
    let c := s.me
    -- the fill waits in the network interface until TFILL_SENT sends it
    modify fun s => { s with
      net := s.net.put op
        { kind := .record, op, cx := s.cur, pc := c.pc, thread := c.thread, dst := homeDst s t ea, far := homeThread t ea
          va := ea, pa := t.pa ea, e := t.e, size := t.size, flow := some (joinFlow s.cur (Loc.ofTlb t ea).canon.pa)
          words := [8, BitVec.ofNat 64 ew, 0, BitVec.ofNat 64 (TG.code' tg), (Fmt.code fmt).setWidth 64
            , BitVec.ofNat 64 c.coreNo, o, BitVec.ofNat 64 n] }
      pending := s.pending ++ [.tfillSent op] }

/-- TFILL_SENT: the tile leaves the interface and its read marks clear (R139). -/
def mTfillSent (op : Nat) : M Unit := do
  let s ← get
  match s.net.find op with
  | none => pure ()
  | some p =>
    let k := (p.words.getD 5 0).toNat
    let o := (p.words.getD 6 0).toNat
    let n := (p.words.getD 7 0).toNat
    if rowsHeld s k 1 p.cx op (rowsOf o n) false then keepPending (.tfillSent op)
    else
      sendAs op { p with kind := .join, data := (s.core k).readPad o n } (clusterOf k) 9
      clearMarks op

/-! ### TRD (R140) -/

/-- Cycle at which a limit of n rotations from now has ended (R140). -/
def limitCycle (s : State) (core n : Nat) : Nat :=
  (s.die (dieOfCore core)).resetAt + (s.rotation core + n + 1) * 16

/-- The limit of TRD.W runs from the rotation of issue, before any walk of its address (R140). -/
def startLimit : M Unit := do
  let s ← get
  let c := s.me
  if c.ctl.waitlim != 0 && c.until_.isNone then
    let n := if c.remain = 0 then c.ctl.waitlim.toNat else c.remain
    modMe fun c => { c with until_ := some (limitCycle s c.coreNo n), remain := 0 }

def mTrd (w : Bool) (trig : Trig) (d a : Spec) (x : BitVec 48) : M Unit := do
  checkRegs (.trd w trig d a x)
  let ea := effAddr (← rdS a) x
  stage 0 do
    whenM w startLimit
    let t ← translate .wait ea
    let _ ← applyPageRule .trd t ea
    let ts ← match trig with
      | .filled => pure none
      | .vals b m => do
        let l ← (List.range (m.toNat + 1)).mapM fun i => rdSn (b + BitVec.ofNat 5 i)
        pure (some l)
    if !triggersValid (Loc.ofTlb t ea) ts then fault 0x16 [ea.setWidth 64] ea
    let s ← get
    modMe fun c => { c with expired := false }
    match s.me.until_ with
    | some at_ => addTimer at_ (.waitLimitExpiry s.cur)
    | none => pure ()
    let op ← openOp .waiter false
    addWait op
    homeRequest .threshold op t ea 0 (ts.getD []) [] ts.isNone
    setPhase 1
    throw .park
  let c ← me
  if c.expired then fault 0x17 [ea.setWidth 64, c.ctl.waitlim.setWidth 64] ea
  let as ← waitAnswers
  delTimer (.waitLimitExpiry (← get).cur)
  wrS d ((as.getD 0 {}).words.getD 0 (BitVec.allOnes 64))

def Instr.isTrd : Instr → Bool
  | .trd .. => true
  | _ => false

/-- Withdraws the unanswered registrations of a context: at the home, and on the way there (R137, R140).
(DESIGN CHOICE, log entry 31.) -/
def withdraw (cx : Nat) (ops : List Nat) (s : State) : State :=
  let mine (p : Packet) : Bool := p.cx == cx && ops.contains p.op && p.kind == .threshold
  let out := ops.filter fun o => ((s.ctx cx).opens.find o).isSome
  -- each withdrawal is a join-path request (R354, R357)
  { s.modCtx cx (fun c => { ops.foldl Ctx.closeOp c with joinSeq := c.joinSeq + BitVec.ofNat 16 out.length }) with
    waiters := s.waiters.filter fun w => !(mine w.2.pkt)
    net := s.net.filter fun p => !(mine p.2) }

/-- WAIT_LIMIT_EXPIRY: an answer that has reached the core wins over the limit (R140).
(DESIGN CHOICE, log entry 31.) -/
def mWaitLimitExpiry (cx : Nat) : M Unit := do
  let s ← get
  let c := s.ctx cx
  let due := match c.until_ with
    | some t => decide (t ≤ s.cycle)
    | none => false
  let isTrd := match c.instr with
    | some i => Instr.isTrd i
    | none => false
  if due && isTrd && c.waits.any (fun w => (c.opens.find w).isSome) then
    modify fun s => (withdraw cx c.waits s).modCtx cx fun c => { c with expired := true }

/-! ### The home: joins, waiters, freezes, exact reads (R126, R129, R131, R133) -/

/-- The answer to a threshold read. -/
def answerTrd (p : Packet) (home : Nat) (r : TrdOut) : M Unit :=
  match r with
  | .idx n => reply p home [] [BitVec.ofNat 64 n] [] false
  | .none_ => reply p home [] [BitVec.allOnes 64] [] false
  | .conflict => reply p home [homeFault 0x14 p.va []] [] [] false
  | .wait => pure ()

def Packet.triggers (p : Packet) : Option (List Word) := if p.flag then none else some p.words

/-- Answers the waiters that a condition selects and that have an answer now, in registration order (R129). -/
def wake (sel : Loc → Bool) : M Unit := do
  let s ← get
  s.waiters.forM fun w => do
    let x := w.2.pkt.loc
    if sel x then
      match trdNow (← get) x w.2.pkt.triggers with
      | .wait => pure ()
      | r =>
        modify fun s => { s with waiters := s.waiters.del w.1 }
        answerTrd w.2.pkt w.2.home r

/-- An uncorrectable error or an erased key spoils a line of the location; a CONST page has no lines. -/
def locSpoilt (s : State) (x : Loc) (o n : Nat) : Bool :=
  !Leaf.const x.e && (Loc.lineRun o n).any fun l => lineSpoilt s (Leaf.place x.e (l * 64))

/-- JOIN_APPLY (R126). A spoilt location answers 0x40 before its index and its frozen state are looked at.
(DESIGN CHOICE, log entry 105.) -/
def mJoinApply (id : Nat) : M Unit :=
  atHome .joinApply id fun p home => do
    let s ← get
    let x := p.loc
    match JT.ofCode ((p.words.getD 0 0).setWidth 4) with
    | none => dropPacket id
    | some jt =>
      let w := (p.words.getD 1 0).toNat
      let tg : BitVec 3 := (p.words.getD 3 0).setWidth 3
      let fmt : BitVec 4 := (p.words.getD 4 0).setWidth 4
      let matched := joinMatches x.e jt w tg fmt
      if matched && !marksFree s x true then keepPending (.joinApply id)
      else if p.flag && matched && x.filled s then
        -- a fill of an empty word only (R340)
        dropPacket id
        reply p home [] [] [] false
      else if matched && locSpoilt s x x.base x.bytes then
        dropPacket id
        reply p home [uncorrectable p.pa p.va] [] [] false
      else
        dropPacket id
        match applyJoin x jt w tg fmt (p.words.getD 2 0) p.data p.thread s with
        | .bad f => reply p home [f] [] [] false
        | .ok t =>
          set { t with net := t.net.del id }
          reply p home [] [] [] false
          wake fun y => y.canon.pa == x.canon.pa

/-- Waiter entries of a slice (R129). -/
def waiterCap : Nat := 2048

/-- A registration reaches its home: it is answered, entered, or retried after 256 cycles (R129). -/
def register (ev : Nat → Instr) (id : Nat) : M Unit :=
  atHome ev id fun p home => do
    let s ← get
    let x := p.loc
    if !marksFree s x false then keepPending (ev id)
    else match trdNow s x p.triggers with
      | .wait =>
        if waiterCap ≤ (s.waiters.filter fun w => w.2.home == home).length then
          addTimer (s.cycle + 256) (.waiterRetry id)
        else
          let k ← freshId
          modify fun s => { s with net := s.net.del id, waiters := s.waiters.put k { home, pkt := p } }
      | r =>
        dropPacket id
        answerTrd p home r

def mThresholdRegister (id : Nat) : M Unit := register .thresholdRegister id
def mWaiterRetry (id : Nat) : M Unit := register .waiterRetry id

/-- FREEZE_APPLY (R131, R144): a frozen unit stays as it is. -/
def mFreezeApply (id : Nat) : M Unit :=
  atHome .freezeApply id fun p home => do
    let s ← get
    let x := p.loc
    if !(x.unitLines.all fun l => !markBlocks s (.line (Leaf.place x.e (l * 64))) 1 true) then
      keepPending (.freezeApply id)
    else
      dropPacket id
      if !x.frozen s then
        modify fun s => reportUnit x home (setFrozen x s)
        wake fun y => y.unitKey == x.unitKey
      reply p home [] [] [] false

/-- The answer to XRD (R133, R141): the value, and FLAGS.T. (DEDUCED, log entry 29.) -/
def exactValue (s : State) (x : Loc) : Option (Word × Bool) :=
  if Leaf.const x.e then some (BitVec.ofNat 64 (natOfBytes ((List.range (Leaf.ew x.e / 8)).map (exactElem s x))), true)
  else match Leaf.jt x.e with
  | .fold =>
    let r := foldValue s x
    if r.2.2.isSome then none else some (r.1, r.2.1)
  | .cnt | .cntl => some (BitVec.ofNat 64 (x.count s), true)
  | _ =>
    if Leaf.fillOnce x.e && x.conflict s then none
    else
      let v := natOfBytes ((List.range (Leaf.ew x.e / 8)).map (exactElem s x))
      some (BitVec.ofNat 64 v, !Leaf.fillOnce x.e || x.filled s)

/-- The locations of an exact read: the address itself, or the bytes of its line that the request names (R133, R142). -/
def exactLocs (p : Packet) : List Loc :=
  if p.flag then
    let m := p.words.getD 0 (BitVec.allOnes 64)
    ((List.range 64).filter fun k => bitAt m k).map fun k => { p.loc with va := p.va + BitVec.ofNat 56 k }
  else [p.loc]

/-- The lines that an exact read of a location reads, as a run of the page: of its fold group, or its own. -/
def exactRun (x : Loc) : Nat × Nat :=
  if Leaf.jt x.e == .fold then (x.unitBase, x.unitBytes) else (x.off / 64 * 64, 64)

/-- EXACT_READ (R133): answered once every freeze unit it reads is frozen; flag set: a line for XRDV and XRDT. A CONST page
has no backing, so no mark and no error. -/
def mExactRead (id : Nat) : M Unit :=
  atHome .exactRead id fun p home => do
    let s ← get
    let xs := exactLocs p
    let x := p.loc
    let run := exactRun x
    let lines := if Leaf.const x.e then [] else (Loc.lineRun run.1 run.2).map fun l => Leaf.place x.e (l * 64)
    if !(xs.all fun y => y.frozen s) || (lines.any fun l => markBlocks s (.line l) 1 false) then keepPending (.exactRead id)
    else
      dropPacket id
      lines.forM fun l => modify (pullLine l)
      let s ← get
      if locSpoilt s x run.1 run.2 then reply p home [uncorrectable p.pa p.va] [] [] false
      else if p.flag then
        let r := exactLine s x
        reply p home [] [r.2.1, r.2.2] r.1 false
      else match exactValue s x with
        | none => reply p home [homeFault 0x14 p.va []] [] [] false
        | some r => reply p home [] [r.1] [] r.2

/-- STQ_ACKNOWLEDGE: an answer or fault reply reaches its sender; the words of a multicast's name the cores of its
faults (R75, R127). -/
def mStqAcknowledge (id : Nat) : M Unit := do
  let s ← get
  match s.net.find id with
  | none => pure ()
  | some p =>
    if !p.arrived then keepPending (.stqAcknowledge id)
    else
      dropPacket id
      match ← gather p with
      | some q => gathered q
      | none => pure ()

/-! ### XRD, XRDV, XRDT (R141 to R143) -/

def mXrd (sx : Bool) (d a : Spec) (x : BitVec 48) : M Unit := do
  checkRegs (.xrd sx d a x)
  stage 0 do
    let ea := effAddr (← rdS a) x
    let t ← translate .wait ea
    let _ ← applyPageRule .xrd t ea
    needAlign ea (Leaf.ew t.e / 8)
    -- a folded group is 64 bits wide: FP32 bits zero-extended, or the sum
    modMe fun c => { c with held := [BitVec.ofNat 64 (if Leaf.jt t.e == .fold && !Leaf.const t.e then 64 else Leaf.ew t.e)] }
    let op ← openOp .read false
    addWait op
    homeRequest .exact op t ea 0 [] [] false
    setPhase 1
    throw .park
  let as ← waitAnswers
  let r := as.getD 0 {}
  let w := ((← me).held.getD 0 64).toNat
  let v := r.words.getD 0 0
  modFlags fun f => { f with t := r.flag }
  wrS d (if sx then sxLow w v else zxLow w v)

/-- Requests exact lines, in address order; `wants` says which bytes are read. -/
def requestLines (ls : List (Tlb × Pc)) (wants : Pc → Bool) : M Unit :=
  ls.forM fun p => do
    let op ← openOp .read false
    addWait op
    let m : Word := (List.range 64).foldl (fun m k => if wants (p.2 + BitVec.ofNat 56 k) then setBit m k true else m) 0
    homeRequest .exact op p.1 p.2 0 [m] [] true

/-- Byte k of the lines received, in the order of `ls`. -/
def exactByte (ls : List Pc) (as : List Ans) (va : Pc) : Byte :=
  match ls.findIdx? fun l => l == lineVa va with
  | some i => ((as.getD i {}).data).getD (va.toNat % 64) 0
  | none => 0

/-- Bit of word j of the line that holds an address. -/
def exactBit (ls : List Pc) (as : List Ans) (j : Nat) (va : Pc) : Bool :=
  match ls.findIdx? fun l => l == lineVa va with
  | some i => bitAt (((as.getD i {}).words).getD j 0) (va.toNat % 64)
  | none => false

/-- DEDUCED, log entry 71: readings of ranges: XRDV waits for the lines of the masked lanes; FIXR applies R135 to
each page of its range as FIX does; VGATH and VSCAT check the base's alignment also under an empty mask. -/
def mXrdv (o : LvOp) : M Unit := do
  checkRegs (.xrdv o)
  let ea := effAddr (← rdS o.a) o.x
  let mask ← rdMask o.c
  let want (eb k : Nat) : List Pc :=
    if bitAt mask (k / o.t.elems) then
      (List.range ((eb * (k + 1) - 1) / 8 - eb * k / 8 + 1)).map fun j => ea + BitVec.ofNat 56 (eb * k / 8 + j)
    else []
  let n := 32 * o.t.elems
  stage 0 do
    let t ← translate .wait ea
    let ew := Leaf.ew t.e
    let _ ← applyPageRule .xrd t ea
    needAlign ea (ew / 8)
    let f ← if mask = 0 then pure .raw else pageFormat t.e ea
    if mask ≠ 0 && !loadOk o.t f ew then refuseConv f ea true
    let ls ← (laneLines o.t f ew mask ea).mapM fun l => do
      let t ← translate .wait l
      let _ ← applyPageRule .xrd t l
      return (t, l)
    modMe fun c =>
      { c with held := [BitVec.ofNat 64 ew, (Fmt.code f).setWidth 64, BitVec.ofNat 64 (firstWeight t (elemBits f ew) ea)] }
    setPhase 1
    let read := (List.range n).flatMap (want (elemBits f ew))
    requestLines ls fun a => read.contains a
    if ls.isEmpty then pure () else throw .park
  let c ← me
  let ew := (c.held.getD 0 32).toNat
  let f := (Fmt.ofCode ((c.held.getD 1 0).setWidth 4)).getD .raw
  let ls := laneLines o.t f ew mask ea
  let as ← waitAnswers
  let eb := elemBits f ew
  let read := (List.range n).flatMap (want eb)
  match read.find? (exactBit ls as 1) with
  | some bad => raise (homeFault 0x14 bad [])
  | none => pure ()
  let sc ← freeScales f
  let bs := (List.range (eb * n / 8)).map fun k => exactByte ls as (ea + BitVec.ofNat 56 k)
  modFlags fun g => { g with t := read.all (exactBit ls as 0) }
  wrVm o.r mask (loadLanes o f ew c.ctl.srk ea mask bs (c.held.getD 2 0).toNat sc)

/-- Bytes of one element of a target format; the source's own for a bit copy. -/
def xrdtWidth (fmt : Fmt) (ew : Nat) : Nat := (Fmt.ew? fmt).getD ew

/-- A tile converted for XRDT: element (i, j) at i·Cc + j, the packed weights from their columns (R93, R96, R143).
(DESIGN CHOICE, log entry 12.) -/
def xrdtData (e : Entry) (fmt : Fmt) (sat : Bool) (rm : RMode) (key : Word) (bs : List Byte) (scales : Nat → Nat) :
    List Byte :=
  let src := (Fmt.ofCode (Leaf.fmtCode e)).getD .raw
  let ew := Leaf.ew e
  let eb := elemBits src ew
  let dw := xrdtWidth fmt ew
  let n := tgElems (Leaf.tgCode e).toNat
  if fmt = .raw then bs
  else (List.range n).flatMap fun k =>
    let idx : Word := BitVec.ofNat 64 k
    let cc := n / 32
    let at_ := if src = .int4g || src = .int3g then k % cc * 32 + k / cc else k
    bytesOf (dw / 8) (BitVec.ofNat 64 ((xrdtElem src fmt ew dw rm sat idx key (scales (k % cc)) (elemAt bs eb at_)).getD 0))

/-- DEDUCED, log entry 28: a tile operand must be aligned to the tile size S: its VA modulo S is 0, for any S.
DESIGN CHOICE, log entry 98: a page of TG 5 to 7 gives a raw XRDT no tile size, and it faults with 0x01 too.
(DEDUCED, log entry 29.) (DESIGN CHOICE, log entry 103.) -/
def mXrdt (fmt : Fmt) (sat : Bool) (d a : Spec) (rm : RMode) : M Unit := do
  checkRegs (.xrdt fmt sat d a rm)
  let o ← rdS d
  let ea : Pc := (← rdS a).setWidth 56
  stage 0 do
    let t ← translate .wait ea
    let ew := Leaf.ew t.e
    let src := (Fmt.ofCode (Leaf.fmtCode t.e)).getD .raw
    let size := Leaf.tileSize t.e
    let _ ← applyPageRule .xrd t ea
    if Leaf.tgCode t.e = 0 then fault 0x12 [ea.setWidth 64, (Leaf.jtCode t.e).setWidth 64] ea
    let _ ← if fmt = .raw then pure src else pageFormat t.e ea
    if size = 0 then fault 0x01 [] ea
    needAlign ea size
    if src = .bq16 || Leaf.bounded t.e then fault 0x18 [ea.setWidth 64] ea
    if fmt ≠ .raw && (xrdtElem src fmt ew (xrdtWidth fmt ew) rm sat 0 0 0 0).isNone then
      fault 0x01 [] ea
    let n := if fmt = .raw then size else tgElems (Leaf.tgCode t.e).toNat * xrdtWidth fmt ew / 8
    let g ← checkRun o n (xrdtWidth fmt ew / 8)
    if g.shared && (o.toNat % 128 ≠ 0 || n % 128 ≠ 0) then fault 0x1A [o, BitVec.ofNat 64 n]
    let ls ← (linesOf ea size).mapM fun l => do
      let t ← translate .wait l
      return (t, l)
    modMe fun c =>
      { c with held := [BitVec.ofNat 64 n, if g.shared then 1 else 0, bits t.e 0 64, bits t.e 64 64] }
    setPhase 1
    requestLines ls fun a => decide (ea.toNat ≤ a.toNat ∧ a.toNat < ea.toNat + size)
    throw .park
  let c ← me
  parkUnless (c.waits.all fun w => (c.opens.find w).isNone)
  let n := (c.held.getD 0 0).toNat
  let shared := c.held.getD 1 0 == 1
  let e : Entry := c.held.getD 3 0 ++ c.held.getD 2 0
  let size := Leaf.tileSize e
  padFreePath 1 o.toNat n true
  let as ← waitAnswers
  let ls := linesOf ea size
  if (List.range size).any fun k => exactBit ls as 1 (ea + BitVec.ofNat 56 k) then
    raise (homeFault 0x14 ea [])
  let bs := (List.range size).map fun k => exactByte ls as (ea + BitVec.ofNat 56 k)
  let sc ← freeScales (if fmt = .raw then .raw else (Fmt.ofCode (Leaf.fmtCode e)).getD .raw)
  let data := xrdtData e fmt sat rm c.ctl.srk bs sc
  let op ← if shared then openOp .join true else freshId
  markRows 1 o.toNat n true op
  modFlags fun f => { f with t := Leaf.jt e != .fillt || exactBit ls as 0 ea }
  modify fun s => { s with
    net := s.net.put op
      { kind := .record, op, cx := s.cur, pc := c.pc, thread := c.thread, va := ea, data, flag := shared
        words := [BitVec.ofNat 64 c.coreNo, o] }
    pending := s.pending ++ [.xrdtLanding op] }

/-- XRDT_LANDING: private bytes at once, shared rows in rising order; a full row waits, another writer refuses (R143). -/
def mXrdtLanding (op : Nat) : M Unit := do
  let s ← get
  match s.net.find op with
  | none => pure ()
  | some p =>
    let k := (p.words.getD 0 0).toNat
    let o := (p.words.getD 1 0).toNat
    let finish (faults : List FaultRec) : M Unit := do
      modify fun s => { s with net := s.net.del op }
      clearMarks op
      if p.flag then reply p (clusterOf k) faults [] [] false
    if rowsHeld s k 1 p.cx op (rowsOf o p.data.length) true then keepPending (.xrdtLanding op)
    else if !p.flag then
      modify fun s => s.modCore k fun c => c.writePad o p.data
      finish []
    else if p.data.isEmpty then finish []
    else
      let r := o / 128
      let x : Row := BitVec.ofNat 1024 (natOfBytes (p.data.take 128))
      match (s.core k).fill r x p.thread with
      | .second b => finish [secondWriter r b p.thread]
      | .full => keepPending (.xrdtLanding op)
      | .ok c =>
        modify fun s => { s.setCore k c with
          net := s.net.put op { p with data := p.data.drop 128, words := [p.words.getD 0 0, BitVec.ofNat 64 (o + 128)] } }
        clearMarkUnit op (.row k r)
        keepPending (.xrdtLanding op)

/-! ### FIX and FIXR (R144) -/

/-- The pages of a range in rising order: entry and first VA of the range in it. `n` bounds their number. -/
def rangePages (k : AccKind) (va : Nat) (stop : Nat) : Nat → M (List (Tlb × Nat × Nat))
  | 0 => pure []
  | n + 1 => do
    if stop ≤ va then return []
    let t ← translate k (BitVec.ofNat 56 va)
    let e := Nat.min stop ((va / 2 ^ t.size + 1) * 2 ^ t.size)
    return (t, va, e) :: (← rangePages k e stop n)

/-- The same, with a check made on each page before the next is translated. (DEDUCED, log entry 71.) -/
def checkedPages (k : AccKind) (a : PageAcc) (va stop : Nat) : Nat → M (List (Tlb × Nat × Nat × Bool))
  | 0 => pure []
  | n + 1 => do
    if stop ≤ va then return []
    let v : Pc := BitVec.ofNat 56 va
    let t ← translate k v
    let act ← applyPageRule a t v
    let e := Nat.min stop ((va / 2 ^ t.size + 1) * 2 ^ t.size)
    return (t, va, e, act) :: (← checkedPages k a e stop n)

/-- Upper bound of the pages of a range of n bytes. -/
def pageFuel (n : Nat) : Nat := n / 65536 + 2

/-- Sends the freezes of the units and waits for them. -/
def freezeUnits (us : List (Tlb × Pc)) : M Unit := do
  stage 1 do
    waitStq
    us.forM fun u => do
      let op ← openOp .freeze false
      addWait op
      homeRequest .freeze op u.1 u.2 0 [] [] false
  let _ ← waitAnswers

/-- The units of one page that cover va .. e. -/
def pageUnits (t : Tlb) (va e : Nat) : List (Tlb × Pc) :=
  let x := Loc.ofTlb t (BitVec.ofNat 56 va)
  let u := x.unitBytes
  let first := va - x.off + x.unitBase
  (List.range (ceilDiv (e - first) u)).map fun k => (t, BitVec.ofNat 56 (first + k * u))

/-- DEDUCED, log entry 30: FIX and FIXR wait for STQ = 0 also when nothing is to be frozen; JSTV with an empty mask
passes its release wait by. -/
def mFix (a : Spec) (x : BitVec 48) : M Unit := do
  checkRegs (.fix a x)
  if (← phase) = 2 then
    let _ ← waitAnswers
  else
    let ea := effAddr (← rdS a) x
    let t ← translate .freeze ea
    let act ← applyPageRule .fix t ea
    setPhase 1
    freezeUnits (if act then [(t, ea)] else [])

/-- DEDUCED, log entry 30: FIX and FIXR wait for STQ = 0 also when nothing is to be frozen; JSTV with an empty mask
passes its release wait by. An end of the range on a FROZENPAGE page is held to a unit boundary too (DESIGN CHOICE, log
entry 83). -/
def mFixr (a b : Spec) : M Unit := do
  checkRegs (.fixr a b)
  let n ← rdS b
  if n ≠ 0 then
    if (← phase) = 2 then
      let _ ← waitAnswers
    else
      let ea : Pc := (← rdS a).setWidth 56
      let stop := ea.toNat + n.toNat
      let ps ← checkedPages .freeze .fix ea.toNat stop (pageFuel n.toNat)
      let edge (t : Tlb) (va : Nat) : Bool :=
        let x := Loc.ofTlb t (BitVec.ofNat 56 va)
        x.off == x.unitBase
      match ps.head?, ps.getLast? with
      | some p, some q =>
        let x := Loc.ofTlb p.1 ea
        let y := Loc.ofTlb q.1 (BitVec.ofNat 56 (stop - 1))
        if !edge p.1 ea.toNat then fault 0x19 [ea.setWidth 64, BitVec.ofNat 64 x.unitBytes] ea
        if (y.off + 1) ≠ y.unitBase + y.unitBytes then fault 0x19 [ea.setWidth 64, BitVec.ofNat 64 y.unitBytes] ea
      | _, _ => pure ()
      setPhase 1
      freezeUnits (ps.flatMap fun p => if p.2.2.2 then pageUnits p.1 p.2.1 p.2.2.1 else [])

/-! ### PUB and XFER (R43, R118, R145) -/

/-- The check of R43 over a range. -/
def handoffCheck (lo n : Nat) : M Unit := do
  let c ← me
  let hi := lo + n - 1
  match (List.range 5).find? fun q => bitAt c.unf q && match c.env.find q with
      | some (l, h) => decide (0 < n) && decide (l.toNat ≤ hi) && decide (lo ≤ h.toNat)
      | none => false with
  | some q => fault 0x1B [BitVec.ofNat 64 q, BitVec.ofNat 64 lo, BitVec.ofNat 64 hi] (BitVec.ofNat 56 lo)
  | none => pure ()

/-- The cached translations that an invalidation names: of a page, of an address space, or all (R118, R375). -/
inductive TlbiScope
  | page | asid | all
  deriving DecidableEq, Repr

def TlbiScope.hits (k : TlbiScope) (asid : BitVec 16) (va : Pc) (t : Tlb) : Bool :=
  match k with
  | .page => t.hits asid va
  | .asid => t.asid == asid
  | .all => true

def TlbiScope.word : TlbiScope → Word
  | .page => 0 | .asid => 1 | .all => 2
def TlbiScope.ofWord (w : Word) : TlbiScope := if w = 0 then .page else if w = 1 then .asid else .all

/-- Drops the cached translations in scope of this package (R118). (DESIGN CHOICE, log entry 17.) -/
def dropCached (k : TlbiScope) (asid : BitVec 16) (va : Pc) (s : State) : State :=
  let keep (t : Tlb) : Bool := !k.hits asid va t
  { s with
    cores := s.cores.map fun c => (c.1, { c.2 with tlb := c.2.tlb.filter keep })
    clusters := s.clusters.map fun c => (c.1, { c.2 with tlb := c.2.tlb.filter keep }) }

/-- Walks in flight for the scope: a walk of the same 64 GiB, the largest page. (DESIGN CHOICE, log entry 17.) -/
def walksFor (s : State) (k : TlbiScope) (asid : BitVec 16) (va : Pc) : Bool :=
  s.dies.any fun d => d.2.walks.any fun w => match k with
    | .page => w.asid == asid && w.va.toNat / 2 ^ 36 == va.toNat / 2 ^ 36
    | .asid => w.asid == asid
    | .all => true

/-- The other chips that the chip route table reaches (R368). -/
def otherChips (s : State) : List Nat :=
  let t := (s.die 0).crtb
  if !bitAt t 0 then []
  else (List.range 256).filter fun c =>
    c != s.chip.toNat && bitAt (BitVec.ofNat 8 (s.readNat ((bits t 8 44).toNat * 256 + c) 1) : BitVec 8) 7

/-- What a chip asks of another chip's supervisor units in a packet of KIND 15: an invalidation, an entry to be written, the
reports of an unmapped page. -/
inductive Order
  | invalidate | mapw | unmap
  deriving DecidableEq, Repr

def Order.word : Order → Word
  | .invalidate => 0 | .mapw => 1 | .unmap => 2

/-- A packet of the current context to another chip, whose answer it waits for. -/
def askChip (p : Packet) (chip : Nat) : M Unit := do
  let s ← get
  let c := s.me
  let op ← openOp .other false
  addWait op
  let _ ← sendPacket
    { p with op, cx := s.cur, pc := c.pc, thread := c.thread, dst := 8192 + chip, far := BitVec.ofNat 8 chip ++ (0 : BitVec 16) }
    (clusterOf c.coreNo)

/-- Asks every other chip of the address space to drop its cached translations in scope (R118, R354, R375). The chips are
those that the chip route table reaches (DESIGN CHOICE, log entry 17). -/
def invalidateFar (kind : PKind) (k : TlbiScope) (asid : BitVec 16) (va : Pc) : M Unit := do
  (otherChips (← get)).forM fun ch =>
    askChip { kind, va, words := [Order.word .invalidate, TlbiScope.word k, asid.setWidth 64] } ch

/-- Writes bytes of one line of physical memory: here, or by a request to the chip that holds it, which the instruction
then waits for (R112, R368). -/
def writePhys (pa : Nat) (bs : List Byte) : M Unit := do
  let s ← get
  if s.here pa then modify fun s => s.writeBytes pa bs
  else
    let m : Word := (List.range bs.length).foldl (fun m k => setBit m (pa % 64 + k) true) 0
    askChip { kind := .lineReq, pa := pa / 64 * 64, flag := true, words := [m], data := List.replicate (pa % 64) 0 ++ bs } (chipOf pa)

/-- Rewrites the entry of a page and drops every cached copy of it in this package (R118). -/
def rewriteEntry (asid : BitVec 16) (t : Tlb) (e : Entry) : M Unit := do
  modify State.reclaimed
  writePhys t.at_ (bytesOf 16 e)
  modify (dropCached .page asid t.base)

/-- Once the entries are written, every cached copy of the old ones goes: in this package, where a walk may have read a table
of another chip before, and in the other chips (R118). -/
def invalidatePages : M Unit := do
  stage 1 do
    let _ ← waitAnswers
    let s ← get
    let c := s.me
    let far := c.pages.filter fun t => !s.here t.at_
    parkUnless (!(far.any fun t => walksFor s .page c.asid t.base) && !writingBack s fun p => c.pages.any fun t =>
      decide (Leaf.pa t.e ≤ p.pa) && decide (p.pa < Leaf.pa t.e + 2 ^ t.size))
    far.forM fun t => modify (dropCached .page c.asid t.base)
    modMe fun c => { c with waits := [] }
    c.pages.forM fun t => invalidateFar .inval .page c.asid t.base
  let _ ← waitAnswers

/-- Writes back and drops the L1 lines of a core that a condition selects (R169). -/
def flushL1 (core : Nat) (sel : L1Line → Bool) (s : State) : State :=
  let c := s.core core
  let s := writeBackLines core (c.l1.filter sel) s
  s.setCore core { c with l1 := c.l1.filter fun l => !sel l }

/-- The pages of a hand-off and its faults. -/
def handoffPages (acc : PageAcc) (ea : Pc) (n : Nat) : M (List (Tlb × Nat × Nat × Bool)) := do
  let ps ← checkedPages .handoff acc ea.toNat (ea.toNat + n) (pageFuel n)
  ps.forM fun p =>
    let z := 2 ^ p.1.size
    if ea.toNat % z ≠ 0 || n % z ≠ 0 then fault 0x19 [ea.setWidth 64, BitVec.ofNat 64 z] ea else pure ()
  return ps

/-- A leaf after PUB: JT 1, FROZENPAGE 1, OWNER 0. (DESIGN CHOICE, log entry 17.) -/
def pubEntry (e : Entry) : Entry := setBits (setBit (setBits e 3 (1 : BitVec 4)) 17 true) 108 (0 : BitVec 20)
/-- DESIGN CHOICE, log entry 17: PUB, XFER and TLBI change every translation cache in one step; TLBI parks while a
walk of its scope runs. -/
def xferEntry (e : Entry) (owner : BitVec 20) : Entry := setBits e 108 owner

def mPub (a b : Spec) : M Unit := do
  checkRegs (.pub a b)
  let ea : Pc := (← rdS a).setWidth 56
  let n := (← rdS b).toNat
  stage 0 do
    handoffCheck ea.toNat n
    if n ≠ 0 then
      let ps ← handoffPages .pub ea n
      waitStq
      let c ← me
      ps.forM fun p => rewriteEntry c.asid p.1 (pubEntry p.1.e)
  if n ≠ 0 then invalidatePages

def mXfer (a b c : Spec) : M Unit := do
  checkRegs (.xfer a b c)
  let ea : Pc := (← rdS a).setWidth 56
  let n := (← rdS b).toNat
  let to_ ← rdS c
  stage 0 do
    handoffCheck ea.toNat n
    if n ≠ 0 then
      let ps ← handoffPages .xfer ea n
      if 0xFFFFE < to_.toNat then fault 0x11 [ea.setWidth 64, to_] ea
      waitStq
      let c ← me
      ps.forM fun p => do
        modify (flushL1 c.coreNo fun l => l.asid == c.asid && l.va.toNat / 2 ^ p.1.size == p.1.base.toNat / 2 ^ p.1.size)
        rewriteEntry c.asid p.1 (xferEntry p.1.e (to_.setWidth 20))
  if n ≠ 0 then invalidatePages

/-! ### Page tables of this chip, for MAPW here and in other chips (R118, R122, R375) -/

/-- The reports of a page that MAPW unmaps: locations in CONFLICT that were never frozen (R122).
(DEDUCED, log entry 60.) -/
def unmapReports (l : LeafAt) (s : State) : State :=
  let n := if Leaf.fillOnce l.e then 2 ^ l.size / Leaf.locBytes l.e else 0
  (List.range n).foldl (fun t i =>
    let x : Loc := { e := l.e, size := l.size, va := BitVec.ofNat 56 (l.va + i * Leaf.locBytes l.e) }
    let tlb : Tlb := { asid := 0, base := BitVec.ofNat 56 l.va, size := l.size, e := l.e }
    if x.conflict s && !x.frozen s then conflictReport x (homeOfVa tlb x.va) t else t) s

/-- The fill-once pages that were mapped in one state and are not in another (R122). -/
def unmapped (s t : State) : List LeafAt :=
  let now := allLeaves t
  (allLeaves s).foldl (fun ls l =>
    if Leaf.fillOnce l.e && !(now.any fun m => m.at_ == l.at_ && Leaf.pa m.e == Leaf.pa l.e) && !(ls.any fun m => m.at_ == l.at_)
    then ls ++ [l] else ls) []

/-- The page of a leaf lies in another chip, which has its locations: the order to report them. -/
def unmapAway (cluster : Nat) (l : LeafAt) (s : State) : State :=
  injected s.nextId
    { kind := .order, cx := nobody, thread := threadAddr s.chip (coreOfCluster cluster 0) 0, dst := 8192 + chipOf (Leaf.pa l.e)
      far := BitVec.ofNat 8 (chipOf (Leaf.pa l.e)) ++ (0 : BitVec 16), va := BitVec.ofNat 56 l.va, e := l.e, size := l.size
      words := [Order.word .unmap] } cluster 9 { s with nextId := s.nextId + 1 }

/-- An entry of a table of this chip is written; the pages it unmaps report their conflicts (R122). -/
def mapwHere (cluster pa : Nat) (e : Entry) : M Unit := do
  modify State.reclaimed
  let s ← get
  modify fun s => s.writeBytes pa (bytesOf 16 e)
  modify State.reclaimed
  let t ← get
  (unmapped s t).forM fun l => modify (if s.here (Leaf.pa l.e) then unmapReports l else unmapAway cluster l)

/-- An order of another chip: it is answered once it is carried out; an invalidation waits for the walks in its scope.
(DESIGN CHOICE, log entry 17.) -/
def serveOrder (ev : Instr) (id : Nat) (p : Packet) : M Unit := do
  let w (k : Nat) : Word := p.words.getD k 0
  let done : M Unit := do
    dropPacket id
    reply p p.node [] [] [] false
  if w 0 = Order.word .mapw then
    mapwHere p.node p.pa (w 2 ++ w 1)
    done
  else if w 0 = Order.word .unmap then
    modify (unmapReports { at_ := 0, e := p.e, size := p.size, va := p.va.toNat })
    done
  else
    let k := TlbiScope.ofWord (w 1)
    modify (dropCached k ((w 2).setWidth 16) p.va)
    if walksFor (← get) k ((w 2).setWidth 16) p.va then keepPending ev else done

/-! ### The meanings -/

def execJst (jt : JT) (wait : Bool) (a b : Spec) (x : BitVec 48) (s : State) :=
  runI (mJst jt wait a b x) (.jst jt wait a b x) s
def execJstv (jt : JT) (wait : Bool) (a : Spec) (b : BitVec 4) (c : Spec) (x : BitVec 48) (s : State) :=
  runI (mJstv jt wait a b c x) (.jstv jt wait a b c x) s
def execTfill (wait : Bool) (a b : Spec) (tg : TG) (fmt : Fmt) (s : State) :=
  runI (mTfill wait a b tg fmt) (.tfill wait a b tg fmt) s
def execBump (cntl wait : Bool) (a b : Spec) (x : BitVec 48) (s : State) :=
  runI (mBump cntl wait a b x) (.bump cntl wait a b x) s
def execTrd (w : Bool) (trig : Trig) (d a : Spec) (x : BitVec 48) (s : State) :=
  runI (mTrd w trig d a x) (.trd w trig d a x) s
def execXrd (sx : Bool) (d a : Spec) (x : BitVec 48) (s : State) := runI (mXrd sx d a x) (.xrd sx d a x) s
def execXrdv (o : LvOp) (s : State) := runI (mXrdv o) (.xrdv o) s
def execXrdt (fmt : Fmt) (sat : Bool) (d a : Spec) (rm : RMode) (s : State) :=
  runI (mXrdt fmt sat d a rm) (.xrdt fmt sat d a rm) s
def execFix (a : Spec) (x : BitVec 48) (s : State) := runI (mFix a x) (.fix a x) s
def execFixr (a b : Spec) (s : State) := runI (mFixr a b) (.fixr a b) s
def execPub (a b : Spec) (s : State) := runI (mPub a b) (.pub a b) s
def execXfer (a b c : Spec) (s : State) := runI (mXfer a b c) (.xfer a b c) s

def execJoinApply (pkt : Nat) (s : State) := runE (mJoinApply pkt) s
def execThresholdRegister (pkt : Nat) (s : State) := runE (mThresholdRegister pkt) s
def execWaiterRetry (pkt : Nat) (s : State) := runE (mWaiterRetry pkt) s
def execFreezeApply (pkt : Nat) (s : State) := runE (mFreezeApply pkt) s
def execExactRead (pkt : Nat) (s : State) := runE (mExactRead pkt) s
def execStqAcknowledge (pkt : Nat) (s : State) := runE (mStqAcknowledge pkt) s
def execWaitLimitExpiry (cx : Nat) (s : State) := runE (mWaitLimitExpiry cx) s
def execTfillSent (op : Nat) (s : State) := runE (mTfillSent op) s
def execXrdtLanding (op : Nat) (s : State) := runE (mXrdtLanding op) s

end Sys2Proof.Machine
end

