-- ==== Sys2Proof/Machine/Matrix.lean ====
section
/-!
DEFINITION. Class 4: the matrix engine, its claims, its power ramp and the co-operative products (R108, R109,
R234 to R261).
-/

namespace Sys2Proof

/-! ### Formats of the pairs (R245) -/

def MPair.aFmt : MPair → FloatF
  | .e4e4 | .e4i4 | .e4i3 => .e4m3n
  | .e5e4 => .e5m2
  | .bf16 | .bfi4 | .bfi3 => .bf16

/-- The format of B; none for packed weights. -/
def MPair.bFmt : MPair → Option FloatF
  | .e4e4 | .e5e4 => some .e4m3n
  | .bf16 => some .bf16
  | _ => none

/-- Bits of a packed weight. -/
def MPair.wBits : MPair → Nat
  | .e4i3 | .bfi3 => 3
  | _ => 4

def MPair.ea (p : MPair) : Nat := p.aFmt.width / 8
def MPair.eb (p : MPair) : Nat := match p.bFmt with
  | some f => f.width / 8
  | none => 0
/-- Bytes of a group of 32 of B (R241). -/
def MPair.gb (p : MPair) : Nat := match p.bFmt with
  | some f => 32 * (f.width / 8)
  | none => 4 * p.wBits

/-- Cycles of an MMA at full rate (R239). -/
def MPair.cycles (p : MPair) (k : Nat) : Nat :=
  match p with
  | .bf16 | .bfi4 | .bfi3 => k
  | _ => k / 2

/-! ### Block sums (R108, R109) -/

/-- An exact value has no sign of zero: a zero S is +0 (R108). -/
def exactZero : Val → Val
  | .fin _ 0 _ => Val.zero
  | v => v

/-- The exact sum of products. -/
def blockSum (xs : List (Val × Val)) : Val := exactZero (xs.foldl (fun s p => s.add (p.1.mul p.2)) Val.zero)

/-- c := RoundRNE(c + RoundRNE(S, FP32), FP32). -/
def blockAdd (c : BitVec 32) (s : Val) : BitVec 32 := f32Add c (f32Rne s)

/-! ### Tiles -/

/-- The 32 × 32 elements, element (i, j) at bit 32·(32i + j). -/
abbrev TileData := BitVec 32768

def tileElem (t : TileData) (i j : Nat) : BitVec 32 := t.extractLsb' (32 * (32 * i + j)) 32
def tileOf (f : Nat → Nat → BitVec 32) : TileData :=
  (List.range 1024).foldr (fun k (a : TileData) => (a <<< 32) ||| (f (k / 32) (k % 32)).setWidth 32768) 0

end Sys2Proof

namespace Sys2Proof.Machine

/-! ### Claims (R235 to R237) -/

/-- A tile of a claim set: the own set of a context, or the wave set of the core. -/
def Tile.isFor (t : Tile) (wave : Bool) (cx : Nat) (n : BitVec 2) : Bool :=
  t.wave == wave && t.name == n && (wave || t.cx == cx)

def Core.tile (c : Core) (wave : Bool) (cx : Nat) (n : BitVec 2) : Option Tile :=
  c.tiles.find? fun t => t.isFor wave cx n

def Core.putTile (c : Core) (wave : Bool) (cx : Nat) (n : BitVec 2) (d : TileData) : Core :=
  { c with tiles := c.tiles.map fun t => if t.isFor wave cx n then { t with data := d } else t }

/-- Fault(0x29, tile). -/
def tileFault {α : Type} (n : BitVec 2) : M α := fault 0x29 [(Spec.code (.t n)).setWidth 64] 0 4

/-- R236: the name must be held in the set; in a wave step an absent name is wave-illegal. -/
def needTile (wave : Bool) (n : BitVec 2) : M Unit := do
  let s ← get
  match (s.core s.me.coreNo).tile wave s.cur n with
  | some _ => pure ()
  | none => if s.me.wave.isSome then fault 0x20 [s.me.pc.setWidth 64] 0 6 else tileFault n

def noStream : M Unit := do
  let s ← get
  parkUnless (!streamActive s s.me.coreNo)

/-- DESIGN CHOICE, log entry 37: claims of one array or tile that wait are served in the order in which they came,
and in one cycle by ascending core. -/
def mTclaim (w : Bool) (n : BitVec 2) : M Unit := do
  needUnit "TCLAIM"
  stage 0 do
    let s ← get
    let k := s.core s.me.coreNo
    if (k.tile w s.cur n).isSome || k.tileWait.any (fun x => x.2.1 == w && x.2.2 == n && (w || x.1 == s.cur)) then
      tileFault n
    modCore s.me.coreNo fun k => { k with tileWait := k.tileWait ++ [(s.cur, w, n)] }
  let s ← get
  let k := s.me.coreNo
  let c := s.core k
  if w then noStream
  -- earlier waiting claims that a stream does not hold back go first
  let before := c.tileWait.takeWhile fun x => x != (s.cur, w, n)
  parkUnless (decide (c.tiles.length < 4) && before.all fun x => x.2.1 && streamActive s k)
  modCore k fun c =>
    { c with
      tileWait := c.tileWait.filter fun x => x != (s.cur, w, n)
      tiles := c.tiles ++ [{ wave := w, cx := s.cur, name := n }] }

/-- The tile that a queued operation works on: set and name. -/
def matTile : Instr → Option (Bool × BitVec 2)
  | .mma o | .mmag o => some (false, o.d)
  | .tzero w n => some (w, n)
  | .tst _ _ _ o | .tld o => some (o.w, o.tile)
  | _ => none

/-- An accepted operation on the tile is not complete. -/
def tileBusy (k : Core) (w : Bool) (cx : Nat) (n : BitVec 2) : Bool :=
  k.matrix.queue.any fun o => matTile o.instr == some (w, n) && (w || o.cx == cx)

def mTrel (w : Bool) (n : BitVec 2) : M Unit := do
  needUnit "TREL"
  let s ← get
  let k := s.core s.me.coreNo
  match k.tile w s.cur n with
  | none => tileFault n
  | some t =>
    if w && t.cx != s.cur then tileFault n
    if w then noStream
    parkUnless (!tileBusy k w s.cur n)
    modCore s.me.coreNo fun k => { k with tiles := k.tiles.filter fun u => !(u.isFor w s.cur n) }

/-! ### The power ramp (R253, R254) -/

/-- Rate of a level in quarters. (DESIGN CHOICE, log entry 36.) -/
def levelRate : Nat → Nat
  | 0 => 0 | 1 => 1 | 2 => 2 | 3 => 3 | 4 => 4 | 5 => 3 | 6 => 2 | 7 => 1 | _ => 0

/-- Work done up to a cycle. (DESIGN CHOICE, log entry 36.) -/
def Matrix.account (m : Matrix) (now : Nat) : Matrix :=
  if m.queue.isEmpty then { m with prog := 0, progAt := Nat.max now m.progAt }
  else { m with prog := m.prog + levelRate m.level * (now - m.progAt), progAt := Nat.max now m.progAt }

/-- The level that an acceptance or an MHINT brings about (R253). -/
def levelUp : Nat → Nat
  | 0 => 1 | 5 => 3 | 6 => 2 | 7 => 1 | l => l

/-- The level 128 cycles after it was entered. -/
def levelStep : Nat → Nat
  | 1 => 2 | 2 => 3 | 3 => 4 | 5 => 6 | 6 => 7 | 7 => 0 | l => l

/-- Sets the timers that the state of an engine asks for. (DESIGN CHOICE, log entry 36.) -/
def armEngine (core : Nat) : M Unit := do
  let s ← get
  let m := (s.core core).matrix
  let thr := (s.die (dieOfCore core)).thr
  delTimer (.matrixOpComplete core)
  delTimer (.rampLevelStep core)
  delTimer (.rampIdleDescent core)
  match m.queue.head?, levelRate m.level with
  | some o, r + 1 => addTimer (m.progAt + ceilDiv (o.work - m.prog) (r + 1)) (.matrixOpComplete core)
  | _, _ => pure ()
  if levelStep m.level ≠ m.level && !(thr && m.level == 3 && !m.held) then addTimer (m.since + 128) (.rampLevelStep core)
  if m.level = 4 && m.queue.isEmpty && m.hint = 0 && !m.held then addTimer (m.idleSince + 640) (.rampIdleDescent core)

def modMatrix (core : Nat) (f : Matrix → Matrix) : M Unit := modCore core fun k => { k with matrix := f k.matrix }

/-- The level changes; the count of the new level begins. -/
def setLevel (core l : Nat) : M Unit := do
  let now := (← get).cycle
  modMatrix core fun m => { m.account now with level := l, since := now }
  armEngine core

/-- An operation is accepted: the level moves, a hint goes down by one (R253, R254). -/
def acceptOp (core : Nat) (o : MatOp) : M Unit := do
  let now := (← get).cycle
  modMatrix core fun m =>
    let m := m.account now
    let l := levelUp m.level
    { m with
      level := l, since := if l = m.level then m.since else now, queue := m.queue ++ [o]
      hint := m.hint - 1, hintAt := now }
  delTimer (.hintLapse core)
  if ((← get).core core).matrix.hint ≠ 0 then addTimer (now + 8192) (.hintLapse core)
  armEngine core

def mMhint (n : BitVec 16) : M Unit := do
  needUnit "MHINT"
  let core ← myCore
  let now := (← get).cycle
  modMatrix core fun m =>
    let m := m.account now
    let l := levelUp m.level
    { m with level := l, since := if l = m.level then m.since else now, hint := n.toNat, hintAt := now
             idleSince := if n = 0 && m.hint = 0 then m.idleSince else now }
  delTimer (.hintLapse core)
  if n ≠ 0 then addTimer (now + 8192) (.hintLapse core)
  armEngine core

def mHintLapse (core : Nat) : M Unit := do
  let s ← get
  let m := (s.core core).matrix
  if m.hint ≠ 0 && decide (m.hintAt + 8192 ≤ s.cycle) then
    modMatrix core fun m => { m with hint := 0, idleSince := s.cycle }
    armEngine core

def mRampLevelStep (core : Nat) : M Unit := do
  let s ← get
  let m := (s.core core).matrix
  let thr := (s.die (dieOfCore core)).thr
  if levelStep m.level ≠ m.level && decide (m.since + 128 ≤ s.cycle) && !(thr && m.level == 3) then
    setLevel core (levelStep m.level)

def mRampIdleDescent (core : Nat) : M Unit := do
  let s ← get
  let m := (s.core core).matrix
  if m.level = 4 && m.queue.isEmpty && m.hint = 0 && !m.held && decide (m.idleSince + 640 ≤ s.cycle) then
    setLevel core 5

/-! ### Operands (R240 to R243) -/

/-- A run of bytes that an operation reads or writes, and its alignment (R242). -/
structure Run4 where
  off : Nat
  len : Nat
  al : Nat
  deriving DecidableEq, Repr

/-- What R240, R241 and R246 fix of an MMA or MMAG. -/
structure MmaShape where
  pair : MPair
  m : Nat
  n : Nat
  kb : Nat
  kv : Nat
  brow : Bool
  rowA : Nat → Nat
  xa : Nat
  sb : Nat
  sbs : Nat
  xb : Nat
  scl : Nat

namespace MmaShape

def offA (z : MmaShape) (i kb kk : Nat) : Nat := z.rowA i + kb * z.xa + kk * z.pair.ea
/-- Start of the run of B that holds element (kb, kk) of column j: a group or column run, or a row run. -/
def offB (z : MmaShape) (kb kk j : Nat) : Nat :=
  if z.brow then z.sb + kb * z.xb + kk * z.sbs + j * z.pair.eb
  else z.sb + j * z.sbs + kb * z.xb + kk * z.pair.eb
def offS (z : MmaShape) (j kb : Nat) : Nat := z.scl + 2 * (j * z.kb + kb)

def runsA (z : MmaShape) : List Run4 :=
  (List.range z.m).flatMap fun i => (List.range z.kb).map fun kb =>
    { off := z.offA i kb 0, len := z.kv * z.pair.ea, al := z.pair.ea }
def runsB (z : MmaShape) : List Run4 :=
  if z.brow then
    (List.range z.kb).flatMap fun kb => (List.range z.kv).map fun kk =>
      { off := z.offB kb kk 0, len := z.n * z.pair.eb, al := z.pair.eb }
  else
    (List.range z.n).flatMap fun j => (List.range z.kb).map fun kb =>
      if z.pair.scaled then { off := z.offB kb 0 j, len := z.pair.gb, al := 4 }
      else { off := z.offB kb 0 j, len := z.kv * z.pair.eb, al := z.pair.eb }
def runsS (z : MmaShape) : List Run4 :=
  if z.pair.scaled then (List.range z.n).map fun j => { off := z.offS j 0, len := 2 * z.kb, al := 2 } else []

end MmaShape

/-- The check of one run (R242): INFO is its offset and length. (DEDUCED, log entry 27.) -/
def checkRun4 (r : Run4) : M Region := do
  let s ← get
  let k := s.core s.me.coreNo
  let bad {α : Type} (code : BitVec 8) : M α := fault code [BitVec.ofNat 64 r.off, BitVec.ofNat 64 r.len] 0 4
  if r.off % r.al ≠ 0 then bad 0x19
  match k.regionOf (r.off / 128) with
  | none => bad 0x1A
  | some g =>
    if !g.covers ((r.off + (r.len - 1)) / 128) then bad 0x1A
    else if !g.shared && g.cxid != s.me.cxid then bad 0x11
    else pure g

/-- The distinct rows of a list of runs. -/
def runRows (rs : List Run4) : List Nat := (rs.flatMap fun r => rowsOf r.off r.len).eraseDups

/-- Parks until the rows are free for a read or write of path m, and full where they are shared and read. -/
def runsReady (rs : List Run4) (write : Bool) : M Unit := do
  let s ← get
  let k := s.core s.me.coreNo
  (runRows rs).forM fun r => do
    padFreePath 3 (r * 128) 1 write
    if !write && k.isShared r then parkUnless (k.fillOf r).full

/-- No own uncompleted MMA, MMAG, TST or TLD, and a free queue entry (R238). -/
def engineReady (single : Bool) : M Unit := do
  let s ← get
  let q := (s.core s.me.coreNo).matrix.queue
  let counts : MatOp → Bool := fun o => o.cx == s.cur && match o.instr with
    | .tzero _ _ => false
    | _ => true
  parkUnless (decide (q.length < 8) && !(single && q.any counts))

/-- The descriptor of MMA and MMAG (R240). -/
def descWords (c : BitVec 5) : M (Word × Word) := do
  if c = 0 then return (0, 0)
  let w0 ← rdSn c
  let w1 ← rdSn (c + 1)
  return (w0, w1)

/-- The extents of an operation (R240, R246). -/
def extents (ext : Bool) (w0 : Word) : M (Nat × Nat) := do
  let c ← me
  if ext then return (c.ident.extm.toNat, c.ident.extn.toNat)
  else return ((bits w0 0 16).toNat, (bits w0 16 16).toNat)

/-- The shape of an MMA or MMAG from its operands (R241). -/
def mmaShape (gather : Bool) (o : MmaOp) (m n : Nat) (w0 w1 a b : Word) (idx : Row) : MmaShape :=
  let p := o.pair
  let kb := o.kb.toNat + 1
  let pick (x d : Nat) : Nat := if x = 0 then d else x
  let sa := pick o.sa.toNat (kb * 32 * p.ea)
  let sbs := pick o.sb.toNat (if o.brow then 32 * p.eb else kb * p.gb)
  { pair := p, m, n, kb, kv := 32 - (bits w0 32 5).toNat, brow := o.brow
    rowA := fun i => if gather then (bits w0 46 18).toNat + (idx.lane i).toNat * sa else a.toNat + i * sa
    xa := pick (bits w1 0 18).toNat (32 * p.ea)
    sb := b.toNat, sbs, xb := pick (bits w1 18 18).toNat (if o.brow then 32 * sbs else p.gb)
    scl := (bits w1 36 18).toNat }

/-- Value of a little-endian element in the scratchpad. -/
def Core.padVal (k : Core) (off n : Nat) : Nat := natOfBytes (k.readPad off n)

/-- MMA and MMAG at issue (R243, R246, R247, R248). -/
def mmaIssue (gather : Bool) (i : Instr) (o : MmaOp) : M Unit := do
  checkRegs i
  let (w0, w1) ← descWords o.c
  let b ← rdS o.b
  let a ← if gather then pure 0 else rdS o.a
  let idx ← if gather then rdV .u32 o.a else pure 0
  let (m, n) ← extents o.ext w0
  let z := mmaShape gather o m n w0 w1 a b idx
  let s ← get
  let core := s.me.coreNo
  if (← phase) = 0 then
    needTile false o.d
    if 32 < m || 32 < n || (o.pair.scaled && z.kv ≠ 32) then
      fault 0x28 [BitVec.ofNat 64 m, BitVec.ofNat 64 n, BitVec.ofNat 64 (32 * z.kb)] 0 4
  if m = 0 || n = 0 then pure ()
  else
    stage 0 do
      (z.runsA ++ z.runsB ++ z.runsS).forM fun r => do
        let _ ← checkRun4 r
      engineReady true
      runsReady z.runsA false
      let k := (← get).core core
      let latch := (List.range (m * z.kb * 32)).map fun e =>
        if e % 32 < z.kv then
          BitVec.ofNat 64 (k.padVal (z.offA (e / 32 / z.kb) (e / 32 % z.kb) (e % 32)) z.pair.ea)
        else 0
      modMe fun c => { c with held := latch }
    engineReady true
    runsReady (z.runsB ++ z.runsS) false
    let c ← me
    let id ← freshId
    (runRows (z.runsB ++ z.runsS)).forM fun r => placeMark (.row core r) 3 false id
    setUnfenced 3 none
    acceptOp core
      { id, cx := (← get).cur, thread := c.thread, pc := c.pc, instr := i
        args := [w0, w1, a, b, BitVec.ofNat 64 m, BitVec.ofNat 64 n], latch := c.held
        work := 4 * o.pair.cycles (32 * z.kb) }

def mMma (o : MmaOp) : M Unit := do
  needUnit "MMA"
  mmaIssue false (.mma o) o
def mMmag (o : MmaOp) : M Unit := do
  needUnit "MMAG"
  mmaIssue true (.mmag o) o

/-- The value of element (kb, kk) of column j of B. -/
def bVal (k : Core) (z : MmaShape) (kb kk j : Nat) : Val :=
  match z.pair.bFmt with
  | some f => f.value (k.padVal (z.offB kb kk j) z.pair.eb)
  | none =>
    let w := z.pair.wBits
    let c := k.padVal (z.offB kb 0 j) z.pair.gb / 2 ^ (w * kk) % 2 ^ w
    .ofInt (sxNat w c)

/-- The new tile of an MMA or MMAG (R108, R246). -/
def mmaResult (k : Core) (z : MmaShape) (latch : List Word) (old : TileData) : TileData :=
  let aVal (i kb kk : Nat) : Val := z.pair.aFmt.value ((latch.getD ((i * z.kb + kb) * 32 + kk) 0).toNat)
  tileOf fun i j =>
    if i < z.m ∧ j < z.n then
      (List.range z.kb).foldl (fun c kb =>
        let s := blockSum ((List.range z.kv).map fun kk => (aVal i kb kk, bVal k z kb kk j))
        let s := if z.pair.scaled then exactZero (s.mul (FloatF.bf16.value (k.padVal (z.offS j kb) 2))) else s
        blockAdd c s) (tileElem old i j)
    else tileElem old i j

/-! ### TZERO, TST, TLD (R250 to R252) -/

def mTzero (w : Bool) (n : BitVec 2) : M Unit := do
  needUnit "TZERO"
  let s ← get
  let core := s.me.coreNo
  if s.me.wave.isSome then
    needTile true n
    modCore core fun k => k.putTile true 0 n 0
  else
    needTile w n
    if w then noStream
    engineReady false
    let id ← freshId
    acceptOp core { id, cx := s.cur, thread := s.me.thread, pc := s.me.pc, instr := .tzero w n, work := 8 }

/-- Bytes of an element in the scratchpad. -/
def tioZ (o : TileIo) : Nat := (Fmt.ew? o.fmt).getD 32 / 8
/-- The row runs of TST and TLD. -/
def tioRuns (o : TileIo) (off : Word) (m n : Nat) : List Run4 :=
  let st := if o.st = 0 then n * tioZ o else o.st.toNat
  (List.range m).map fun i => { off := off.toNat + i * st, len := n * tioZ o, al := tioZ o }

/-- The course of TST and TLD (R251, R252). -/
def tileIo (i : Instr) (o : TileIo) (write : Bool) (base : Word) : M Unit := do
  let off ← rdS o.off
  let w0 ← rdS o.c
  let (m, n) ← extents o.ext w0
  let s ← get
  let core := s.me.coreNo
  let rs := tioRuns o off m n
  if (← phase) = 0 then
    needTile o.w o.tile
    if 32 < m || 32 < n then fault 0x28 [BitVec.ofNat 64 m, BitVec.ofNat 64 n, 0] 0 4
  if m = 0 || n = 0 then pure ()
  else
    stage 0 do
      rs.forM fun r => do
        let _ ← checkRun4 r
      let k := (← get).core core
      rs.forM fun r => do
        if write && k.isShared (r.off / 128) && (r.off % 128 ≠ 0 || r.len ≠ 128) then
          fault 0x1A [BitVec.ofNat 64 r.off, BitVec.ofNat 64 r.len] 0 4
    if o.w then noStream
    engineReady true
    if write then
      rs.forM fun r => do
        let k := (← get).core core
        if k.isShared (r.off / 128) then
          match k.regionOf (r.off / 128) with
          | some g => rowFillable g (r.off / 128)
          | none => pure ()
    runsReady rs write
    let c ← me
    let id ← freshId
    (runRows rs).forM fun r => placeMark (.row core r) 3 write id
    setUnfenced 3 none
    acceptOp core
      { id, cx := (← get).cur, thread := c.thread, pc := c.pc, instr := i
        args := [off, BitVec.ofNat 64 m, BitVec.ofNat 64 n, base, c.ctl.srk], work := 4 * m }

def mTst (sat : Bool) (rm : RMode) (d : Spec) (o : TileIo) : M Unit := do
  needUnit "TST"
  checkRegs (.tst sat rm d o)
  let base ← rdS d
  tileIo (.tst sat rm d o) o true base

def mTld (o : TileIo) : M Unit := do
  needUnit "TLD"
  checkRegs (.tld o)
  tileIo (.tld o) o false 0

/-- One element of TST (R251). -/
def tstElem (fmt : Fmt) (sat : Bool) (rm : RMode) (g key : Word) (x : BitVec 32) : Nat :=
  if fmt = .fp32 then x.toNat
  else match fmt.num? false with
    | some n => n.round rm sat g key (f32Val x)
    | none => 0

/-- One element of TLD (R252). -/
def tldElem (fmt : Fmt) (code : Nat) : BitVec 32 :=
  if fmt = .fp32 then BitVec.ofNat 32 code
  else match fmt.num? false with
    | some n => f32Rne (n.value code)
    | none => 0

/-! ### MATRIX_OP_COMPLETE -/

/-- Takes the first operation off the queue; the engine goes on with the next. -/
def finishOp (core : Nat) (o : MatOp) : M Unit := do
  clearMarks o.id
  let now := (← get).cycle
  modMatrix core fun m =>
    { m with queue := m.queue.filter fun q => q.id != o.id, prog := 0, progAt := Nat.max now m.progAt, idleSince := now }
  armEngine core

/-- Writes the rows of a TST; a shared row is a fill (R174, R251). (DEDUCED, log entry 32.) -/
def tstWrite (core : Nat) (o : MatOp) : List (Nat × List Byte) → M Bool
  | [] => pure true
  | (off, bs) :: rest => do
    let k := (← get).core core
    if k.isShared (off / 128) then
      match k.fill (off / 128) (BitVec.ofNat 1024 (natOfBytes bs)) o.thread with
      | .ok k => modCore core fun _ => k
      | .full => if (k.row (off / 128)).toNat ≠ natOfBytes bs then return false
      | .second b => modify fun s => s.modCtx o.cx fun c =>
          { c with owed := insertOwed { op := o.id, ord := off / 128, fault := secondWriter (off / 128) b o.thread } c.owed }
    else modCore core fun k => k.writePad off bs
    tstWrite core o rest

/-- MATRIX_OP_COMPLETE: the first operation of the queue takes effect (R243 to R252). An operation on a wave-set tile that
was released before it was accepted reads zeros and writes nothing (DESIGN CHOICE, log entry 87). -/
def mMatrixOpComplete (core : Nat) : M Unit := do
  let s ← get
  let now := s.cycle
  let m := (s.core core).matrix.account now
  match m.queue.head? with
  | none => pure ()
  | some o =>
    if m.prog < o.work then pure ()
    else
      let k := s.core core
      let arg (n : Nat) : Word := o.args.getD n 0
      let tile (w : Bool) (n : BitVec 2) : TileData := ((k.tile w o.cx n).map (·.data)).getD 0
      match o.instr with
      | .mma a =>
        let z := mmaShape false a (arg 4).toNat (arg 5).toNat (arg 0) (arg 1) (arg 2) (arg 3) 0
        modCore core fun k => k.putTile false o.cx a.d (mmaResult k z o.latch (tile false a.d))
        finishOp core o
      | .mmag a =>
        let z := mmaShape true a (arg 4).toNat (arg 5).toNat (arg 0) (arg 1) 0 (arg 3) 0
        modCore core fun k => k.putTile false o.cx a.d (mmaResult k z o.latch (tile false a.d))
        finishOp core o
      | .tzero w n =>
        modCore core fun k => k.putTile w o.cx n 0
        finishOp core o
      | .tst sat rm _ a =>
        let t := tile a.w a.tile
        let n := (arg 2).toNat
        let rows := (tioRuns a (arg 0) (arg 1).toNat n).mapIdx fun i r =>
          (r.off, (List.range n).flatMap fun j =>
            bytesOf (tioZ a) (BitVec.ofNat 64 (tstElem a.fmt sat rm (arg 3 + BitVec.ofNat 64 (32 * i + j)) (arg 4)
              (tileElem t i j))))
        if ← tstWrite core o rows then finishOp core o else keepPending (.matrixOpComplete core)
      | .tld a =>
        let t := tile a.w a.tile
        let rs := tioRuns a (arg 0) (arg 1).toNat (arg 2).toNat
        let new : TileData := tileOf fun i j =>
          match rs[i]? with
          | some r => if j < (arg 2).toNat then tldElem a.fmt (k.padVal (r.off + j * tioZ a) (tioZ a)) else tileElem t i j
          | none => tileElem t i j
        modCore core fun k => k.putTile a.w o.cx a.tile new
        finishOp core o
      | _ => finishOp core o

/-! ### WMMA (R256 to R260) -/

/-- A chunk at a scratchpad offset: eight rows. -/
def readChunk (off : Word) : M (BitVec 8192) := do
  let _ ← checkPad off.toNat 1024 128
  let s ← get
  return ofBytes 8192 ((s.core s.me.coreNo).readPad off.toNat 1024)

/-- The latest chunk recorded before a step. -/
def latchAt (l : List (LinkVal 8192)) (before : Nat) : BitVec 8192 :=
  match l.find? fun x => decide (x.step < before) with
  | some x => x.val
  | none => 0

/-- The wave part of the neighbour whose latch a core reads. -/
def neighbourWave (s : State) (core sNo : Nat) : WavePart := ((s.ctx (2 ^ 20 + core * 2 + sNo)).wave).getD {}

/-- Element of a chunk: row or column x, position kk. -/
def chunkElem (c : BitVec 8192) (x kk : Nat) : Nat := (byteOf c (32 * x + kk)).toNat

/-- The new tile of a WMMA step (R259). -/
def wmmaResult (fa : FloatF) (a b : BitVec 8192) (old : TileData) : TileData :=
  tileOf fun i j => blockAdd (tileElem old i j)
    (blockSum ((List.range 32).map fun kk =>
      (fa.value (chunkElem a i kk), FloatF.e4m3n.value (chunkElem b j kk))))

/-- DEDUCED, log entry 69: WMMA checks the states of both its offset registers, also on a core that takes its chunk
from a latch. -/
def mWmma (e5 ia ib nl wl : Bool) (d : BitVec 2) (a b : BitVec 5) : M Unit := do
  needUnit "WMMA"
  let s ← get
  let c := s.me
  match c.wave with
  | none => fault 0x01
  | some w =>
    checkRegs (.wmma e5 ia ib nl wl d a b)
    let core := c.coreNo
    needTile true d
    let t := s.streams.getD w.stream {}
    let ra := !wl || colOfCore core == t.col0
    let rb := !nl || rowOfCore core == t.row0
    let ach ← if ra then readChunk (← rdSn a)
      else pure (latchAt (neighbourWave s (core - 1) t.s).east (w.step + 1))
    let bch ← if rb then readChunk (← rdSn b)
      else pure (latchAt (neighbourWave s (core - 32) t.s).south (if t.diag then w.step + 1 else w.step))
    let fa : FloatF := if e5 then .e5m2 else .e4m3n
    modCore core fun k => match k.tile true s.cur d with
      | some old => k.putTile true s.cur d (wmmaResult fa ach bch old.data)
      | none => k
    let put (l : List (LinkVal 8192)) (x : BitVec 8192) : List (LinkVal 8192) :=
      ({ step := w.step, val := x } :: l.filter fun y => y.step != w.step).take 8
    modMe fun c => { c with wave := c.wave.map fun w => { w with east := put w.east ach, south := put w.south bch } }
    if ra && ia then modMe fun c => c.putS a (c.getS a + 1024)
    if rb && ib then modMe fun c => c.putS b (c.getS b + 1024)
    -- an ordinary operation of the engine pauses for 16 cycles (R260)
    modMatrix core fun m => { m.account s.cycle with progAt := Nat.max s.cycle m.progAt + 16 }
    armEngine core

/-! ### The meanings -/

def execMma (o : MmaOp) (s : State) := runI (mMma o) (.mma o) s
def execMmag (o : MmaOp) (s : State) := runI (mMmag o) (.mmag o) s
def execWmma (e5 ia ib nl wl : Bool) (d : BitVec 2) (a b : BitVec 5) (s : State) :=
  runI (mWmma e5 ia ib nl wl d a b) (.wmma e5 ia ib nl wl d a b) s
def execTclaim (w : Bool) (tile : BitVec 2) (s : State) := runI (mTclaim w tile) (.tclaim w tile) s
def execTrel (w : Bool) (tile : BitVec 2) (s : State) := runI (mTrel w tile) (.trel w tile) s
def execTzero (w : Bool) (tile : BitVec 2) (s : State) := runI (mTzero w tile) (.tzero w tile) s
def execTst (sat : Bool) (rm : RMode) (d : Spec) (o : TileIo) (s : State) := runI (mTst sat rm d o) (.tst sat rm d o) s
def execTld (o : TileIo) (s : State) := runI (mTld o) (.tld o) s
def execMhint (n : BitVec 16) (s : State) := runI (mMhint n) (.mhint n) s
def execMatrixOpComplete (core : Nat) (s : State) := runE (mMatrixOpComplete core) s
def execRampLevelStep (core : Nat) (s : State) := runE (mRampLevelStep core) s
def execRampIdleDescent (core : Nat) (s : State) := runE (mRampIdleDescent core) s
def execHintLapse (core : Nat) (s : State) := runE (mHintLapse core) s

end Sys2Proof.Machine
end

