-- ==== Sys2Proof/Machine/Analog.lean ====
section
/-!
DEFINITION. Class 5, the crossbar arrays: ACLAIM, AREL, AWR, AVFY, ACAL, AMVM, ASTAT, BLD.buf and the steps of the
arrays (R262 to R280, R285).
-/

namespace Sys2Proof

/-! ### Bounded lanes (R281) -/

/-- A pair (v, β) of FP32 codes. -/
structure BLane where
  v : BitVec 32
  b : BitVec 32
  deriving DecidableEq, Repr

/-- +∞ of FP32. -/
def f32Inf : BitVec 32 := 0x7F800000

def BReg.lane (r : BReg) (l : Nat) : BLane := { v := r.extractLsb' (64 * l) 32, b := r.extractLsb' (64 * l + 32) 32 }
def BReg.ofLanes (f : Nat → BLane) : BReg :=
  (List.range 32).foldr (fun l (a : BReg) => (a <<< 64) ||| ((f l).b ++ (f l).v).setWidth 2048) 0

/-- A NaN or infinite value has bound +∞ (R281). -/
def BLane.of (v b : BitVec 32) : BLane :=
  match f32Val v with
  | .nan => { v := f32Nan, b := f32Inf }
  | .inf _ => { v, b := f32Inf }
  | .fin _ _ _ => { v, b }

end Sys2Proof

namespace Sys2Proof.Machine

/-! ### Arrays (R262 to R265) -/

/-- Array `a` of the cluster of a core; arrays are numbered cluster · 4 + a. -/
def arrOf (core : Nat) (a : BitVec 2) : Nat := clusterOf core * 4 + a.toNat
def State.arr (s : State) (n : Nat) : Array4 := (s.cluster (n / 4)).arrays.getD (n % 4) {}
def modArr (n : Nat) (f : Array4 → Array4) : M Unit :=
  modCluster (n / 4) fun c => { c with arrays := c.arrays.put (n % 4) (f (c.arrays.getD (n % 4) {})) }

/-- The info word that names an array (R262). -/
def arrName (s : State) (n : Nat) : Word :=
  ((coreAddr s.chip (coreOfCluster (n / 4) 0)) ++ BitVec.ofNat 2 n).setWidth 64

def arrUnit (s : State) (n : Nat) : Word := unitId 4 (n % 4) (coreAddr s.chip (coreOfCluster (n / 4) 0))

/-- The info word of the claiming CXID (R265). -/
def claimWord (s : State) (n : Nat) : Word :=
  match (s.arr n).claim with
  | none => 0xFFFFF
  | some k => (s.ctx k).cxid.setWidth 64

/-- An array under self-test makes commands park, a lasting one faults (R376). -/
def arrReady (n : Nat) : M Unit := do
  let s ← get
  let u := arrUnit s n
  if unitLasting s (n / 640) u then fault 0x41 [u] 0 8
  parkUnless (!unitFenced s (n / 640) u)

/-- The claim check of R265. -/
def needClaim (a : BitVec 2) : M Nat := do
  let s ← get
  let n := arrOf s.me.coreNo a
  if (s.arr n).claim ≠ some s.cur then fault 0x32 [arrName s n, claimWord s n] 0 5
  arrReady n
  return n

/-- DESIGN CHOICE, log entry 37: claims of one array or tile that wait are served in the order in which they came,
and in one cycle by ascending core. -/
def mAclaim (a : BitVec 2) : M Unit := do
  let n := arrOf (← myCore) a
  stage 0 do
    let s ← get
    if (s.arr n).claim = some s.cur then fault 0x32 [arrName s n, s.me.cxid.setWidth 64] 0 5
    modCluster (n / 4) fun c => { c with arrWait := c.arrWait ++ [(s.cur, a)] }
  arrReady n
  let s ← get
  let first := (s.cluster (n / 4)).arrWait.find? fun w => w.2 == a
  parkUnless ((s.arr n).claim.isNone && first == some (s.cur, a))
  modCluster (n / 4) fun c => { c with arrWait := c.arrWait.filter fun w => w != (s.cur, a) }
  modArr n fun x => { x with claim := some s.cur }

/-- A claim ends and the result buffer empties (R266). -/
def Array4.release (x : Array4) : Array4 := { x with claim := none, buf := .empty }

/-- DESIGN CHOICE, log entry 37: claims of one array or tile that wait are served in the order in which they came,
and in one cycle by ascending core. -/
def mArel (a : BitVec 2) : M Unit := do
  let n ← needClaim a
  let s ← get
  parkUnless (s.arr n).queue.isEmpty
  modArr n Array4.release

/-- The arrays a context has claimed (R266). -/
def claimedArrays (s : State) (cx : Nat) : List Nat :=
  s.clusters.flatMap fun c => (List.range 4).filterMap fun a =>
    if (c.2.arrays.getD a {}).claim = some cx then some (c.1 * 4 + a) else none

/-! ### The command queue (R267 to R270) -/

/-- Cycles of 1 µs and of 0.1 µs at 2,100 MHz (R270). -/
def usCycles : Nat := 2100

/-- Rows of AWR and AVFY. -/
def awrRows (r : BitVec 5) : Nat := r.toNat + 1

/-- The cycles a command takes, within the limits of R270. -/
def arrTime (i : Instr) : M Nat := do
  let n ← draw
  let w := (Config.freeWord n).toNat
  match i with
  | .awr _ _ r _ => return awrRows r * usCycles + w % (awrRows r * 420 + 1)
  | .avfy _ _ _ r _ => return awrRows r * 210 + w % (awrRows r * 2 * 2520 + 1)
  | .acal _ _ _ => return 50 * usCycles + w % (10 * usCycles + 1)
  | _ => return 807

/-- The step that completes a command. -/
def arrDone (n : Nat) : Instr → Instr
  | .awr .. => .awrComplete n
  | .avfy .. => .avfyComplete n
  | .acal .. => .acalComplete n
  | _ => .amvmComplete n

/-- The first command of the queue runs. -/
def startArr (n : Nat) : M Unit := do
  let s ← get
  match (s.arr n).queue with
  | c :: rest =>
    if c.due.isNone then
      let t ← arrTime c.instr
      modArr n fun x => { x with queue := { c with due := some (s.cycle + t) } :: rest }
      addTimer (s.cycle + t) (arrDone n c.instr)
  | [] => pure ()

/-- A command is accepted (R268). -/
def acceptArr (n id : Nat) (i : Instr) (args : List Word) : M Unit := do
  let s ← get
  modArr n fun x => { x with queue := x.queue ++ [{ id, cx := s.cur, core := s.me.coreNo, instr := i, args }] }
  startArr n

/-- Park(queue entry free) (R268). -/
def arrRoom (n : Nat) : M Unit := do
  parkUnless (decide ((((← get).arr n).queue).length < 4))

/-- The checks of a run of rows read on path a (R183, R272, R275). (DEDUCED, log entry 27.) -/
def arrRowsChecked (o : Word) (n : Nat) : M Unit := do
  if o.toNat % 128 ≠ 0 then fault 0x19 [o, 128]
  (List.range n).forM fun k => do
    let _ ← checkRow (o + BitVec.ofNat 64 (128 * k))

/-- Each of n rows lies in a region private to the context (R273). -/
def arrRowsPrivate (o : Word) (n : Nat) : M Unit := do
  let s ← get
  let own (r : Nat) : Bool := match (s.core s.me.coreNo).regionOf r with
    | some g => !g.shared && g.cxid == s.me.cxid
    | none => false
  match (List.range n).find? fun k => !(rowsOf (o.toNat + 128 * k) 128).all own with
  | some k => fault 0x1A [o + BitVec.ofNat 64 (128 * k), 128]
  | none => pure ()

/-- Park(no write mark of another path on the rows; shared rows full). -/
def arrRowsReady (o n : Nat) : M Unit := do
  padFreePath 4 o (128 * n) false
  let s ← get
  let core := s.core s.me.coreNo
  (List.range n).forM fun k => parkUnless (!core.isShared (o / 128 + k) || (core.fillOf (o / 128 + k)).full)

/-- The 512 bytes of weight row k of a source, as 1,024 packed weights (R263). -/
def packedRow (core : Core) (o k : Nat) : BitVec 4096 :=
  core.row (o / 128 + 4 * k + 3) ++ core.row (o / 128 + 4 * k + 2) ++ core.row (o / 128 + 4 * k + 1)
    ++ core.row (o / 128 + 4 * k)

def mAwr (a b : Spec) (rows : BitVec 5) (arr : BitVec 2) : M Unit := do
  checkRegs (.awr a b rows arr)
  let first ← rdS a
  let o ← rdS b
  let n ← needClaim arr
  let rowsN := 4 * awrRows rows
  arrRowsChecked o rowsN
  arrRoom n
  arrRowsReady o.toNat rowsN
  let id ← freshId
  markRows 4 o.toNat (128 * rowsN) false id
  acceptArr n id (.awr a b rows arr) [first, o]

/-- AVFY keeps the packed source rows it read, 64 words a row. (DEDUCED, log entry 33.) -/
def mAvfy (a b c : Spec) (rows : BitVec 5) (arr : BitVec 2) : M Unit := do
  checkRegs (.avfy a b c rows arr)
  let first ← rdS a
  let o ← rdS b
  let tag ← rdS c
  stage 0 do
    let rowsN := 4 * awrRows rows
    arrRowsPrivate o rowsN
    let n ← needClaim arr
    arrRowsChecked o rowsN
    arrRoom n
    arrRowsReady o.toNat rowsN
    let id ← openOp .other false
    addWait id
    let s ← get
    let core := s.core s.me.coreNo
    let src := (List.range (awrRows rows)).flatMap fun k =>
      (List.range 64).map fun j => (packedRow core o.toNat k).extractLsb' (64 * j) 64
    acceptArr n id (.avfy a b c rows arr) (first :: tag :: src)
  let _ ← waitAnswers

def mAcal (glim : BitVec 4) (scale : BitVec 3) (arr : BitVec 2) : M Unit := do
  stage 0 do
    let n ← needClaim arr
    arrRoom n
    let id ← openOp .other false
    addWait id
    acceptArr n id (.acal glim scale arr) []
  let _ ← waitAnswers

def mAmvm (d : BitVec 5) (a : Spec) (arr : BitVec 2) : M Unit := do
  checkRegs (.amvm d a arr)
  let o ← rdS a
  let n ← needClaim arr
  arrRowsChecked o 8
  checkWrite (.s d)
  arrRoom n
  arrRowsReady o.toNat 8
  let id ← freshId
  modMe fun c => c.setRegSt (.s d) (.reserved .amvm id)
  markRows 4 o.toNat 1024 false id
  acceptArr n id (.amvm d a arr) [o]

/-! ### Completion of the commands -/

/-- The running command, when its time has come. -/
def arrHead (n : Nat) (f : ArrCmd → M Unit) : M Unit := do
  let s ← get
  match (s.arr n).queue with
  | c :: _ => match c.due with
    | some t => if t ≤ s.cycle then f c
    | none => pure ()
  | [] => pure ()

/-- A command leaves the queue; its marks clear, and the next begins. -/
def arrNext (n : Nat) (c : ArrCmd) : M Unit := do
  clearMarks c.id
  modArr n fun x => { x with queue := x.queue.filter fun q => q.id != c.id }
  startArr n

/-- The answer to the parked context of AVFY and ACAL. -/
def arrAnswer (c : ArrCmd) (faults : List FaultRec) : M Unit :=
  modify fun s => s.modCtx c.cx fun x => { x.closeOp c.id with answers := x.answers.put c.id { faults } }

def Array4.setRow (x : Array4) (row : Nat) (w : BitVec 4096) : Array4 := { x with weights := x.weights.put (row % 1024) w }

def mAwrComplete (n : Nat) : M Unit :=
  arrHead n fun c => do
    match c.instr with
    | .awr _ _ rows _ =>
      let core := (← get).core c.core
      let first := (c.args.getD 0 0).toNat
      let o := (c.args.getD 1 0).toNat
      modArr n fun x => (List.range (awrRows rows)).foldl (fun x k => x.setRow (first + k) (packedRow core o k))
        { x with tag := 0 }
    | _ => pure ()
    arrNext n c

/-- The passes over one row: whether it was reprogrammed, and whether the third read-back still differs (R273).
(DEDUCED, log entry 33.) -/
def verifyRow (n row : Nat) (src : BitVec 4096) : M (Bool × Bool) := do
  let d ← draw
  let cur := ((← get).arr n).weights.getD (row % 1024) 0
  if cur = src && !Config.freeBool d then return (false, false)
  modArr n fun x => x.setRow row src
  let d ← draw
  if !Config.freeBool d then return (true, false)
  let d ← draw
  return (true, Config.freeBool d)

/-- The rows in turn, up to one that fails: the number reprogrammed, and the failing row (R273).
(DEDUCED, log entry 27.) (DEDUCED, log entry 33.) -/
def verifyRows (n : Nat) : List (Nat × BitVec 4096) → Nat → M (Nat × Option Nat)
  | [], k => pure (k, none)
  | (row, src) :: rest, k => do
    let (re, bad) ← verifyRow n row src
    let k := if re then k + 1 else k
    if bad then return (k, some (row % 1024)) else verifyRows n rest k

/-- DEDUCED, log entry 33: AVFY counts a weight row as different when W and the source differ, reads the source at
acceptance, checks private rows first, and counts rows once in ASTAT. -/
def mAvfyComplete (n : Nat) : M Unit :=
  arrHead n fun c => do
    match c.instr with
    | .avfy _ _ _ rows _ =>
      let first := (c.args.getD 0 0).toNat
      let src := c.args.drop 2
      let row (k : Nat) : BitVec 4096 :=
        ((src.drop (64 * k)).take 64).foldr (fun w (a : BitVec 4096) => (a <<< 64) ||| w.setWidth 4096) 0
      let (k, bad) ← verifyRows n ((List.range (awrRows rows)).map fun k => (first + k, row k)) 0
      modArr n fun x => { x with reprog := k }
      match bad with
      | some r => arrAnswer c [{ code := 0x31, info := [arrName (← get) n, BitVec.ofNat 64 r], src := 5 }]
      | none =>
        modArr n fun x => { x with tag := (c.args.getD 1 0).setWidth 16 }
        arrAnswer c []
    | _ => pure ()
    arrNext n c

/-- BND is a free value; one above 15 is the failure of R274. (DESIGN CHOICE, log entry 34.) -/
def mAcalComplete (n : Nat) : M Unit :=
  arrHead n fun c => do
    match c.instr with
    | .acal glim scale _ =>
      let d ← draw
      let bnd := 1 + (Config.freeWord d).toNat % 16
      if 15 < bnd then
        modArr n fun x => { x with calibrated := false }
        arrAnswer c [{ code := 0x31, info := [arrName (← get) n, BitVec.allOnes 64], src := 5 }]
      else
        modArr n fun x =>
          { x with
            calibrated := true, bnd, scale := scale.toNat, products := 0, withheldN := 0
            glim := if glim = 0 then ceilDiv bnd 2 else glim.toNat }
        arrAnswer c []
    | _ => pure ()
    arrNext n c

/-! ### The product (R263, R275 to R278) -/

/-- The grey-card weight G[i][g] (R263). -/
def greyCard (i g : Nat) : Int := sxNat 4 ((bits (km10 (BitVec.ofNat 64 (1024 * g + i)) 0x67726579) 0 4).toNat)

/-- Weight W[i][j]. -/
def Array4.weight (x : Array4) (i j : Nat) : Int := sxNat 4 (bits (x.weights.getD i 0) (4 * j) 4).toNat

/-- Input i: byte i of eight rows. -/
def inputAt (core : Core) (o i : Nat) : Int := sxNat 8 (byteOf (core.row (o / 128 + i / 128)) (i % 128)).toNat

/-- y[j], over the rows that hold weights (R275). -/
def idealOut (x : Array4) (core : Core) (o j : Nat) : Int :=
  x.weights.foldl (fun y w => y + inputAt core o w.1 * sxNat 4 (bits w.2 (4 * j) 4).toNat) 0

/-- ref[g] (R275). -/
def refOut (core : Core) (o g : Nat) : Int :=
  (List.range 1024).foldl (fun y i => y + inputAt core o i * greyCard i g) 0

/-- An output as the array clamps it, with its saturation bit (R276). -/
def clampOut (q : Int) : Int × Bool :=
  if q < -32768 then (-32768, true) else if 32767 < q then (32767, true) else (q, false)

/-- An output within the bound law of R276: lo .. hi hold every q with |q·2^s − y| ≤ BND·2^s. -/
def boundedOut (y : Int) (bnd s : Nat) (free : Int) : Int × Bool :=
  let lo := -((bnd * 2 ^ s - y).fdiv (2 ^ s))
  let hi := (y + bnd * 2 ^ s).fdiv (2 ^ s)
  clampOut (lo + free.emod (hi - lo + 1))

/-- The lowest g of largest |dev[g]|, and whether that exceeds the limit. -/
def worstDev (devs : List Int) : Nat × Nat :=
  devs.foldl (fun (p : Nat × Nat × Nat) d =>
    if p.2.2 < d.natAbs then (p.1 + 1, p.1, d.natAbs) else (p.1 + 1, p.2)) (0, 0, 0) |> fun p => p.2

/-- The token of a product (R278). -/
def amvmToken (n : Nat) : ArrBuf → Word
  | .withheld g dev =>
    if g = 16 then setBit (setBit (BitVec.ofNat 64 (n % 4)) 63 true) 62 true
    else setBit (setBits (setBits (BitVec.ofNat 64 (n % 4)) 32 (BitVec.ofNat 16 g)) 16 (BitVec.ofNat 16 dev)) 63 true
  | _ => BitVec.ofNat 64 (n % 4)

/-- The fault of a read of withheld outputs (R278, R285). -/
def driftFault (s : State) (n : Nat) : ArrBuf → Option FaultRec
  | .withheld g dev => some { code := 0x30, info := [arrName s n, BitVec.ofNat 64 g, BitVec.ofNat 64 dev], src := 5 }
  | _ => none

/-- The register still waits for the operation: its token enters it (R44, R48, R278). -/
def landToken (cx : Nat) (r : BitVec 5) (k : TokKind) (op : Nat) (x : Word) (f : Option FaultRec) : M Unit :=
  modify fun s => s.modCtx cx fun c =>
    if c.regSt (.s r) = .reserved k op then c.deposit (.s r) (x.setWidth 2048) k f else c

/-- The outputs that a product measures: within the bound law when it is not withheld (R275, R276). -/
def measured (x : Array4) (core : Core) (o d : Nat) (held : Bool) : List (Int × Bool) :=
  (List.range 1024).map fun j =>
    if held then clampOut (Config.arrayOutput d j)
    else boundedOut (idealOut x core o j) x.bnd x.scale (Config.arrayOutput d j)

/-- The result buffer of a product (R275). -/
def productBuf (x : Array4) (core : Core) (o d : Nat) (devs : List Int) : ArrBuf :=
  let s := x.scale
  let (g, worst) := worstDev devs
  if !x.calibrated then .withheld 16 0
  else if x.glim * 2 ^ s < worst then .withheld g (Nat.min 0xFFFF (ceilDiv worst (2 ^ s)))
  else
    let qs := measured x core o d false
    .valid (qs.map (·.1)) (qs.map (·.2)) x.bnd s

def mAmvmComplete (n : Nat) : M Unit :=
  arrHead n fun c => do
    match c.instr with
    | .amvm r _ _ =>
      let d ← draw
      let s ← get
      let x := s.arr n
      let core := s.core c.core
      let o := (c.args.getD 0 0).toNat
      let devs := (List.range 16).map fun g => Config.arrayOutput d (1024 + g) * 2 ^ x.scale - refOut core o g
      let buf := productBuf x core o d devs
      let held := match buf with
        | .withheld _ _ => true
        | _ => false
      let sats := ((measured x core o d held).filter (·.2)).length
      modArr n fun x =>
        { x with
          buf := buf, devs := devs, devScale := x.scale, sats := sats
          products := Nat.min (2 ^ 24) (x.products + 1), withheldN := Nat.min (2 ^ 24) (x.withheldN + held.toNat) }
      landToken c.cx r .amvm c.id (amvmToken n buf) (driftFault s n buf)
    | _ => pure ()
    arrNext n c

/-! ### ASTAT and BLD.buf (R268, R280, R285) -/

/-- The value m·2^e in FP32. -/
def f32Of (m : Int) (e : Int) : BitVec 32 := f32Rne ((Val.ofInt m).scale e)

/-- The lanes of ASTAT; stepping A1 reports lane 15 one low after a product (R280, R383). -/
def statLane (x : Array4) (l : Nat) : BitVec 32 :=
  let nat (n : Nat) : BitVec 32 := f32Of n 0
  if l < 16 then
    match x.devs[l]? with
    | none => 0
    | some d => f32Of (if l = 15 then d - 2 ^ x.devScale else d) (-(x.devScale : Int))
  else if l = 16 then if x.calibrated then nat x.bnd else 0
  else if l = 17 then if x.calibrated then nat x.glim else 0
  else if l = 18 then if x.calibrated then nat x.scale else 0
  else if l = 19 then nat x.products
  else if l = 20 then nat x.withheldN
  else if l = 21 then nat x.sats
  else if l = 22 then nat x.reprog
  else if l = 23 then nat x.tag.toNat
  else if l = 24 then if x.calibrated then nat 1 else 0
  else 0

/-- DEDUCED, log entry 41: errata 1 to 3 of stepping A1 are part of the machine: WBRV with shear 4 acts two steps
later, lane 15 of ASTAT, LRTC stops at 255. -/
def mAstat (d : BitVec 3) (arr : BitVec 2) : M Unit := do
  checkRegs (.astat d arr)
  let n ← needClaim arr
  let x := (← get).arr n
  parkUnless x.queue.isEmpty
  wrBn d (BReg.ofLanes fun l => { v := statLane x l, b := f32Inf })

/-- Lane l of a result buffer from output j0 + l (R285). -/
def bufLane (buf : ArrBuf) (j : Nat) : BLane :=
  match buf with
  | .valid q sat bnd s =>
    { v := f32Of (q.getD j 0) s, b := if sat.getD j false then f32Inf else f32Of bnd s }
  | _ => { v := 0, b := f32Inf }

def mBldBuf (d : BitVec 3) (grp : BitVec 5) (arr : BitVec 2) : M Unit := do
  checkRegs (.bldBuf d grp arr)
  let n ← needClaim arr
  let s ← get
  let x := s.arr n
  parkUnless x.queue.isEmpty
  match driftFault s n x.buf with
  | some f => raise f
  | none => wrBn d (BReg.ofLanes fun l => bufLane x.buf (32 * grp.toNat + l))

/-! ### The meanings -/

def execAclaim (arr : BitVec 2) (s : State) := runI (mAclaim arr) (.aclaim arr) s
def execArel (arr : BitVec 2) (s : State) := runI (mArel arr) (.arel arr) s
def execAwr (a b : Spec) (rows : BitVec 5) (arr : BitVec 2) (s : State) := runI (mAwr a b rows arr) (.awr a b rows arr) s
def execAvfy (a b c : Spec) (rows : BitVec 5) (arr : BitVec 2) (s : State) :=
  runI (mAvfy a b c rows arr) (.avfy a b c rows arr) s
def execAcal (glim : BitVec 4) (scale : BitVec 3) (arr : BitVec 2) (s : State) :=
  runI (mAcal glim scale arr) (.acal glim scale arr) s
def execAmvm (d : BitVec 5) (a : Spec) (arr : BitVec 2) (s : State) := runI (mAmvm d a arr) (.amvm d a arr) s
def execAstat (d : BitVec 3) (arr : BitVec 2) (s : State) := runI (mAstat d arr) (.astat d arr) s
def execBldBuf (d : BitVec 3) (grp : BitVec 5) (arr : BitVec 2) (s : State) :=
  runI (mBldBuf d grp arr) (.bldBuf d grp arr) s
def execAwrComplete (arr : Nat) (s : State) := runE (mAwrComplete arr) s
def execAvfyComplete (arr : Nat) (s : State) := runE (mAvfyComplete arr) s
def execAcalComplete (arr : Nat) (s : State) := runE (mAcalComplete arr) s
def execAmvmComplete (arr : Nat) (s : State) := runE (mAmvmComplete arr) s

end Sys2Proof.Machine
end

