-- ==== Sys2Proof/Machine/Bounded.lean ====
section
/-!
DEFINITION. Class 5, bounded values: BLD, BST, the bounded arithmetic, ACCEPT and BCVT (R281 to R291).
-/

namespace Sys2Proof

/-! ### Bounded arithmetic (R287) -/

/-- ulp(r, F) of a finite r: p fraction bits (R287). -/
def ulpVal (F : FloatF) (r : Val) : Val :=
  let least : Int := 1 - (F.bias : Int)
  match r with
  | .fin _ m e =>
    let k : Int := Nat.log2 m + e
    if m = 0 ∨ k < least then .fin false 1 F.qmin else .fin false 1 (k - F.fb)
  | _ => .zero

/-- The bound code of a sum that may be +∞. -/
def boundCode (b : Val) : BitVec 32 :=
  match b with
  | .fin _ _ _ => f32Round .rup b
  | _ => f32Inf

/-- Rounded to a format with p fraction bits and finished (R287, R288): value code and its bound. -/
def finishLane (F : FloatF) (r : BitVec 32) (x b : Val) : BLane :=
  match f32Val r, b with
  | .nan, _ => { v := f32Nan, b := f32Inf }
  | .inf _, _ => { v := r, b := f32Inf }
  | rv, .fin _ _ _ => { v := r, b := boundCode (if rv.cmp x = .eq then b else b.add (ulpVal F rv)) }
  | _, _ => { v := r, b := f32Inf }

/-- Fin(x, b) (R287). (DEDUCED, log entry 40.) -/
def finLane (x b : Val) : BLane := finishLane .fp32 (f32Rne x) x b

def BLane.val (a : BLane) : Val := f32Val a.v
def BLane.bnd (a : BLane) : Val := f32Val a.b

/-- |x|·α, with a bound +∞ kept (R281 rule 4, R287). -/
def scaleBound (x α : Val) : Val :=
  match α with
  | .fin _ _ _ => match x with
    | .fin _ m e => (Val.fin false m e).mul α
    | _ => .inf false
  | _ => .inf false

def bAdd (a c : BLane) : BLane := finLane (a.val.add c.val) (a.bnd.add c.bnd)
def bSub (a c : BLane) : BLane := finLane (a.val.sub c.val) (a.bnd.add c.bnd)
def bMul (a : BLane) (x : BitVec 32) : BLane := finLane (a.val.mul (f32Val x)) (scaleBound (f32Val x) a.bnd)
def bFma (a : BLane) (x : BitVec 32) (d : BLane) : BLane :=
  finLane ((a.val.mul (f32Val x)).add d.val) ((scaleBound (f32Val x) a.bnd).add d.bnd)

/-- The smaller or larger of two codes, -0 below +0; neither is NaN. -/
def minCode (a c : BitVec 32) : BitVec 32 := if (f32Val c).before (f32Val a) then c else a
def maxCode (a c : BitVec 32) : BitVec 32 := if (f32Val a).before (f32Val c) then c else a

/-- The larger of two bounds. -/
def maxBound (a c : BitVec 32) : BitVec 32 := if a.toNat < c.toNat then c else a

def bMinMax (max : Bool) (a c : BLane) : BLane :=
  if a.val.isNan || c.val.isNan then { v := f32Nan, b := f32Inf }
  else BLane.of (if max then maxCode a.v c.v else minCode a.v c.v) (maxBound a.b c.b)

def bRelu (a : BLane) : BLane :=
  if a.val.isNan then { v := f32Nan, b := f32Inf } else BLane.of (maxCode a.v 0) a.b

/-- DEDUCED, log entry 40: CLAMP orders -0 below +0. -/
def bClamp (lo hi : BitVec 32) (a : BLane) : BLane :=
  if a.val.isNan || f32IsNan lo || f32IsNan hi then { v := f32Nan, b := f32Inf }
  else BLane.of (minCode (maxCode a.v lo) hi) a.b

/-! ### BCVT (R288) -/

def bcvtF32Lane (v : BitVec 32) : BLane := BLane.of v 0
def bcvtI32Lane (n : BitVec 32) : BLane := finLane (Val.ofInt n.toInt) Val.zero
def bcvtBf16Lane (a : BLane) : BLane :=
  let r : BitVec 32 := BitVec.ofNat 16 (FloatF.bf16.round .rne false 0 0 a.val) ++ (0 : BitVec 16)
  finishLane .bf16 r a.val a.bnd

/-! ### ACCEPT (R289) -/

/-- One lane of a grid ACCEPT with g = 2^e; none is the fault 0x18. -/
def acceptLane (i32 : Bool) (e : Int) (a : BLane) : Option (BitVec 32) :=
  match a.val with
  | .fin neg m q =>
    if a.bnd.cmp (.fin false 1 (e - 1)) ≠ .lt then none
    else
      let k := roundToInt .rne 0 0 neg m (q - e)
      let x := (Val.ofInt k).scale e
      if i32 then
        if k < -(2 ^ 31) ∨ 2 ^ 31 - 1 < k then none else some (BitVec.ofInt 32 k)
      else if 2 ^ 24 < k.natAbs then none
      else
        let w := f32Rne x
        match f32Val w with
        | .fin _ _ _ => if (f32Val w).cmp x = .eq then some (if k = 0 then 0 else w) else none
        | _ => none
  | _ => none

end Sys2Proof

namespace Sys2Proof.Machine

/-! ### Arithmetic -/

/-- The multiplier of BMUL and BFMA: a lane of a v-register, or an s-register broadcast (R287). -/
def rdBcast (b : Spec) : M Row :=
  match b with
  | .v n => rdVn n
  | r => do return Row.splat ((← rdS r).setWidth 32)

/-- Writes every lane of a b-register. -/
def wrLanes (d : BitVec 3) (f : Nat → BLane) : M Unit := wrBn d (BReg.ofLanes f)

/-- Two b-registers into one. -/
def bBinary (i : Instr) (d a b : BitVec 3) (f : BLane → BLane → BLane) : M Unit := do
  checkRegs i
  let x ← rdBn a
  let y ← rdBn b
  wrLanes d fun l => f (x.lane l) (y.lane l)

def mBadd (d a b : BitVec 3) : M Unit := bBinary (.badd d a b) d a b bAdd
def mBaddSub (d a b : BitVec 3) : M Unit := bBinary (.baddSub d a b) d a b bSub
def mBminmaxMin (d a b : BitVec 3) : M Unit := bBinary (.bminmaxMin d a b) d a b (bMinMax false)
def mBminmaxMax (d a b : BitVec 3) : M Unit := bBinary (.bminmaxMax d a b) d a b (bMinMax true)

def mBmul (d a : BitVec 3) (b : Spec) : M Unit := do
  checkRegs (.bmul d a b)
  let x ← rdBn a
  let y ← rdBcast b
  wrLanes d fun l => bMul (x.lane l) (y.lane l)

def mBfma (d a : BitVec 3) (b : Spec) : M Unit := do
  checkRegs (.bfma d a b)
  let z ← rdBn d
  let x ← rdBn a
  let y ← rdBcast b
  wrLanes d fun l => bFma (x.lane l) (y.lane l) (z.lane l)

def mBactRelu (d a : BitVec 3) : M Unit := do
  checkRegs (.bactRelu d a)
  let x ← rdBn a
  wrLanes d fun l => bRelu (x.lane l)

def mBactClamp (d a : BitVec 3) (b : Spec) : M Unit := do
  checkRegs (.bactClamp d a b)
  let x ← rdBn a
  let m ← rdS b
  wrLanes d fun l => bClamp (bits m 0 32) (bits m 32 32) (x.lane l)

def mBcvtF32 (d : BitVec 3) (a : BitVec 4) : M Unit := do
  checkRegs (.bcvtF32 d a)
  let x ← rdVn a
  wrLanes d fun l => bcvtF32Lane (x.lane l)

def mBcvtI32 (d : BitVec 3) (a : BitVec 4) : M Unit := do
  checkRegs (.bcvtI32 d a)
  let x ← rdVn a
  wrLanes d fun l => bcvtI32Lane (x.lane l)

def mBcvtBf16 (d a : BitVec 3) : M Unit := do
  checkRegs (.bcvtBf16 d a)
  let x ← rdBn a
  wrLanes d fun l => bcvtBf16Lane (x.lane l)

/-! ### ACCEPT (R289, R290) -/

/-- DEDUCED, log entry 39: ACCEPT adds 1 to PROV after its register checks, whether or not its value is then
refused. -/
def addProv : M Unit := modMe fun c => { c with ctl := { c.ctl with prov := c.ctl.prov + 1 } }

/-- DEDUCED, log entry 39: ACCEPT adds 1 to PROV after its register checks, whether or not its value is then
refused. -/
def mAcceptGrid (i32 : Bool) (d : BitVec 4) (a : BitVec 3) (e : BitVec 8) : M Unit := do
  checkRegs (.acceptGrid i32 d a e)
  addProv
  let x ← rdBn a
  let lane (l : Nat) : Option (BitVec 32) := acceptLane i32 e.toInt (x.lane l)
  match (List.range 32).find? fun l => (lane l).isNone with
  | some l => raise { code := 0x18, info := [(Spec.code (.b a)).setWidth 64, BitVec.ofNat 64 l], grid := true }
  | none => wrVn d (Row.ofLanes fun l => (lane l).getD 0)

/-- DEDUCED, log entry 39: ACCEPT adds 1 to PROV after its register checks, whether or not its value is then
refused. -/
def mAcceptRaw (d : BitVec 4) (a : BitVec 3) : M Unit := do
  checkRegs (.acceptRaw d a)
  addProv
  let x ← rdBn a
  modFlags fun f => { f with b := true }
  wrVn d (Row.ofLanes fun l => if (x.lane l).val.isNan then f32Nan else (x.lane l).v)

/-! ### BLD and BST (R284 to R286) -/

/-- The layouts of a bounded page (R284). -/
inductive BLayout
  | pair
  | bq16 (σ : Int)
  deriving DecidableEq, Repr

def BLayout.bytes : BLayout → Nat
  | .pair => 256
  | .bq16 _ => 64

/-- The layout that FMT and EW set; σ of a CONST page is taken from PARAM's bits too. (DESIGN CHOICE, log entry 102.) -/
def bLayout (e : Entry) : Option BLayout :=
  if Leaf.fmtCode e = 5 && Leaf.ew e == 32 then some .pair
  else if Leaf.fmtCode e = 12 && Leaf.ew e == 16 then some (.bq16 (BitVec.ofNat 6 (Leaf.param e)).toInt)
  else none

/-- The page check of BLD and BST (R284). -/
def boundedPage (t : Tlb) (ea : Pc) (store : Bool) : M Unit := do
  let s ← get
  let denied {α : Type} : M α := fault 0x11 [ea.setWidth 64, (Leaf.owner t.e).setWidth 64] ea
  match pageKind t.e s.me.cxid (ownerLive s (Leaf.owner t.e)) with
  | .bprivOwn => pure ()
  | .bprivOther =>
    if ownerLive s (Leaf.owner t.e) then
      modMe fun c => { c with pages := [] }
      throw .park
    else denied
  | .publBounded => if store then denied
  | _ => fault 0x18 [ea.setWidth 64] ea

/-- Translation, alignment, page check and layout, in the order of R285 and R286; a page whose FMT and EW set no layout
has no alignment to meet. (DEDUCED, log entry 40.) -/
def boundedAccess (a : Spec) (x : BitVec 48) (store : Bool) : M (Tlb × Pc × BLayout) := do
  let ea := effAddr (← rdS a) x
  let t ← translate .analog ea
  once do
    match bLayout t.e with
    | some y => needAlign ea y.bytes
    | none => pure ()
    boundedPage t ea store
  match bLayout t.e with
  | some y => return (t, ea, y)
  | none => fault 0x18 [ea.setWidth 64] ea

/-- A stored pair as BLD repairs it (R285). -/
def repairLane (v b : BitVec 32) : BLane :=
  let b' := match f32Val b with
    | .nan => f32Inf
    | .inf neg => if neg then f32Inf else b
    | .fin neg m _ => if m = 0 then 0 else if neg then f32Inf else b
  BLane.of v b'

/-- What BLD gives lane l of the bytes of a layout (R284). -/
def bldLane (y : BLayout) (bs : List Byte) (l : Nat) : BLane :=
  match y with
  | .pair => repairLane (ofBytes 32 ((bs.drop (8 * l)).take 4)) (ofBytes 32 ((bs.drop (8 * l + 4)).take 4))
  | .bq16 σ => { v := f32Of (ofBytes 16 ((bs.drop (2 * l)).take 2)).toInt σ, b := f32Of 15 σ }

def mBld (d : BitVec 3) (a : Spec) (x : BitVec 48) : M Unit := do
  checkRegs (.bld d a x)
  let (t, ea, y) ← boundedAccess a x false
  needLinesVia 4 ((linesOf ea y.bytes).map fun l => (t, l))
  let bs := bytesAtHand (← get) ea y.bytes
  wrLanes d (bldLane y bs)

/-- A lane of a BQ16 store; none is the fault 0x18 (R286). -/
def bq16Code (σ : Int) (a : BLane) : Option (BitVec 16) :=
  let q := a.val.scale (-σ)
  let k := q.floor
  match q with
  | .fin _ _ _ =>
    if (Val.ofInt k).cmp q ≠ .eq ∨ k < -32768 ∨ 32767 < k ∨ a.bnd.cmp ((Val.ofInt 15).scale σ) = .gt ∨ a.bnd.isNan then
      none
    else some (BitVec.ofInt 16 k)
  | _ => none

/-- The bytes of a b-register in a layout, or the lane that does not fit (R286). -/
def bstBytes (y : BLayout) (x : BReg) : Except Nat (List Byte) :=
  match y with
  | .pair => .ok ((List.range 32).flatMap fun l => bytesOf 4 (x.lane l).v ++ bytesOf 4 (x.lane l).b)
  | .bq16 σ =>
    match (List.range 32).find? fun l => (bq16Code σ (x.lane l)).isNone with
    | some l => .error l
    | none => .ok ((List.range 32).flatMap fun l => bytesOf 2 ((bq16Code σ (x.lane l)).getD 0))

def mBst (a : Spec) (b : BitVec 3) (x : BitVec 48) : M Unit := do
  checkRegs (.bst a b x)
  let r ← rdBn b
  let (t, ea, y) ← boundedAccess a x true
  match bstBytes y r with
  | .error l => fault 0x18 [(ea + BitVec.ofNat 56 (2 * l)).setWidth 64] (ea + BitVec.ofNat 56 (2 * l))
  | .ok bs =>
    let ls := linesOf ea y.bytes
    let pas := ls.map fun l => t.pa l / 64 * 64
    let s ← get
    parkUnless (pas.all fun l => !markBlocks s (.line l) 4 true)
    let op ← openOp .store true
    pas.forM fun l => placeMark (.line l) 4 true op
    setUnfenced 4 (some (ea, ea + BitVec.ofNat 56 (y.bytes - 1)))
    modify fun s => { s with
      net := s.net.put op
        { kind := .record, op, cx := s.cur, pc := s.me.pc, thread := s.me.thread, va := ea, pa := t.pa ea, e := t.e
          size := t.size, far := homeThread t ea, node := clusterOf s.me.coreNo, data := bs }
      pending := s.pending ++ [.bstComplete op] }

/-- The units of a store's lines: homes and channels (R374). -/
def storeUnits (s : State) (p : Packet) (lines : List Nat) : List Word :=
  let t : Tlb := { asid := 0, base := p.va - BitVec.ofNat 56 (p.va.toNat % 2 ^ p.size), size := p.size, e := p.e }
  lines.zipIdx.flatMap fun l => lineUnits s (homeOfVa t (p.va + BitVec.ofNat 56 (64 * l.2))) l.1 false

/-- Writes of the lines of a store at their homes on another chip; the last answer completes it (R286, R367). -/
def storeFar (op : Nat) (p : Packet) (lines : List Nat) : M Unit := do
  modify fun s => { s with net := s.net.put op { p with words := [BitVec.ofNat 64 lines.length], faults := [] } }
  lines.zipIdx.forM fun l => do
    let _ ← sendPacket
      { kind := .lineReq, op, cx := p.cx, pc := p.pc, thread := p.thread, dst := 8192 + chipOf l.1, far := p.far
        va := p.va + BitVec.ofNat 56 (64 * l.2), pa := l.1, e := p.e, ord := 4, flag := true, words := [BitVec.allOnes 64]
        data := (p.data.drop (64 * l.2)).take 64 } p.node

/-- BST_COMPLETE: the bytes are written, then the marks clear and STQ goes down (R286). -/
def mBstComplete (op : Nat) : M Unit := do
  let s ← get
  match s.net.find op with
  | none => pure ()
  | some p =>
    let lines := (List.range (p.data.length / 64)).map fun k => p.pa + 64 * k
    let units := storeUnits s p lines
    if (lines.any fun l => heldBehind s (.line l) 4 p.cx op true) || anyFenced s units then keepPending (.bstComplete op)
    else if !s.here p.pa then storeFar op p lines
    else
      dropPacket op
      clearMarks op
      match firstLasting s units with
      | some u => gathered { p with faults := [{ code := 0x41, info := [u], taddr := p.va, src := 8 }] }
      | none =>
        modify fun s => s.writeBytes p.pa p.data
        gathered p

/-! ### The meanings -/

def execBld (d : BitVec 3) (a : Spec) (x : BitVec 48) (s : State) := runI (mBld d a x) (.bld d a x) s
def execBst (a : Spec) (b : BitVec 3) (x : BitVec 48) (s : State) := runI (mBst a b x) (.bst a b x) s
def execBadd (d a b : BitVec 3) (s : State) := runI (mBadd d a b) (.badd d a b) s
def execBaddSub (d a b : BitVec 3) (s : State) := runI (mBaddSub d a b) (.baddSub d a b) s
def execBmul (d a : BitVec 3) (b : Spec) (s : State) := runI (mBmul d a b) (.bmul d a b) s
def execBfma (d a : BitVec 3) (b : Spec) (s : State) := runI (mBfma d a b) (.bfma d a b) s
def execBminmaxMin (d a b : BitVec 3) (s : State) := runI (mBminmaxMin d a b) (.bminmaxMin d a b) s
def execBminmaxMax (d a b : BitVec 3) (s : State) := runI (mBminmaxMax d a b) (.bminmaxMax d a b) s
def execBactRelu (d a : BitVec 3) (s : State) := runI (mBactRelu d a) (.bactRelu d a) s
def execBactClamp (d a : BitVec 3) (b : Spec) (s : State) := runI (mBactClamp d a b) (.bactClamp d a b) s
def execAcceptGrid (i32 : Bool) (d : BitVec 4) (a : BitVec 3) (e : BitVec 8) (s : State) :=
  runI (mAcceptGrid i32 d a e) (.acceptGrid i32 d a e) s
def execAcceptRaw (d : BitVec 4) (a : BitVec 3) (s : State) := runI (mAcceptRaw d a) (.acceptRaw d a) s
def execBcvtF32 (d : BitVec 3) (a : BitVec 4) (s : State) := runI (mBcvtF32 d a) (.bcvtF32 d a) s
def execBcvtI32 (d : BitVec 3) (a : BitVec 4) (s : State) := runI (mBcvtI32 d a) (.bcvtI32 d a) s
def execBcvtBf16 (d a : BitVec 3) (s : State) := runI (mBcvtBf16 d a) (.bcvtBf16 d a) s
def execBstComplete (op : Nat) (s : State) := runE (mBstComplete op) s

end Sys2Proof.Machine
end

