-- ==== Sys2Proof/Machine/Spill.lean ====
section
/-!
DEFINITION. The spill areas of the cores and the images that they hold (R46, R178, R227, R237, R261, R336, R375).
(DESIGN CHOICE, log entry 50.)
-/

namespace Sys2Proof.Machine

/-! ### The areas -/

/-- Base and size of the spill area of a core; a base of 0 means none (R375). -/
def spillArea (s : State) (k : Nat) : Nat × Nat :=
  let a := (s.die (dieOfCore k)).sptb.toNat + 16 * (k % 1024)
  let base := (s.readWord a).toNat
  (base, if base = 0 then 0 else (s.readWord (a + 8)).toNat)
def hasSpill (s : State) (k : Nat) : Bool := (spillArea s k).1 != 0

/-- The bytes from `off` on are free in an area of `area` bytes. -/
def partFree (ps : List SpillPart) (area off size : Nat) : Bool :=
  decide (off + size ≤ area) && ps.all fun p => decide (off + size ≤ p.off) || decide (p.off + p.size ≤ off)

/-- The lowest place for a part in the area at `base`: parts lie in whole multiples of 128 bytes; a bounded image has a
64 KiB page of its own, which its context owns as a BPRIV page (R178). -/
def placeFor (base : Nat) (ps : List SpillPart) (area : Nat) (kind : SpillKind) (size : Nat) : Option Nat :=
  let up (o : Nat) : Nat := if kind = .bounded then ceilDiv (base + o) 65536 * 65536 - base else o
  (((0 :: ps.map fun p => p.off + p.size).map up).filter fun o => partFree ps area o size).min?

/-- What is to be written: the kind of the part, its bytes, and its contents by offset. -/
structure PartData where
  kind : SpillKind
  size : Nat
  segs : List (Nat × List Byte)

/-- The parts that hold the data of a context, with their places, are added to those of the area; none when one does not
fit. -/
def placeParts (base area key : Nat) : List PartData → List SpillPart → Option (List SpillPart)
  | [], ps => some ps
  | d :: ds, ps => (placeFor base ps area d.kind d.size).bind fun off =>
    placeParts base area key ds (ps ++ [{ key, kind := d.kind, off, size := d.size, wrote := d.segs }])

/-- Writes a part's contents at its place; an area of another chip's memory is not written. -/
def writePart (base : Nat) (s : State) (p : SpillPart) (d : PartData) : State :=
  if s.here base then d.segs.foldl (fun s g => s.writeBytes (base + p.off + g.1) g.2) s else s

def SpillKind.isDeposit : SpillKind → Bool
  | .deposit _ _ => true
  | _ => false

/-- The parts of a context, its deposits apart, leave the area of a core. -/
def Core.dropParts (c : Core) (key : Nat) : Core :=
  { c with spillMap := c.spillMap.filter fun p => p.key != key || p.kind.isDeposit }
def dropParts (k key : Nat) : M Unit := modCore k fun c => c.dropParts key

/-- The state with the parts of a context in the area of a core, in place of those it had there; none when there is no
room. -/
def withParts (s : State) (k key : Nat) (ds : List PartData) : Option State :=
  let (base, area) := spillArea s k
  let old := ((s.core k).dropParts key).spillMap
  (placeParts base area key ds old).map fun ps =>
    ((ps.drop old.length).zip ds).foldl (fun s x => writePart base s x.1 x.2) (s.modCore k fun c => { c with spillMap := ps })

/-- Writes the parts of a context into the spill area of a core; false, with nothing changed, when there is no room. -/
def saveParts (k key : Nat) (ds : List PartData) : M Bool := do
  match withParts (← get) k key ds with
  | some s =>
    set s
    return true
  | none => return false

/-! ### Images (R178, R227, R237, R261) -/

/-- The registers and states that the first 256 bytes of an image hold, one word each, in the order of R178. -/
def Ctx.imageWords (c : Ctx) : List Word :=
  let z {n : Nat} (x : BitVec n) : Word := x.setWidth 64
  [z c.pc, c.flags.word, z c.ctl.thnd, z c.ctl.tcause, z c.ctl.tpc, z c.ctl.taddr, c.ctl.tinfo, z c.ctl.cvmt, z c.ctl.cvma
  , z c.ctl.cvmr, c.loop0.count, c.loop1.count, z c.loop0.start, z c.loop1.start, z c.loop0.stop, z c.loop1.stop
  , z (bit1 c.loop1.active ++ bit1 c.loop0.active), z c.ctl.waitlim, c.ctl.srk, c.ctl.prov, c.ctl.stq
  , BitVec.ofNat 64 c.remain, BitVec.ofNat 64 c.lineCount]

def TokKind.code : TokKind → Nat
  | .dep _ _ => 0
  | .copy => 1
  | .wave => 2
  | .amvm => 3

/-- A register state in an image: a byte, and four bytes of the source of a reservation. -/
def RegSt.imageBytes : RegSt → List Byte
  | .dead => bytesOf 5 (0 : BitVec 40)
  | .full => bytesOf 5 (1 : BitVec 40)
  | .prot k _ => bytesOf 5 (BitVec.ofNat 40 (2 + 16 * k.code))
  | .reserved k op =>
    let src := match k with
      | .dep chip cxid => (chip ++ cxid).toNat
      | _ => op % 2 ^ 32
    bytesOf 5 (BitVec.ofNat 40 (src * 256 + 3 + 16 * k.code))
  | .broken => bytesOf 5 (4 : BitVec 40)

/-- A byte run filled with zeros to a length. -/
def padTo (n : Nat) (bs : List Byte) : List Byte := bs ++ List.replicate (n - bs.length) 0

/-- The states of the 55 registers, UNF and ENV: 384 bytes of an image (R42, R178). -/
def Ctx.imageStates (c : Ctx) : List Byte :=
  let sts := (List.range 31).map (fun i => c.regSt (.s (BitVec.ofNat 5 (i + 1))))
    ++ (List.range 16).map (fun i => c.regSt (.v (BitVec.ofNat 4 i))) ++ (List.range 8).map fun i => c.regSt (.b (BitVec.ofNat 3 i))
  let env := (List.range 5).flatMap fun q => match c.env.find q with
    | some (lo, hi) => bytesOf 7 lo ++ bytesOf 7 hi
    | none => bytesOf 14 (0 : BitVec 112)
  padTo 384 (sts.flatMap RegSt.imageBytes ++ bytesOf 1 (c.unf.setWidth 8) ++ env)

/-- The segments of the registers of a file that are not dead. -/
def fileSegs {w n : Nat} (base bytes : Nat) (rs : Vector (Reg w) n) : List (Nat × List Byte) :=
  rs.toList.zipIdx.filterMap fun r => if r.1.st = .dead then none else some (base + bytes * r.2, bytesOf bytes r.1.val)

/-- The save image (R178). -/
def Ctx.imagePart (c : Ctx) : PartData :=
  { kind := .image, size := 3584
    segs := [(0, padTo 256 (c.imageWords.flatMap (bytesOf 8))), (256, c.imageStates), (640, bytesOf 8 (0 : Word))
      , (2944, List.replicate 640 0)] ++ fileSegs 640 8 c.s ++ fileSegs 896 128 c.v }

/-- Some b-register is not dead. -/
def Ctx.hasB (c : Ctx) : Bool := (List.range 8).any fun i => (c.b[i]?.map (·.st)).getD .dead != .dead

/-- What the saved context is written as: its image, its bounded image of 2,048 bytes at the start of its own page when
there is one, and its tile images
(R178, R237). -/
def Ctx.savedParts (c : Ctx) : List PartData :=
  c.imagePart :: ((if c.hasB then [{ kind := .bounded, size := 65536, segs := fileSegs 0 256 c.b }] else [])
    ++ c.savedTiles.zipIdx.map fun t => { kind := .tile t.2, size := 4096, segs := [(0, bytesOf 4096 t.1.data)] })

/-- The s-registers that an arrival carries. -/
def Ctx.entryRegs (c : Ctx) : List Nat := (List.range 32).filter fun i => c.regSt (.s (BitVec.ofNat 5 i)) != .dead && i != 0

/-- The 128-byte entry of an arrival that is spilled (R336, R343). -/
def Ctx.entryPart (c : Ctx) : PartData :=
  let z {n : Nat} (x : BitVec n) : Word := x.setWidth 64
  let live := c.entryRegs
  let mask : BitVec 32 := live.foldl (fun m i => setBit m i true) 0
  let ws := [z c.pc, (mask ++ (c.flags.word).setWidth 32), z c.ctl.thnd, z c.ctl.waitlim, c.ctl.srk, c.ctl.prov, z c.ctl.cvmt
    , z c.ctl.cvma, z c.ctl.cvmr] ++ live.map fun i => c.getS (BitVec.ofNat 5 i)
  { kind := .entry, size := 128, segs := [(0, padTo 128 ((ws.take 16).flatMap (bytesOf 8)))] }

/-- What a spilled context is written as (R336). -/
def Ctx.spillParts (c : Ctx) : List PartData := if c.image then c.savedParts else [c.entryPart]

/-- The last value of a link register or latch. -/
def lastLink {w : Nat} (l : List (LinkVal w)) : BitVec w := (l.head?.map (·.val)).getD 0
/-- The number of the step that formed it. -/
def lastStep {w : Nat} (l : List (LinkVal w)) : Word := BitVec.ofNat 64 ((l.head?.map (·.step)).getD 0)

/-- V(j): the step at which the vote of step j enters the vote register (R220). -/
def Stream.voteStep (t : Stream) (j : Nat) : Nat := j + t.shear * (t.w - 1) + (if t.diag then t.shear * (t.h - 1) else 0) + 2

/-- The wave image of a core: le and ls, the row's sequencer, and the step numbers of the latches, for which the matrix
wave image has no room (R227, R261). (DESIGN CHOICE, log entry 50.) -/
def waveImage (t : Stream) (w : WavePart) : PartData :=
  let z {n : Nat} (x : BitVec n) : Word := x.setWidth 64
  let lv (l : LoopLv) : List Word := [l.count, z l.start, z l.stop, z (bit1 l.active)]
  let ws := [BitVec.ofNat 64 t.pos] ++ lv t.loop0 ++ lv t.loop1
    ++ [z (bit1 t.vote), BitVec.ofNat 64 ((t.voteAt.map t.voteStep).getD 0), BitVec.ofNat 64 w.done - 1
      , lastStep w.east, lastStep w.south]
  { kind := .wave, size := 512
    segs := [(0, padTo 512 (bytesOf 128 (lastLink w.le) ++ bytesOf 128 (lastLink w.ls) ++ ws.flatMap (bytesOf 8)))] }

/-- What the wave context of a core is written as at a checkpoint (R227, R261). -/
def Ctx.waveParts (c : Ctx) (t : Stream) : List PartData :=
  match c.wave with
  | none => []
  | some w => [c.imagePart, waveImage t w] ++ (if t.wmma then
      [{ kind := .matrixWave, size := 2048, segs := [(0, bytesOf 1024 (lastLink w.east)), (1024, bytesOf 1024 (lastLink w.south))] }]
      else [])

/-! ### Restoring (R179, R237, R261, R380) -/

/-- The `n` bytes at offset `o` of a part as they were written, as a number; zero where nothing was. -/
def SpillPart.was (p : SpillPart) (o n : Nat) : Nat :=
  natOfBytes ((List.range n).map fun k =>
    (p.wrote.findSome? fun g => if g.1 ≤ o + k then g.2[o + k - g.1]? else none).getD 0)

/-- What the `n` bytes at offset `o` of a part hold now, when that is not what was written: the image in memory counts, and
what landed in the saved context since stands where it was not changed (R179). (DESIGN CHOICE, log entry 50.) -/
def partChange (s : State) (base : Nat) (p : SpillPart) (o n : Nat) : Option Nat :=
  let x := s.readNat (base + p.off + o) n
  if s.here base && x != p.was o n then some x else none

/-- The state of a register that an image in memory gives in place of another. -/
def RegSt.ofImage (x : Nat) : RegSt :=
  let kind : TokKind := match x / 16 % 16 with
    | 0 => .dep (BitVec.ofNat 8 (x / 2 ^ 28)) (BitVec.ofNat 20 (x / 2 ^ 8))
    | 1 => .copy
    | 2 => .wave
    | _ => .amvm
  match x % 16 with
  | 0 => .dead
  | 1 => .full
  | 2 => .prot kind none
  | 3 => .reserved kind (x / 256)
  | _ => .broken

/-- A register as an image in memory gives it: `st` and `val` are the changes of its state and its value. -/
def Reg.ofImage {w : Nat} (r : Reg w) (st val : Option Nat) : Reg w :=
  { val := (val.map (BitVec.ofNat w)).getD r.val, st := (st.map RegSt.ofImage).getD r.st }

/-- The context with what its save image holds now; `f o n` is the change of the n bytes at o. -/
def Ctx.withImage (f : Nat → Nat → Option Nat) (c : Ctx) : Ctx :=
  let g {n : Nat} (i : Nat) (old : BitVec n) : BitVec n := ((f (8 * i) 8).map (BitVec.ofNat n)).getD old
  let nat (i old : Nat) : Nat := (f (8 * i) 8).getD old
  let fl := g 1 c.flags.word
  let act := g 16 (bit1 c.loop1.active ++ bit1 c.loop0.active)
  let st (i : Nat) : Option Nat := f (256 + 5 * i) 5
  { c with
    pc := g 0 c.pc
    flags := { (({} : Flags).write fl) with ann := bits fl 6 2 }
    ctl := { c.ctl with
      thnd := g 2 c.ctl.thnd, tcause := g 3 c.ctl.tcause, tpc := g 4 c.ctl.tpc, taddr := g 5 c.ctl.taddr, tinfo := g 6 c.ctl.tinfo
      cvmt := g 7 c.ctl.cvmt, cvma := g 8 c.ctl.cvma, cvmr := g 9 c.ctl.cvmr, waitlim := g 17 c.ctl.waitlim, srk := g 18 c.ctl.srk
      prov := g 19 c.ctl.prov, stq := g 20 c.ctl.stq }
    loop0 := { c.loop0 with count := g 10 c.loop0.count, start := g 12 c.loop0.start, stop := g 14 c.loop0.stop, active := bitAt act 0 }
    loop1 := { c.loop1 with count := g 11 c.loop1.count, start := g 13 c.loop1.start, stop := g 15 c.loop1.stop, active := bitAt act 1 }
    remain := nat 21 c.remain, lineCount := nat 22 c.lineCount
    unf := ((f 531 1).map (BitVec.ofNat 5)).getD c.unf
    env := (List.range 5).foldl (fun m q =>
      match f (532 + 14 * q) 14 with
      | some x => m.put q (BitVec.ofNat 56 x, BitVec.ofNat 56 (x / 2 ^ 56))
      | none => m) c.env
    s := Vector.ofFn fun i => if i.val = 0 then c.s.get i else (c.s.get i).ofImage (st (i.val - 1)) (f (640 + 8 * i.val) 8)
    v := Vector.ofFn fun i => (c.v.get i).ofImage (st (31 + i.val)) (f (896 + 128 * i.val) 128)
    b := Vector.ofFn fun i => (c.b.get i).ofImage (st (47 + i.val)) none }

/-- The context with what the entry of its arrival holds now (R336, R343). -/
def Ctx.withEntry (f : Nat → Nat → Option Nat) (c : Ctx) : Ctx :=
  let g {n : Nat} (i : Nat) (old : BitVec n) : BitVec n := ((f (8 * i) 8).map (BitVec.ofNat n)).getD old
  let fl := g 1 c.flags.word
  { c with
    pc := g 0 c.pc, flags := { (({} : Flags).write fl) with ann := bits fl 6 2 }
    ctl := { c.ctl with
      thnd := g 2 c.ctl.thnd, waitlim := g 3 c.ctl.waitlim, srk := g 4 c.ctl.srk, prov := g 5 c.ctl.prov
      cvmt := g 6 c.ctl.cvmt, cvma := g 7 c.ctl.cvma, cvmr := g 8 c.ctl.cvmr }
    s := Vector.ofFn fun i => match c.entryRegs.findIdx? (· == i.val) with
      | some n => if n < 7 then (c.s.get i).ofImage none (f (8 * (9 + n)) 8) else c.s.get i
      | none => c.s.get i }

/-- The wave context with what its wave images hold now. -/
def Ctx.withWave (g : Option (Nat → Nat → Option Nat)) (m : Option (Nat → Nat → Option Nat)) (c : Ctx) : Ctx :=
  let last {w : Nat} (l : List (LinkVal w)) (step val : Option Nat) : List (LinkVal w) :=
    match l, step, val with
    | l, none, none => l
    | [], _, _ => [{ step := step.getD 0, val := BitVec.ofNat w (val.getD 0) }]
    | x :: l, _, _ => { step := step.getD x.step, val := (val.map (BitVec.ofNat w)).getD x.val } :: l
  let at_ (f : Option (Nat → Nat → Option Nat)) (o n : Nat) : Option Nat := f.bind fun f => f o n
  { c with wave := c.wave.map fun w =>
    { w with
      le := last w.le none (at_ g 0 128), ls := last w.ls none (at_ g 128 128)
      done := ((at_ g 344 8).map fun x => (x + 1) % 2 ^ 64).getD w.done
      east := last w.east (at_ g 352 8) (at_ m 0 1024), south := last w.south (at_ g 360 8) (at_ m 1024 1024) } }

/-- The stream with what the sequencer's part of a wave image holds now (R227). -/
def Stream.withWave (f : Nat → Nat → Option Nat) (t : Stream) : Stream :=
  let w (i : Nat) : Option Nat := f (256 + 8 * i) 8
  let lv (i : Nat) (l : LoopLv) : LoopLv :=
    { l with
      count := ((w i).map (BitVec.ofNat 64)).getD l.count, start := ((w (i + 1)).map (BitVec.ofNat 56)).getD l.start
      stop := ((w (i + 2)).map (BitVec.ofNat 56)).getD l.stop, active := ((w (i + 3)).map (· % 2 == 1)).getD l.active }
  { t with
    pos := (w 0).getD t.pos, loop0 := lv 1 t.loop0, loop1 := lv 5 t.loop1, vote := ((w 9).map (· % 2 == 1)).getD t.vote
    voteAt := match w 10 with
      | some v => if v = 0 then none else some (v - t.voteStep 0)
      | none => t.voteAt }

/-- The part of a kind that a context has in the spill area of a core, as its changes. -/
def partOf (s : State) (k key : Nat) (kind : SpillKind) : Option (Nat → Nat → Option Nat) :=
  ((s.core k).spillMap.find? fun p => p.key == key && p.kind == kind).map fun p => partChange s (spillArea s k).1 p

/-- A saved context as its images at a core give it (R179, R237). -/
def restored (s : State) (k key : Nat) (c : Ctx) : Ctx :=
  let c := match partOf s k key .image with
    | some f => c.withImage f
    | none => c
  let c := match partOf s k key .entry with
    | some f => c.withEntry f
    | none => c
  let c := match partOf s k key .bounded with
    | some f => { c with b := Vector.ofFn fun i => (c.b.get i).ofImage none (f (256 * i.val) 256) }
    | none => c
  { c with savedTiles := c.savedTiles.zipIdx.map fun t => match (partOf s k key (.tile t.2)).bind fun f => f 0 4096 with
      | some x => { t.1 with data := BitVec.ofNat 32768 x }
      | none => t.1 }

/-- The images of a context at a core come back into it. -/
def restoreFrom (k key : Nat) : M Unit := modify fun s => s.setCtx key (restored s k key (s.ctx key))

/-! ### Deposits (R46) -/

/-- A deposit as the spill area holds it. (DESIGN CHOICE, log entry 91.) -/
def Deposit.part (d : Deposit) : PartData :=
  { kind := .deposit d.source d.ord, size := 384
    segs := [(0, bytesOf 256 d.val ++ bytesOf 8 (BitVec.ofNat 64 d.source) ++ bytesOf 8 (BitVec.ofNat 32 d.ord ++ d.reg.code.setWidth 32))] }

/-- The deposit lies in the spill area. -/
def SpillPart.isOf (p : SpillPart) (d : Deposit) : Bool := p.key == d.cx && p.kind == .deposit d.source d.ord

/-- Holds a deposit at a core: in the buffer of 16 entries, or else in the spill area; none when neither has room. -/
def heldDeposit (s : State) (k : Nat) (d : Deposit) : Option State :=
  let c := s.core k
  let s' := s.modCore k fun c => { c with deposits := c.deposits ++ [d] }
  if (c.deposits.filter fun x => !c.spillMap.any fun p => p.isOf x).length < 16 then some s'
  else
    let (base, area) := spillArea s k
    (placeFor base c.spillMap area d.part.kind 384).map fun off =>
      let p : SpillPart := { key := d.cx, kind := d.part.kind, off, size := 384, wrote := d.part.segs }
      writePart base (s'.modCore k fun c => { c with spillMap := c.spillMap ++ [p] }) p d.part

end Sys2Proof.Machine
end

