-- ==== Sys2Proof/Machine/Message.lean ====
section
/-!
DEFINITION. Class 6, messages: SEND, DEP, SYNST, SYNLD, MCAST, and their arrival at queues, registers and rows
(R45 to R47, R106, R293 to R303, R335, R347).
-/

namespace Sys2Proof.Machine

/-! ### Destinations and flows (R18, R293, R294) -/

/-- The ordered flow of messages of a kind to a target (R293). -/
def msgFlow (cx kind x : Nat) : Nat := 2 * ((cx * 8 + kind) * 2 ^ 32 + x) + 1

/-- Where a packet to a core address goes. -/
def dstOfCore (s : State) (a : BitVec 20) : Nat :=
  if bits a 12 8 = s.chip then (bits a 0 12).toNat else 8192 + (bits a 12 8).toNat

/-- A core address names a core (R18). -/
def namesCore (a : BitVec 20) : Bool := coreExists (bits a 0 12).toNat

/-- Checks a core address operand (R18, R298). -/
def coreOperand (x : Word) : M (BitVec 20) := do
  if bits x 20 44 ≠ 0 || !namesCore (bits x 0 20) then fault 0x08 [x, 0]
  return bits x 0 20

/-- Checks a remote row address (R294): core address and offset. -/
def rowOperand (x : Word) : M (BitVec 20 × Nat) := do
  if bits x 38 26 ≠ 0 || !namesCore (bits x 18 20) then fault 0x08 [x, 0]
  let o := bits x 0 18
  if o.toNat % 128 ≠ 0 then fault 0x19 [o.setWidth 64, 128]
  return (bits x 18 20, o.toNat)

/-- A message of the current context in an ordered flow. -/
def sendMessage (p : Packet) (flow : Nat) : M Unit := do
  let s ← get
  let c := s.me
  let _ ← sendPacket { p with cx := s.cur, pc := c.pc, thread := c.thread, flow := some flow } (clusterOf c.coreNo)

/-- The next sequence tag of a flow of the current context (R292, R347). -/
def nextTag (key : Nat) : M (BitVec 16) := do
  let c ← me
  let tag := c.pushes.getD key 0
  modMe fun c => { c with pushes := c.pushes.put key (tag + 1) }
  return tag

/-- The thread address of slot 0 of a core address. -/
def coreThread (a : BitVec 20) : BitVec 24 := a ++ (0 : BitVec 4)

/-- The index base and key of a narrowing (R295). -/
def wireKey : M Word := do return (← me).ctl.srk

/-- Parks an access on the copy path to a row of the own core behind the context's earlier copies (R37). -/
def behindCopies (r : Nat) (write : Bool) : M Unit := do
  let s ← get
  parkUnless (!heldBehind s (.row s.me.coreNo r) 2 s.cur s.nextId write)

/-- The 128 bytes of a v-register or of a local row read at issue (R300, R302). -/
def rdRowOperand (r : Spec) : M Row := do
  match r with
  | .v n => rdVn n
  | .sp n | .spi n =>
    let o ← rdSn n
    let g ← checkRow o
    padFreePath 2 o.toNat 128 false
    behindCopies (o.toNat / 128) false
    padFilled g o.toNat 128
    padRow (o.toNat / 128)
  | _ => return 0

/-- The row operand, read once: a later park of the instruction keeps what was read (R8, R300, R302). -/
def rowOnce (r : Spec) : M Row := do
  let c ← me
  if c.held.isEmpty then
    let x ← rdRowOperand r
    modMe fun c => { c with held := (List.range 16).map fun k => bits x (64 * k) 64 }
    return x
  else return ofBytes 1024 (c.held.flatMap (bytesOf 8))

/-! ### SEND (R298) -/

/-- Key of the tag count of the SENDs to queue q of a core. -/
def sendKey (a : BitVec 20) (q : BitVec 2) : Nat := 2 ^ 32 + a.toNat * 4 + q.toNat

/-- Sends an entry to queue q of a core; `eos` for QEOS (R298, R349). -/
def sendEntry (a : BitVec 20) (q : BitVec 2) (w : Wire) (v : List Byte) (eos wait : Bool) : M Unit := do
  parkUnless (decide (openCount (← me) .send < 16))
  let s ← get
  let c := s.me
  let tag ← nextTag (sendKey a q)
  let op ← openOp .send true
  if wait then addWait op
  sendMessage
    { kind := .queueEntry, op, dst := dstOfCore s a, far := coreThread a, ord := (bits a 0 12).toNat, wire := w, seq := tag
      words := [q.setWidth 64, BitVec.ofNat 64 c.name], data := v, flag := eos }
    (msgFlow s.cur 1 (a.toNat * 4 + q.toNat))

def mSend (a b c : Spec) (q : BitVec 2) (w : Wire) : M Unit := do
  checkRegs (.send a b c q w)
  joinCourse w.wait do
    let x ← rdS a
    let v ← rdS b
    let base ← rdS c
    let k ← coreOperand x
    sendEntry k q w (narrowPayload w base (← wireKey) v) false w.wait

/-- What became of a message at its target. -/
inductive Landed
  | done (f : Option FaultRec)
  | wait
  deriving DecidableEq, Repr

def niFault (code : BitVec 8) (info : List Word) : FaultRec := { code, info, src := 2 }

/-- A core as a unit (R374). -/
def coreUnit (s : State) (k : Nat) : Word := unitId 0 0 (coreAddr s.chip k)

/-- An entry at queue q of a core; a core that is fenced holds it back, a lasting one refuses it (R346, R347, R376). -/
def enterQueue (k : Nat) (q : Nat) (v : Word) (sender : BitVec 28) (tag : BitVec 16) (eos : Bool) : M Landed := do
  let s ← get
  let u := coreUnit s k
  if unitLasting s (dieOfCore k) u then return .done (some { code := 0x41, info := [u], src := 8 })
  if unitFenced s (dieOfCore k) u then return .wait
  match (s.core k).queues.find q with
  | none => return .wait
  | some x =>
    if x.sender ≠ some sender then
      return .done (some { code := 0x3A, info := [BitVec.ofNat 64 q], src := 3 })
    else if x.depth ≤ (tag - x.expect).toNat then return .wait
    else
      setQueue k q { x with entries := x.entries ++ [{ tag, val := v, eos, ready := s.cycle }] }
      return .done none

/-- The course of an arriving message: held by its flow, by its target, or applied and answered. -/
def arriving (ev : Nat → Instr) (retry : Nat → Instr) (id : Nat) (apply : Packet → M Landed)
    (answer : Packet → Option FaultRec → M Unit) : M Unit := do
  let s ← get
  match s.net.find id with
  | none => pure ()
  | some p =>
    if !p.arrived || flowBlocked s id p then keepPending (ev id)
    else match ← apply p with
      | .wait => keepPending (retry id)
      | .done f =>
        dropPacket id
        answer p f

/-- The answer of a single target. -/
def answerOne (p : Packet) (f : Option FaultRec) : M Unit := reply p (clusterOf p.dst) f.toList [] [] false

def queueApply (p : Packet) : M Landed :=
  enterQueue p.dst (p.words.getD 0 0).toNat (widenPayload p.wire 64 p.data) ((p.words.getD 1 0).setWidth 28) p.seq p.flag

def mQueueEntryArrival (id : Nat) : M Unit :=
  arriving .queueEntryArrival .queueEntryArrival id queueApply answerOne

/-! ### DEP (R45 to R47, R299) -/

def mDep (d a b c : Spec) (w : Wire) : M Unit := do
  checkRegs (.dep d a b c w)
  joinCourse w.wait do
    let x ← rdS a
    let base ← rdS c
    let key ← wireKey
    let v : List Byte ← match b with
      | .v n => do pure (narrowPayload w base key (← rdVn n))
      | .b n => do pure (bytesOf 256 (← rdBn n))
      | r => do pure (narrowPayload w base key (← rdS r))
    if bits x 28 36 ≠ 0 then fault 0x08 [x, d.code.setWidth 64]
    let s ← get
    let c := s.me
    let ord := c.depNext.getD x.toNat 0
    modMe fun c => { c with depNext := c.depNext.put x.toNat (ord + 1) }
    let op ← openOp .dep true
    if w.wait then addWait op
    -- the first leg goes to the context directory of the receiver's chip
    sendMessage
      { kind := .deposit, op, dst := if bits x 20 8 = s.chip then c.coreNo else 8192 + (bits x 20 8).toNat
        far := bits x 20 8 ++ (0 : BitVec 16), wire := w, seq := BitVec.ofNat 16 ord
        words := [x, d.code.setWidth 64, 0, BitVec.ofNat 64 c.name, (recordCxid s c).setWidth 64], data := v }
      (msgFlow s.cur 2 x.toNat)

/-- The receiver's register that a DEP names. -/
def Packet.depReg (p : Packet) : Spec := (Spec.ofCode ((p.words.getD 1 0).setWidth 8)).getD (.s 0)

/-- The value that a DEP deposits, widened (R106, R299). -/
def Packet.depVal (p : Packet) : BitVec 2048 :=
  match p.depReg with
  | .v _ => (widenPayload p.wire 1024 p.data).setWidth 2048
  | .b _ => ofBytes 2048 p.data
  | _ => (widenPayload p.wire 64 p.data).setWidth 2048

/-- The CXID that the record of a refused DEP names: its sender's, or that of replica 0 for a replica's DEP (R47, R351). -/
def Packet.depSender (p : Packet) : BitVec 20 := (p.words.getD 4 (p.words.getD 3 0)).setWidth 20

/-- A refused DEP is answered as accepted, and the refusal is a record (R47). -/
def refuseDep (p : Packet) (unit_ : BitVec 4) : M Unit := do
  refuseDeposit (p.words.getD 0 0).toNat p.depSender p.depReg p.pc p.thread unit_
  reply p (clusterOf p.dst) [] [] [] false

/-- Sends a deposit on to a core: a leg of its own, on the route of its destination (R299, R356). -/
def redirect (id : Nat) (p : Packet) (dst : Nat) (directed : Bool) : M Unit := do
  let n ← freshId
  modify fun s => { s with
    net := s.net.put id { routed s n { p with dst, flag := directed, via := none } (clusterOf p.dst) 9 with entered := n }
    pending := s.pending ++ [.packetForward id] }

/-- The directory numbers the DEPs of each source to a live receiver, in the order of their flow: the k-th that the source
issues to this receiver is the k-th here, whoever held its CXID before (R45, R299). (DEDUCED, log entry 77.) -/
def numberDep (id key : Nat) (p : Packet) : M Packet := do
  let src := (p.words.getD 3 0).toNat
  let ord := ((← get).ctx key).depSeen.getD src 0
  let q := { p with words := p.words.set 2 (BitVec.ofNat 64 ord) }
  modify fun s => { s.modCtx key (fun c => { c with depSeen := c.depSeen.put src (ord + 1) }) with net := s.net.put id q }
  return q

/-- DIRECTORY_FORWARD: the directory sends a message to the receiver's core, or refuses it (R299, R335). -/
def mDirectoryForward (id : Nat) : M Unit := do
  let s ← get
  match s.net.find id with
  | none => pure ()
  | some p =>
    if !p.arrived || flowBlocked s id p then keepPending (.directoryForward id)
    else match cxidKey s ((p.words.getD 0 0).setWidth 20) with
      | none =>
        dropPacket id
        refuseDep p 3
      | some k => match (s.ctx k).place with
        | .transit => keepPending (.directoryForward id)
        | _ =>
          let q ← numberDep id k p
          redirect id q (s.ctx k).coreNo true

/-- Matches a deposit with the reservations of a context, or holds it; one for which no place is left waits in the
network (R45 to R47). (DESIGN CHOICE, log entry 91.) -/
def matchDeposit (id key : Nat) (p : Packet) : M Unit := do
  let s ← get
  let c := s.ctx key
  let src := (p.words.getD 3 0).toNat
  let ord := (p.words.getD 2 0).toNat
  match c.rsvOpen.find? fun r => r.1 == src && r.2.1 == ord with
  | some r =>
    dropPacket id
    modify fun s => s.modCtx key fun c => { c with rsvOpen := c.rsvOpen.filter fun q => q != r }
    if r.2.2 = p.depReg then
      modify fun s => s.modCtx key fun c =>
        c.deposit r.2.2 p.depVal (.dep (BitVec.ofNat 8 (src / 2 ^ 20)) (BitVec.ofNat 20 src)) none
      reply p (clusterOf p.dst) [] [] [] false
    else
      modify fun s => s.modCtx key fun c => c.setRegSt r.2.2 .broken
      refuseDep p 0
  | none =>
    match heldDeposit s p.dst
        { cx := key, source := src, ord, reg := p.depReg, val := p.depVal, pc := p.pc, thread := p.thread,
          sender := p.depSender } with
    | some t =>
      set t
      dropPacket id
      reply p (clusterOf p.dst) [] [] [] false
    | none => keepPending (.depositArrival id)

/-- DEPOSIT_ARRIVAL: a deposit reaches a core; one that the receiver has left follows it, and one for a receiver on a
fenced core waits, since the answer of a DEP carries no fault (R45, R46, R296, R335, R376). (DEDUCED, log entry 96.) -/
def mDepositArrival (id : Nat) : M Unit := do
  let s ← get
  match s.net.find id with
  | none => pure ()
  | some p =>
    if !p.arrived || flowBlocked s id p then keepPending (.depositArrival id)
    else match cxidKey s ((p.words.getD 0 0).setWidth 20) with
      | none =>
        dropPacket id
        refuseDep p 0
      | some key =>
        let at_ := (s.ctx key).coreNo
        if (s.ctx key).place = .transit || at_ ≠ p.dst then
          match (s.core p.dst).fwd.find key with
          | some k => redirect id p k true
          | none => redirect id p p.dst false
        else if unitFenced s (dieOfCore p.dst) (coreUnit s p.dst) then keepPending (.depositArrival id)
        else matchDeposit id key p

/-- FORWARD_EXPIRY: the forwarding entry ends (R335). -/
def mForwardExpiry (core cx : Nat) : M Unit := modCore core fun k => { k with fwd := k.fwd.del cx }

/-! ### Rows: SYNST, SYNLD (R300, R301, R303) -/

/-- The checks of R303 on row r of core k, a lasting core first; none when they pass. -/
def rowRefused (s : State) (k r : Nat) : Option FaultRec :=
  if unitLasting s (dieOfCore k) (coreUnit s k) then some { code := 0x41, info := [coreUnit s k], src := 8 }
  else match (s.core k).regionOf r with
    | none => some (niFault 0x1A [BitVec.ofNat 64 (128 * r), 128])
    | some g => if g.shared then none else some (niFault 0x11 [BitVec.ofNat 64 (128 * r), g.cxid.setWidth 64])

/-- A row waits for a message of the copy path: its core is fenced, another path's marks or those of an earlier copy of
the same context stand on it (R31, R36, R37, R303). -/
def rowWaits (s : State) (k r : Nat) (p : Packet) (write : Bool) : Bool :=
  unitFenced s (dieOfCore k) (coreUnit s k) || markBlocks s (.row k r) 2 write || heldBehind s (.row k r) 2 p.cx p.op write

/-- The row of a packet lands at core k (R303). -/
def landRow (k r : Nat) (x : Row) (p : Packet) : M Landed := do
  let s ← get
  let t := p.thread
  match rowRefused s k r with
  | some f => return .done (some f)
  | none =>
    if rowWaits s k r p true then return .wait
    else match (s.core k).fill r x t with
      | .ok c =>
        set (s.setCore k c)
        return .done none
      | .second b => return .done (some { secondWriter r b t with src := 2 })
      | .full => return .wait

/-- Key of the tag count of the flow of the SYNSTs and SYNLDs to a core, and of the MCASTs (R293). -/
def coreKey (a : BitVec 20) : Nat := 2 ^ 34 + a.toNat
def mcastKey : Nat := 2 ^ 35

def mSynst (a b c : Spec) (w : Wire) : M Unit := do
  checkRegs (.synst a b c w)
  joinCourse w.wait do
    let (k, o) ← rowOperand (← rdS a)
    let base ← rdS c
    let row ← rowOnce b
    let c ← me
    parkUnless (decide (openCount c .synst + openCount c .mcast < 16))
    let op ← openOp .synst true
    if w.wait then addWait op
    let seq ← nextTag (coreKey k)
    let s ← get
    sendMessage
      { kind := .row, op, dst := dstOfCore s k, far := coreThread k, ord := (bits k 0 12).toNat, wire := w, seq
        words := [BitVec.ofNat 64 o], data := narrowPayload w base (← wireKey) row } (msgFlow s.cur 3 k.toNat)

/-- The ready table takes a task row with count 0 while it holds fewer than 16 (R337, R341). -/
def Core.readyTask (k : Core) (r : Nat) : Core :=
  if bits (k.row r) 0 64 = 0 && decide (k.readyTasks.length < 16) && !k.readyTasks.contains r then
    { k with readyTasks := k.readyTasks ++ [r] }
  else k

/-- TDEF's row becomes a task row; the spec gives no layout for its bytes 64 to 127, which are free (R341). -/
def taskLanded (k r : Nat) : M Unit := do
  let n ← draw
  let tail : BitVec 512 := (List.range 8).foldr (fun i (a : BitVec 512) => (a <<< 64) ||| (Config.freeWords n i).setWidth 512) 0
  modCore k fun x =>
    let x := x.setRow r (setBits (x.row r) 512 tail)
    let w := bits (x.row r) 448 64
    Core.readyTask { x with taskRows := x.taskRows.put r { cx := (bits w 0 20).toNat, tag := (bits w 20 15).toNat } } r
  modify fun s => s.modCtx (bits ((s.core k).row r) 448 20).toNat fun c => { c with place := .queued k }
  addPending (.dispatch k)

def rowApply (p : Packet) : M Landed := do
  let r := (p.words.getD 0 0).toNat / 128
  let out ← landRow p.dst r (widenPayload p.wire 1024 p.data) p
  if p.flag && out == .done none then taskLanded p.dst r
  return out

def mSynld (d a c : Spec) (w : Wire) : M Unit := do
  checkRegs (.synld d a c w)
  let x ← rdS a
  let base ← rdS c
  let local_ : Option Word ← match d with
    | .sp n | .spi n => do pure (some (← rdSn n))
    | _ => pure none
  stage 0 do
    let (k, o) ← rowOperand x
    match local_ with
    | some lo =>
      let _ ← checkRow lo
    | none => pure ()
    let op ← openOp .read false
    addWait op
    let seq ← nextTag (coreKey k)
    let s ← get
    sendMessage
      { kind := .synld, op, dst := dstOfCore s k, far := coreThread k, wire := w, seq, words := [BitVec.ofNat 64 o, base, ← wireKey] }
      (msgFlow s.cur 3 k.toNat)
    setPhase 1
    throw .park
  let c ← me
  parkUnless (c.waits.all fun op => (c.opens.find op).isNone)
  let faults := c.waits.flatMap fun op => ((c.answers.find op).map (·.faults)).getD []
  let row : Row := widenPayload w 1024 (((c.waits.head?.bind fun op => c.answers.find op).map (·.data)).getD [])
  match local_, d with
  | some lo, _ =>
    if faults.isEmpty then
      let g ← checkRow lo
      padFreePath 2 lo.toNat 128 true
      behindCopies (lo.toNat / 128) true
      rowFillable g (lo.toNat / 128)
      let _ ← waitAnswers
      putRow g (lo.toNat / 128) row
    else
      let _ ← waitAnswers
  | none, .v n =>
    let _ ← waitAnswers
    wrVn n row
  | _, _ =>
    let _ ← waitAnswers

/-- SYNLD_REQUEST: the row is read once it is full and free, and returned (R301, R303). -/
def mSynldRequest (id : Nat) : M Unit := do
  let s ← get
  match s.net.find id with
  | none => pure ()
  | some p =>
    let k := p.dst
    let r := (p.words.getD 0 0).toNat / 128
    if !p.arrived || flowBlocked s id p then keepPending (.synldRequest id)
    else match rowRefused s k r with
      | some f =>
        dropPacket id
        reply p (clusterOf k) [f] [] [] false
      | none =>
        if !((s.core k).fillOf r).full || rowWaits s k r p false then
          keepPending (.synldRequest id)
        else
          dropPacket id
          reply p (clusterOf k) [] [] (narrowPayload p.wire (p.words.getD 1 0) (p.words.getD 2 0) ((s.core k).row r)) false

/-! ### MCAST (R302) -/

/-- A rectangle of cores of one die. -/
structure Rect where
  chip : BitVec 8
  die : Nat
  row0 : Nat
  col0 : Nat
  h : Nat
  w : Nat
  deriving DecidableEq, Repr

/-- The rectangle of a value, when it is well-formed. -/
def Rect.of? (x : Word) : Option Rect :=
  let r : Rect :=
    { chip := bits x 12 8, die := (bits x 10 2).toNat, row0 := (bits x 5 5).toNat, col0 := (bits x 0 5).toNat
      h := (bits x 25 5).toNat + 1, w := (bits x 20 5).toNat + 1 }
  if bits x 30 34 ≠ 0 || decide (20 < r.row0 + r.h) || decide (32 < r.col0 + r.w) then none else some r

/-- Its cores in ascending order of address. -/
def Rect.cores (r : Rect) : List Nat :=
  (List.range r.h).flatMap fun i => (List.range r.w).map fun j => coreNo r.die (r.row0 + i) (r.col0 + j)

def Rect.overlaps (a b : Rect) : Bool :=
  a.chip == b.chip && a.die == b.die && decide (a.row0 < b.row0 + b.h) && decide (b.row0 < a.row0 + a.h)
    && decide (a.col0 < b.col0 + b.w) && decide (b.col0 < a.col0 + a.w)

/-- The rectangles of the unanswered MCASTs of a context. -/
def openRects (s : State) (cx : Nat) : List Rect :=
  (s.ctx cx).opens.filterMap fun o =>
    if o.2.kind = .mcast then (s.net.find o.1).bind fun p => Rect.of? (p.va.setWidth 64) else none

/-- Sends a multicast: its record in the interface, which counts the answers, and one packet to the first core of its
rectangle (R302, R362). (DEDUCED, log entry 43.) -/
def sendMcast (x : Word) (r : Rect) (words : List Word) (seq : BitVec 16) (w : Wire) (data : List Byte) : M Unit := do
  let op ← openOp .mcast true
  if w.wait then addWait op
  let s ← get
  let first : BitVec 20 := coreAddr r.chip (coreNo r.die r.row0 r.col0)
  modify fun s => { s with
    net := s.net.put op { kind := .record, op, cx := s.cur, va := x.setWidth 56, words := [BitVec.ofNat 64 (r.h * r.w)] } }
  sendMessage
    { kind := .mcast, op, dst := dstOfCore s first, far := coreThread first, wire := w, seq, words := x :: words, data }
    (msgFlow s.cur 4 0)

/-- A multicast parks for its place among 16, and behind an overlapping one of its context (R293, R302). -/
def mcastFree (r : Rect) : M Unit := do
  let s ← get
  parkUnless (decide (openCount s.me .synst + openCount s.me .mcast < 16))
  parkUnless (!(openRects s s.cur).any fun q => q.overlaps r)

/-- The rectangle operand. -/
def rectOperand (x : Word) : M Rect :=
  match Rect.of? x with
  | some r => pure r
  | none => fault 0x08 [x, 0]

def mMcastRow (a b c : Spec) (off : BitVec 18) (w : Wire) : M Unit := do
  checkRegs (.mcastRow a b c off w)
  joinCourse w.wait do
    let x ← rdS a
    let base ← rdS c
    let r ← rectOperand x
    let row ← rowOnce b
    mcastFree r
    let seq ← nextTag mcastKey
    sendMcast x r [off.setWidth 64] seq w (narrowPayload w base (← wireKey) row)

def mMcastQ (a b c : Spec) (q : BitVec 2) (w : Wire) : M Unit := do
  checkRegs (.mcastQ a b c q w)
  joinCourse w.wait do
    let x ← rdS a
    let v ← rdS b
    let base ← rdS c
    let r ← rectOperand x
    mcastFree r
    let tag ← nextTag (2 ^ 33 + q.toNat)
    sendMcast x r [q.setWidth 64, BitVec.ofNat 64 (← me).name] tag w (narrowPayload w base (← wireKey) v)

/-- MCAST_DELIVERY: a row lands as a SYNST, an entry enters its queue as a SEND (R302). (DEDUCED, log entry 43.) -/
def mcastApply (p : Packet) : M Landed := do
  match p.words with
  | [_, off] => landRow p.dst (off.toNat / 128) (widenPayload p.wire 1024 p.data) p
  | _ => queueApply { p with words := p.words.drop 1 }

def mMcastDelivery (id : Nat) : M Unit := arriving .mcastDelivery .deferredLanding id mcastApply answerOne

/-! ### The meanings -/

def execSend (a b c : Spec) (q : BitVec 2) (w : Wire) (s : State) := runI (mSend a b c q w) (.send a b c q w) s
def execDep (d a b c : Spec) (w : Wire) (s : State) := runI (mDep d a b c w) (.dep d a b c w) s
def execSynst (a b c : Spec) (w : Wire) (s : State) := runI (mSynst a b c w) (.synst a b c w) s
def execSynld (d a c : Spec) (w : Wire) (s : State) := runI (mSynld d a c w) (.synld d a c w) s
def execMcastRow (a b c : Spec) (off : BitVec 18) (w : Wire) (s : State) :=
  runI (mMcastRow a b c off w) (.mcastRow a b c off w) s
def execMcastQ (a b c : Spec) (q : BitVec 2) (w : Wire) (s : State) := runI (mMcastQ a b c q w) (.mcastQ a b c q w) s
def execQueueEntryArrival (pkt : Nat) (s : State) := runE (mQueueEntryArrival pkt) s
def execDepositArrival (pkt : Nat) (s : State) := runE (mDepositArrival pkt) s
def execDirectoryForward (pkt : Nat) (s : State) := runE (mDirectoryForward pkt) s
def execForwardExpiry (core cx : Nat) (s : State) := runE (mForwardExpiry core cx) s
def execSynldRequest (pkt : Nat) (s : State) := runE (mSynldRequest pkt) s
def execMcastDelivery (pkt : Nat) (s : State) := runE (mMcastDelivery pkt) s

end Sys2Proof.Machine
end

