-- ==== Sys2Proof/Machine/Barrier.lean ====
section
/-!
DEFINITION. Class 6, the barrier object: BARJ, BARA, BARW, BARQ and the limit of BARQ (R304 to R306).
-/

namespace Sys2Proof.Machine

/-- The member bit of a slot of a core of the cluster (R304). -/
def memberBit (core slot : Nat) : Nat := 16 * qOfCore core + slot

/-- CheckPhase (R304). -/
def Barrier.check (b : Barrier) : Barrier :=
  if b.member != 0 && (b.arrived &&& b.member) == b.member then { b with phase := b.phase + 1, arrived := 0 } else b

/-- `p` is passed (R305). -/
def Barrier.passed (b : Barrier) (p : Word) : Bool :=
  let d := (b.phase - p.setWidth 32).toNat
  decide (1 ≤ d) && decide (d ≤ 2 ^ 31 - 1)

/-- The context of a CXID holds member bit `i`. -/
def Barrier.holds (b : Barrier) (i : Nat) (x : BitVec 20) : Bool := bitAt b.member i && b.holder.find i == some x

/-- BARJ.LEAVE of member bit `i` (R305). -/
def Barrier.leave (b : Barrier) (i : Nat) (x : BitVec 20) : Barrier :=
  if b.holds i x then
    { b with member := setBit b.member i false, arrived := setBit b.arrived i false, holder := b.holder.del i }.check
  else b

def myBarrier : M Barrier := do
  let s ← get
  return (s.cluster (clusterOf s.me.coreNo)).barrier
def setBarrier (b : Barrier) : M Unit := do modCluster (clusterOf (← myCore)) fun c => { c with barrier := b }
def myBit : M Nat := do
  let c ← me
  return memberBit c.coreNo c.slotNo

/-- BARJ (R305). -/
def barrierJoin : M Unit := do
  let b ← myBarrier
  let i ← myBit
  let x := (← me).cxid
  if !b.holds i x then
    parkUnless (!bitAt b.member i)
    setBarrier { b with member := setBit b.member i true, holder := b.holder.put i x }

def mBarj : M Unit := do
  needUnit "BARJ"
  barrierJoin

def mBarjLeave : M Unit := do
  needUnit "BARJ_LEAVE"
  let b ← myBarrier
  setBarrier (b.leave (← myBit) (← me).cxid)

def mBara (d : Spec) : M Unit := do
  needUnit "BARA"
  checkRegs (.bara d)
  barrierJoin
  let b ← myBarrier
  let i ← myBit
  parkUnless (!bitAt b.arrived i)
  wrS d (b.phase.setWidth 64)
  setBarrier { b with arrived := setBit b.arrived i true }.check

def mBarw (a : Spec) : M Unit := do
  needUnit "BARW"
  checkRegs (.barw a)
  let p ← rdS a
  parkUnless ((← myBarrier).passed p)

def mBarq (d a : Spec) : M Unit := do
  needUnit "BARQ"
  checkRegs (.barq d a)
  let p ← rdS a
  stage 0 do
    let s ← get
    let c := s.me
    modMe fun c => { c with expired := false, until_ := none, held := [p] }
    if c.ctl.waitlim != 0 then
      let at_ := limitCycle s c.coreNo (if c.remain = 0 then c.ctl.waitlim.toNat else c.remain)
      modMe fun c => { c with until_ := some at_, remain := 0 }
      addTimer at_ (.barqTimeout s.cur)
  let c ← me
  if c.expired then
    wrS d (c.held.getD 1 0)
    fault 0x17 [0, c.ctl.waitlim.setWidth 64]
  else
    parkUnless ((← myBarrier).passed p)
    delTimer (.barqTimeout (← get).cur)
    wrS d 0

def Instr.isBarq : Instr → Bool
  | .barq _ _ => true
  | _ => false

/-- BARQ_TIMEOUT: the limit ends and the phase has not passed; the missing members are kept for D (R305). -/
def mBarqTimeout (cx : Nat) : M Unit :=
  modify fun s => s.modCtx cx fun c =>
    let b := (s.cluster (clusterOf c.coreNo)).barrier
    let now := match c.instr, c.until_ with
      | some i, some t => Instr.isBarq i && decide (t ≤ s.cycle)
      | _, _ => false
    if now && !b.passed (c.held.getD 0 0) then
      { c with expired := true, held := [c.held.getD 0 0, b.member &&& ~~~b.arrived] }
    else c

/-! ### The meanings -/

def execBarj (s : State) := runI mBarj .barj s
def execBarjLeave (s : State) := runI mBarjLeave .barjLeave s
def execBara (d : Spec) (s : State) := runI (mBara d) (.bara d) s
def execBarw (a : Spec) (s : State) := runI (mBarw a) (.barw a) s
def execBarq (d a : Spec) (s : State) := runI (mBarq d a) (.barq d a) s
def execBarqTimeout (cx : Nat) (s : State) := runE (mBarqTimeout cx) s

end Sys2Proof.Machine
end

