-- ==== Sys2Proof/Machine/Copy.lean ====
section
/-!
DEFINITION. Class 6, the copy engine: COPY, COPY2, DCOPY, DZERO and their completion (R307 to R324).
-/

namespace Sys2Proof.Machine

/-! ### Shapes (R308, R311) -/

namespace CopyShape

def count (z : CopyShape) : Nat := z.rows * z.cols
/-- Source and destination addresses of element e, as unbounded integers (R311). -/
def srcAt (z : CopyShape) (e : Nat) : Int := z.sa.toNat + (e / z.cols : Nat) * z.ss + ((e % z.cols * z.zs : Nat) : Int)
def dstAt (z : CopyShape) (e : Nat) : Int := z.sb.toNat + (e / z.cols : Nat) * z.ds + ((e % z.cols * z.zd : Nat) : Int)

end CopyShape

/-- A VA from an unbounded address. -/
def vaOf (a : Int) : Nat := (a % 2 ^ 56).toNat
/-- A scratchpad offset from an unbounded address; a negative one lies in no row. -/
def padOf (a : Int) : Nat := if a < 0 then 2 ^ 40 else a.toNat

/-- The distinct values of a list, in order of first occurrence. -/
def nubNat (l : List Nat) : List Nat := l.foldl (fun a x => if a.contains x then a else a ++ [x]) []

/-- Inserts into a rising list without repeats. -/
def insertNat (n : Nat) : List Nat → List Nat
  | [] => [n]
  | x :: xs => if n < x then n :: x :: xs else if n = x then x :: xs else x :: insertNat n xs

def sortNat (l : List Nat) : List Nat := l.foldr insertNat []

/-! ### Page rules (R309) -/

/-- What R309 says of a page for an endpoint. -/
inductive CopyRule
  | yes | bounded | park
  | fault (code : BitVec 8)
  deriving DecidableEq, Repr

/-- Columns of the table of R309. -/
inductive CopyUse
  | src | dst | zero
  deriving DecidableEq, Repr

def copyRule (e : Entry) (own : BitVec 20) (live : Bool) (u : CopyUse) : CopyRule :=
  match pageKind e own live with
  | .privOwn => .yes
  | .privLive => .park
  | .privQuit => .fault 0x11
  | .publ => if u = .src then .yes else .fault 0x11
  | .publBounded => if u = .src then .bounded else .fault 0x11
  | .lattice => match u with
    | .src => .fault 0x11
    | .dst => .fault 0x12
    | .zero => .yes
  | .frozenLattice => match u with
    | .src => .yes
    | .dst => .fault 0x12
    | .zero => .fault 0x11
  | .bprivOwn => if u = .zero then .yes else .bounded
  | .bprivOther => if live then .park else .fault 0x11

/-- Applies R309 to a page at an address; true when the endpoint is bounded. (DEDUCED, log entry 45.) -/
def copyPage (t : Tlb) (va : Pc) (u : CopyUse) : M Bool := do
  let s ← get
  match copyRule t.e s.me.cxid (ownerLive s (Leaf.owner t.e)) u with
  | .yes => return false
  | .bounded => return true
  | .park =>
    -- the page is evaluated again when it or its owner has changed
    modMe fun c => { c with pages := [] }
    throw .park
  | .fault code =>
    if code = 0x12 then fault code [va.setWidth 64, (Leaf.jtCode t.e).setWidth 64] va
    else fault code [va.setWidth 64, (Leaf.owner t.e).setWidth 64] va

/-- The line of a copy at an address. -/
def copyLine (t : Tlb) (va : Pc) : CopyLine :=
  { va := va.toNat / 64 * 64, pa := t.pa va / 64 * 64, home := homeOfVa t va, e := t.e }

/-- The lines that a list of element addresses touches, translated and checked by R116, R124 and R309; with each, whether
its page is bounded. -/
def copyLines (vas : List Nat) (z : Nat) (u : CopyUse) : M (List (CopyLine × Bool)) :=
  (nubNat (vas.flatMap fun a => [a / 64 * 64, (a + z - 1) / 64 * 64])).mapM fun l => do
    let va : Pc := BitVec.ofNat 56 l
    let t ← translate .copy va
    let b ← copyPage t va u
    notMeta t va
    return (copyLine t va, b)

/-! ### Formats (R308) -/

/-- The format record of an endpoint: raw or not, its format unless the record is ill-formed, its element bytes (none for a
raw scratchpad), and where a page holds it. -/
structure EndFmt where
  raw : Bool
  fmt : Option Fmt
  z : Option Nat
  va : Pc := 0
  /-- a memory endpoint -/
  page : Bool := false
  deriving DecidableEq, Repr

/-- INT4G and INT3G count as raw with 8-bit elements (R308). -/
def Fmt.packed (f : Fmt) : Bool := f == .int4g || f == .int3g

/-- The endpoint of a scratchpad with a coded format. -/
def padFmt (f : Fmt) : EndFmt :=
  { raw := f == .raw, fmt := some f, z := if f == .raw then none else if Fmt.packed f then some 1 else (Fmt.ew? f).map (· / 8) }

/-- DEDUCED, log entry 45: copies: an endpoint's format is that of the page of its first element; memory addresses
wrap at 2^56; the count of COPY is sC[31:0]; a copy parks at issue until conflicting marks of other paths have
cleared; a copy of no element delivers a write-protected token at once; rows are marked only if the copy is not
refused. -/
def pageFmt (e : Entry) (va : Pc) : EndFmt :=
  { raw := Leaf.fmtCode e == 0, fmt := Leaf.fmt? e, va, page := true
    z := if Leaf.fmtCode e == 10 || Leaf.fmtCode e == 11 then some 1 else some (Leaf.ew e / 8) }

/-- Element bytes of an endpoint beside the other one. (DEDUCED, log entry 46.) -/
def endBytes (x y : EndFmt) (bothPads : Bool) : Nat :=
  match x.z with
  | some n => n
  | none => if bothPads then 1 else y.z.getD 1

/-- A BQ16 page; the formats of a bounded one are not asked for (R308, R309). -/
def EndFmt.bqPage (x : EndFmt) : Bool := x.page && x.fmt == some .bq16

/-- The formats are accepted: a bit copy of equal sizes, or a conversion. A raw endpoint has no record decoded, the other
one's neither; but BQ16 on a page that is not bounded is refused (R87, R308). (DESIGN CHOICE, log entry 80.) -/
def formatsOk (x y : EndFmt) (zs zd : Nat) (rm : RMode) (sat : Bool) : Bool :=
  if x.bqPage || y.bqPage then false
  else if x.raw || y.raw then zs == zd
  else match x.fmt, y.fmt with
    | some f, some g =>
      if Fmt.packed f || Fmt.packed g then zs == zd && f == g
      else (convElem f g (8 * zs) (8 * zd) rm sat 0 0 0).isSome
    | _, _ => false

/-- The pair asks for a decode of BQ16 elements of a scratchpad: 0x18 (R95, R104). -/
def decodesBq (x y : EndFmt) : Bool :=
  x.fmt == some .bq16 && !x.page && !y.raw && match y.fmt with
    | some g => g != .bq16 && !Fmt.packed g
    | none => false

/-- TADDR of a refused pair of formats: the page whose record is ill-formed, else the source's page, else the
destination's (R87). (DEDUCED, log entry 46.) -/
def formatsVa (x y : EndFmt) (srcMem : Bool) : Pc :=
  if x.fmt.isNone then x.va else if y.fmt.isNone || !srcMem then y.va else x.va

/-- The formats with which the elements are converted: raw for a bit copy. -/
def convFmts (x y : EndFmt) (bounded : Bool) : Fmt × Fmt :=
  let f := x.fmt.getD .raw
  let g := y.fmt.getD .raw
  if bounded || x.raw || y.raw || Fmt.packed f || Fmt.packed g then (.raw, .raw) else (f, g)

/-! ### COPY and COPY2 at issue (R311) -/

/-- The endpoint's format, from the page of its first element or from its code. (DEDUCED, log entry 46.) -/
def endpointFmt (k : EndK) (a : Int) (f : Fmt) : M EndFmt := do
  match k with
  | .m =>
    let va : Pc := BitVec.ofNat 56 (vaOf a)
    return pageFmt (← translate .copy va).e va
  | _ => return padFmt f

/-- R309 for bounded pages: all pages of both endpoints are bounded, of one format and width; or 0x18 names the first
bounded one. -/
def boundedCheck (mems : Bool) (ls : List (CopyLine × Bool)) (first : Pc × Pc) : M Unit :=
  match ls.find? (·.2) with
  | none => pure ()
  | some b =>
    let same (l : CopyLine × Bool) : Bool :=
      l.2 && Leaf.fmtCode l.1.e == Leaf.fmtCode b.1.e && Leaf.ew l.1.e == Leaf.ew b.1.e
    if mems && ls.all same then pure ()
    else
      let va : Pc :=
        if first.1.toNat / 64 * 64 = b.1.va then first.1 else if first.2.toNat / 64 * 64 = b.1.va then first.2
        else BitVec.ofNat 56 b.1.va
      fault 0x18 [va.setWidth 64] va

/-- A local run of a copy: a negative offset lies in no region. -/
def copyRun (o : Int) (n : Nat) : M Unit :=
  match o with
  | .ofNat k => do
    let _ ← checkPad k n 1
  | _ => fault 0x1A [BitVec.ofInt 64 o, BitVec.ofNat 64 n]

/-- The distinct rows that a list of element offsets touches, rising. -/
def rowsTouched (offs : List Nat) : List Nat := sortNat (offs.map (· / 128))

/-- A row is covered in all 128 bytes by elements of `z` bytes at the offsets. -/
def rowCovered (offs : List Nat) (z r : Nat) : Bool :=
  (List.range 128).all fun b => offs.any fun o => decide (o ≤ 128 * r + b) && decide (128 * r + b < o + z)

/-- The core of a scratchpad endpoint: the own core, or that of a remote row address; 2^20 + core address on another
chip. -/
def endCore (s : State) (k : EndK) (own : Nat) (x : Word) : Nat :=
  let a : BitVec 20 := bits x 18 20
  if k = .r then (if bits a 12 8 = s.chip then (bits a 0 12).toNat else 2 ^ 20 + a.toNat) else own

/-- The base of an endpoint's addresses: a remote row address gives its offset. -/
def endBase (k : EndK) (x : Word) : Word := if k = .r then (bits x 0 18).setWidth 64 else x

/-- The marks of an operation: rows of a core, or lines. -/
def markEnd (k : EndK) (core : Nat) (rows : List Nat) (ls : List CopyLine) (write : Bool) (op : Nat) : M Unit :=
  if k = .m then ls.forM fun l => placeMark (.line l.pa) 2 write op
  else rows.forM fun r => placeMark (.row core r) 2 write op

/-- Park: no mark of another path conflicts with an endpoint (R36). -/
def endFree (k : EndK) (core : Nat) (rows : List Nat) (ls : List CopyLine) (write : Bool) : M Unit := do
  let s ← get
  if k = .m then parkUnless (ls.all fun l => !markBlocks s (.line l.pa) 2 write)
  else parkUnless (rows.all fun r => !markBlocks s (.row core r) 2 write)

/-- Lowest and highest VA of some lines. -/
def envelope (ls : List CopyLine) : Option (Pc × Pc) :=
  match (ls.map (·.va)).min?, (ls.map (·.va)).max? with
  | some a, some b => some (BitVec.ofNat 56 a, BitVec.ofNat 56 (b + 63))
  | _, _ => none

/-- The token register becomes empty-reserved and the operation enters the engine (R44, R313).
(DEDUCED, log entry 45.) -/
def startCopy (c : CopyCmd) (ev : Instr) : M Unit := do
  modMe fun x => x.setRegSt (.s c.reg) (.reserved .copy c.id)
  modCluster (clusterOf c.core) fun k => { k with copies := k.copies ++ [c] }
  addPending ev

/-- The checks and the start of a copy of at least one element. (DEDUCED, log entry 45.) -/
def copyIssue (o : CopyOp) (z : CopyShape) : M Unit := do
  let s ← get
  let own := s.me.coreNo
  let n := z.count
  let ra := z.sa
  let rb := z.sb
  if o.sk = .r then let _ ← rowOperand ra
  if o.dk = .r then let _ ← rowOperand rb
  let z := { z with sa := endBase o.sk ra, sb := endBase o.dk rb }
  let fs ← endpointFmt o.sk z.sa.toNat o.sfmt
  let fd ← endpointFmt o.dk z.sb.toNat o.dfmt
  let pads := o.sk ≠ .m ∧ o.dk ≠ .m
  let zs := endBytes fs fd pads
  let zd := endBytes fd fs pads
  let srcs := (List.range n).map { z with zs, zd }.srcAt
  let dsts := (List.range n).map { z with zs, zd }.dstAt
  let firstBounded (k : EndK) (va : Pc) : M Bool := do
    if k = .m then return Leaf.bounded (← translate .copy va).e else return false
  if !(← firstBounded o.sk fs.va) && !(← firstBounded o.dk fd.va) && !formatsOk fs fd zs zd o.rm o.sat then
    if decodesBq fs fd then fault 0x18 [z.sa]
    fault 0x01 [] (formatsVa fs fd (o.sk = .m))
  let ls ← if o.sk = .m then copyLines (srcs.map vaOf) zs .src else pure []
  let ld ← if o.dk = .m then copyLines (dsts.map vaOf) zd .dst else pure []
  boundedCheck (o.sk = .m && o.dk = .m) (ls ++ ld) (fs.va, fd.va)
  let (cs, cd) := convFmts fs fd ((ls ++ ld).any (·.2))
  let ls := ls.map (·.1)
  let ld := ld.map (·.1)
  let z := { z with zs, zd, fs := cs, fd := cd }
  -- alignment of every element
  (List.range n).forM fun e => do
    let a := z.srcAt e
    let b := z.dstAt e
    if a % (zs : Int) ≠ 0 then fault 0x19 [BitVec.ofInt 64 a, BitVec.ofNat 64 zs] (if o.sk = .m then BitVec.ofNat 56 (vaOf a) else 0)
    if b % (zd : Int) ≠ 0 then fault 0x19 [BitVec.ofInt 64 b, BitVec.ofNat 64 zd] (if o.dk = .m then BitVec.ofNat 56 (vaOf b) else 0)
  -- local runs, one for each row of the copy
  (List.range z.rows).forM fun r => do
    if o.sk = .p then copyRun (z.srcAt (r * z.cols)) (z.cols * zs)
    if o.dk = .p then copyRun (z.dstAt (r * z.cols)) (z.cols * zd)
  let do_ := dsts.map padOf
  let sRows := if o.sk = .m then [] else rowsTouched (srcs.map padOf)
  let dRows := if o.dk = .m then [] else rowsTouched do_
  let core := (← get).core own
  dRows.forM fun r => do
    if (o.dk = .r || core.isShared r) && !rowCovered do_ zd r then
      fault 0x1A [BitVec.ofNat 64 (128 * r), 128]
  checkWrite (.s o.d)
  parkUnless (decide (((← get).cluster (clusterOf own)).copies.length < 16))
  let s ← get
  let sCore := endCore s o.sk own ra
  let dCore := endCore s o.dk own rb
  -- a remote endpoint that its target refuses gets no mark (R303, R311)
  let taken (k : EndK) (core : Nat) (rows : List Nat) : List Nat :=
    if k = .r && core < 4096 && rows.any fun r => (rowRefused s core r).isSome then [] else rows
  (taken o.sk sCore sRows).forM fun r => parkUnless (!inWaveRegion s sCore r)
  (taken o.dk dCore dRows).forM fun r => parkUnless (!inWaveRegion s dCore r)
  endFree o.sk sCore sRows ls false
  endFree o.dk dCore dRows ld true
  let id ← freshId
  let c ← me
  markEnd o.sk sCore (taken o.sk sCore sRows) ls false id
  markEnd o.dk dCore (taken o.dk dCore dRows) ld true id
  setUnfenced 2 (envelope (ls ++ ld))
  startCopy
    { id, cx := s.cur, core := own, thread := c.thread, reg := o.d, target := rb.setWidth 56
      shape := some z, src := ls, dst := ld, sCore, dCore, sAddr := bits ra 18 20, dAddr := bits rb 18 20 } (.copyComplete id)

/-- A token of `n` elements (R314). -/
def copyToken (n : Nat) : Word := BitVec.ofNat 64 n
/-- A failed token (R314). -/
def failToken (code : BitVec 8) (n : Nat) : Word :=
  setBit (setBits (BitVec.ofNat 64 n) 32 code) 63 true

/-- The common course of COPY and COPY2. -/
def copyCourse (o : CopyOp) (rows cols : Nat) (ss ds : BitVec 32) (idx : Word) : M Unit := do
  let n := rows * cols
  if n = 0 then
    checkWrite (.s o.d)
    modMe fun c => c.deposit (.s o.d) 0 .copy none
  else if 2 ^ 24 < n then fault 0x1A [0, BitVec.ofNat 64 n]
  else
    let sa ← rdS o.a
    let sb ← rdS o.b
    copyIssue o
      { sk := o.sk, dk := o.dk, sa, sb, rows, cols, ss := ss.toInt, ds := ds.toInt, zs := 1, zd := 1, fs := .raw
        fd := .raw, sat := o.sat, rm := o.rm, idx, key := (← me).ctl.srk }

def descWord (c : BitVec 5) (i : Nat) : M Word := if c = 0 then pure 0 else rdSn (c + BitVec.ofNat 5 i)

def mCopy (o : CopyOp) : M Unit := do
  checkRegs (.copy o)
  let d ← descWord o.c 0
  copyCourse o 1 (bits d 0 32).toNat 0 0 (← descWord o.c 1)

def mCopy2 (o : CopyOp) : M Unit := do
  checkRegs (.copy2 o)
  let d ← descWord o.c 0
  let t ← descWord o.c 1
  copyCourse o (bits d 32 32).toNat (bits d 0 32).toNat (bits t 0 32) (bits t 32 32) (← descWord o.c 2)

/-! ### In the copy engine (R311 to R315) -/

/-- Every L1 copy of a line is written back if dirty, and invalidated (R312). -/
def dropLine (pa : Nat) (s : State) : State :=
  let t := pullLine pa s
  { t with cores := t.cores.map fun k => (k.1, { k.2 with l1 := k.2.l1.filter fun x => x.pa != pa }) }

def modCopy (id : Nat) (f : CopyCmd → CopyCmd) : M Unit :=
  modify fun s => { s with clusters := s.clusters.map fun k =>
    (k.1, { k.2 with copies := k.2.copies.map fun c => if c.id = id then f c else c }) }

/-! #### Packets (R292, R307, R354, R367) -/

/-- What a packet of the copy engine asks of units of another chip: their marks, the end of the marks. -/
inductive CopyAsk
  | openRows | openLines | close
  deriving DecidableEq, Repr

def CopyAsk.word : CopyAsk → Word
  | .openRows => 0 | .openLines => 1 | .close => 2

/-- A packet of an operation of the copy engine. -/
def copyPacket (c : CopyCmd) (p : Packet) : M Unit := do
  let _ ← sendPacket { p with op := c.id, cx := c.cx, thread := c.thread } (clusterOf c.core)

/-- The destination of a packet to a core: its number, or the core address on another chip. -/
def toCoreOf (p : Packet) (core : Nat) (a : BitVec 20) : Packet :=
  { p with dst := if core < 4096 then core else 8192 + (bits a 12 8).toNat, far := coreThread a }

/-- The destination of a packet to the home of a line. -/
def toHomeOf (s : State) (p : Packet) (l : CopyLine) : Packet :=
  { p with dst := if s.here l.pa then 4096 + l.home else 8192 + chipOf l.pa
           far := threadAddr (BitVec.ofNat 8 (chipOf l.pa)) (coreOfCluster l.home 0) 0, va := BitVec.ofNat 56 l.va, pa := l.pa, e := l.e }

/-- The number under which another chip keeps the marks of an operation. -/
def markKey (c : CopyCmd) : Word := (1 : BitVec 8) ++ c.thread ++ BitVec.ofNat 32 c.id

/-- The chips, other than the own one, that hold lines of an operation. -/
def farChips (s : State) (ls : List CopyLine) : List Nat :=
  nubNat ((ls.filter fun l => !s.here l.pa).map fun l => chipOf l.pa)

/-- Asks other chips to mark the units of an operation, or to clear the marks; the number of packets. -/
def askFar (c : CopyCmd) (sRows dRows : List Nat) (closing : Bool) : M Nat := do
  let s ← get
  let k := markKey c
  let write (b : Bool) : Word := (BitVec.ofBool b).setWidth 64
  let rows (core : Nat) (a : BitVec 20) (rs : List Nat) (w : Bool) : M Nat := do
    if core < 4096 then return 0
    copyPacket c (toCoreOf { kind := .copy, words := [if closing then CopyAsk.word .close else CopyAsk.word .openRows, k, write w]
                             data := rs.flatMap fun r => bytesOf 8 (BitVec.ofNat 64 r) } core a)
    return 1
  let lines (ls : List CopyLine) (w : Bool) : M Nat := do
    let cs := farChips s ls
    cs.forM fun ch => do
      let mine := ls.filter fun l => chipOf l.pa == ch
      match mine with
      | [] => pure ()
      | l :: _ =>
        copyPacket c (toHomeOf s { kind := .copy, words := [if closing then CopyAsk.word .close else CopyAsk.word .openLines, k, write w]
                                   data := mine.flatMap fun l => bytesOf 8 (BitVec.ofNat 64 l.pa) } l)
    return cs.length
  let a ← if sRows.isEmpty then pure 0 else rows c.sCore c.sAddr sRows false
  let b ← if dRows.isEmpty then pure 0 else rows c.dCore c.dAddr dRows true
  return a + b + (← lines c.src false) + (← lines c.dst true)

/-- The chip serves a request of another chip's copy engine for its marks (R34, R303). -/
def serveCopy (id : Nat) (p : Packet) : M Unit := do
  let s ← get
  let ns := (List.range (p.data.length / 8)).map fun k => natOfBytes ((p.data.drop (8 * k)).take 8)
  let op := (p.words.getD 1 0).toNat
  let w := p.words.getD 2 0 == 1
  let row := p.words.getD 0 0 == CopyAsk.word .openRows
  let units := ns.map fun n => if row then MUnit.row p.dst n else MUnit.line n
  if p.words.getD 0 0 = CopyAsk.word .close then
    dropPacket id
    clearMarks op
    reply p p.node [] [] [] false
  else match (if row then ns.findSome? (rowRefused s p.dst) else none) with
    | some f =>
      dropPacket id
      reply p p.node [f] [] [] false
    | none =>
      if (units.any fun u => markBlocks s u 2 w) || (row && ns.any fun r => inWaveRegion s p.dst r) then
        keepPending (.copyComplete id)
      else
        dropPacket id
        units.forM fun u => modify fun s =>
          let s := match u with
            | .line pa => pullLine pa s
            | .row _ _ => s
          { s with marks := s.marks ++ [{ unit_ := u, path := 2, write := w, cx := p.cx, op }] }
        reply p p.node [] [] [] false

/-! #### The course of an operation -/

/-- The rows of the scratchpad endpoints. -/
def CopyShape.srcRows (z : CopyShape) : List Nat :=
  if z.sk = .m then [] else rowsTouched ((List.range z.count).map fun e => padOf (z.srcAt e))
def CopyShape.dstRows (z : CopyShape) : List Nat :=
  if z.dk = .m then [] else rowsTouched ((List.range z.count).map fun e => padOf (z.dstAt e))

/-- The token is filled, then the marks clear; a failed token carries the fault of its first read (R314, R315). -/
def endCopy (cl : Nat) (c : CopyCmd) (token : Word) (f : Option FaultRec) : M Unit := do
  c.dst.forM fun l => modify (dropLine l.pa)
  landToken c.cx c.reg .copy c.id token (f.map fun f => { f with taddr := c.target, src := 2 })
  clearMarks c.id
  let _ ← match c.shape with
    | some z => askFar { c with cx := nobody } z.srcRows z.dstRows true
    | none => askFar { c with cx := nobody } [] [] true
  modCluster cl fun k => { k with copies := k.copies.filter fun x => x.id != c.id }

/-- The engine fails an operation with `n` elements written (R314). -/
def failCopy (cl : Nat) (c : CopyCmd) (n : Nat) (f : FaultRec) : M Unit :=
  endCopy cl c (failToken f.code (if c.page then 0 else n)) (some f)

/-- The byte of a source line at a VA, or of a source row at an offset, as it was read. -/
def gotByte (c : CopyCmd) (unit_ o : Nat) : Byte := ((c.got.getD unit_ []).getD o 0)

/-- The elements read and converted, as bytes by destination address in increasing e (R308, R311). -/
def copyImage (s : State) (c : CopyCmd) (z : CopyShape) : List Host.Cell :=
  (List.range z.count).flatMap fun e =>
    let a := z.srcAt e
    let bs := (List.range z.zs).map fun (k : Nat) => match z.sk with
      | .m => let va := vaOf (a + k); gotByte c (va / 64 * 64) (va % 64)
      | .r => gotByte c ((padOf a + k) / 128) ((padOf a + k) % 128)
      | .p => byteOf ((s.core c.sCore).row ((padOf a + k) / 128)) ((padOf a + k) % 128)
    let i := z.idx + BitVec.ofNat 64 e
    let code := (convElem z.fs z.fd (8 * z.zs) (8 * z.zd) z.rm z.sat i z.key (natOfBytes bs)).getD 0
    (List.range z.zd).map fun (k : Nat) =>
      (if z.dk = .m then vaOf (z.dstAt e + k) else padOf (z.dstAt e) + k, byteOf (BitVec.ofNat 64 code) k)

/-- The units of an operation still conflict with an earlier one of its context (R37). -/
def copyHeld (s : State) (c : CopyCmd) : Bool :=
  s.marks.any fun m => m.op == c.id && heldBehind s m.unit_ 2 c.cx c.id m.write

/-- A home of the lines that is fenced, and one that is lasting (R376). (DEDUCED, log entry 61.) -/
def fencedHome (s : State) (ls : List CopyLine) : Bool :=
  (ls.filter fun l => s.here l.pa).any fun l => anyFenced s (lineUnits s l.home l.pa (Leaf.const l.e))
def lastingHome (s : State) (ls : List CopyLine) : Option Word :=
  (ls.filter fun l => s.here l.pa).findSome? fun l => firstLasting s (lineUnits s l.home l.pa (Leaf.const l.e))

/-- The lines of a list that carry an uncorrectable error. -/
def spoiltLine (s : State) (ls : List CopyLine) : Option Nat :=
  (ls.find? fun l => s.here l.pa && !Leaf.const l.e && lineSpoilt s l.pa).map (·.pa)

/-- Asks for every source unit that is not of the own core: lines at their homes, rows at their core (R307, R311). -/
def readSource (c : CopyCmd) (z : CopyShape) : M Unit := do
  let s ← get
  let rows := if z.sk = .r then z.srcRows else []
  modCopy c.id fun c => { c with phase := .reading, left := c.src.length + rows.length, refused := [] }
  c.src.forM fun l => copyPacket c (toHomeOf s { kind := .lineReq, ord := 2 } l)
  rows.forM fun r =>
    copyPacket c (toCoreOf { kind := .copy, ord := r, flag := true, words := [BitVec.ofNat 64 (128 * r)] } c.sCore c.sAddr)
  keepPending (.copyComplete c.id)

/-- Sends the destination lines to their homes, each in one packet with the bytes that the copy covers (R311). -/
def writeLines (c : CopyCmd) (img : List Host.Cell) : M Unit := do
  let s ← get
  modCopy c.id fun c => { c with phase := .writing, left := c.dst.length, image := img }
  c.dst.forM fun l => do
    let mine := img.filter fun b => b.1 / 64 * 64 == l.va
    let data : Line := mine.foldl (fun x b => setBits x (8 * (b.1 % 64)) b.2) 0
    let mask : Word := mine.foldl (fun m b => setBit m (b.1 % 64) true) 0
    copyPacket c (toHomeOf s { kind := .copy, ord := 2, flag := true, words := [mask], data := bytesOf 64 data } l)
  keepPending (.copyComplete c.id)

/-- The bytes of a destination row over what it holds. -/
def imageRow (img : List Host.Cell) (r : Nat) (old : Row) : Row :=
  img.foldl (fun (x : Row) b => if b.1 / 128 = r then rowSetBytes x (b.1 % 128) [b.2] else x) old

/-- Elements whose destination lies in a row below r. -/
def belowRow (z : CopyShape) (r : Nat) : Nat := ((List.range z.count).filter fun e => decide (padOf (z.dstAt e) / 128 < r)).length

/-- Elements none of whose bytes lie in the lines of a list. -/
def outsideLines (z : CopyShape) (ls : List Nat) : Nat :=
  ((List.range z.count).filter fun e => (List.range z.zd).all fun (k : Nat) =>
    !ls.contains (vaOf (z.dstAt e + k) / 64 * 64)).length

/-- Writes the destination rows in rising order: own rows one after another, shared ones as fills; a remote row by a packet
whose answer is awaited (R303, R311). -/
def writeRows (cl : Nat) (c : CopyCmd) (z : CopyShape) : List Nat → M Unit
  | [] => endCopy cl c (copyToken z.count) none
  | r :: rest => do
    let wait : M Unit := do
      modCopy c.id fun x => { x with phase := .writing, image := c.image, rest := r :: rest }
      keepPending (.copyComplete c.id)
    if z.dk = .r then
      modCopy c.id fun x => { x with phase := .writing, left := 1, refused := [], image := c.image, rest }
      copyPacket c (toCoreOf
        { kind := .copy, ord := r, words := [BitVec.ofNat 64 (128 * r)], data := bytesOf 128 (imageRow c.image r 0) } c.dCore c.dAddr)
      keepPending (.copyComplete c.id)
    else
      let k := (← get).core c.dCore
      if k.isShared r then
        match k.fill r (imageRow c.image r 0) c.thread with
        | .ok k =>
          modCore c.dCore fun _ => k
          writeRows cl c z rest
        | .second b => failCopy cl c (belowRow z r) (secondWriter r b c.thread)
        | .full => wait
      else
        modCore c.dCore fun k => k.setRow r (imageRow c.image r (k.row r))
        writeRows cl c z rest

/-- One step of an operation of the copy engine (R311). -/
def copyStep (cl : Nat) (c : CopyCmd) (z : CopyShape) : M Unit := do
  let s ← get
  let again : M Unit := keepPending (.copyComplete c.id)
  match c.phase with
  | .waiting =>
    let refused := ((if z.sk = .r && c.sCore < 4096 then z.srcRows else []).findSome? (rowRefused s c.sCore)).or
      ((if z.dk = .r && c.dCore < 4096 then z.dstRows else []).findSome? (rowRefused s c.dCore))
    if copyHeld s c || fencedHome s (c.src ++ c.dst) then again
    else match refused, lastingHome s (c.src ++ c.dst) with
      | some f, _ => failCopy cl c 0 f
      | none, some u => failCopy cl c 0 { code := 0x41, info := [u] }
      | none, none => do
        let n ← askFar c z.srcRows z.dstRows false
        if n = 0 then readSource c z
        else
          modCopy c.id fun c => { c with phase := .opening, left := n, refused := [] }
          again
  | .opening =>
    if c.left ≠ 0 then again
    else match c.refused with
      | f :: _ => failCopy cl c 0 f.2
      | [] => readSource c z
  | .reading =>
    let ready := z.sk ≠ .p || z.srcRows.all fun r => !(s.core c.sCore).isShared r || ((s.core c.sCore).fillOf r).full
    if c.left ≠ 0 then again
    else match c.refused with
      | f :: _ => failCopy cl c 0 f.2
      | [] =>
        if !ready then again
        else
          let img := copyImage s c z
          if z.dk = .m then writeLines c img else writeRows cl { c with image := img } z z.dstRows
  | .writing =>
    if c.left ≠ 0 then again
    else match c.refused with
      | f :: _ =>
        failCopy cl c (if z.dk = .m then outsideLines z (c.refused.map (·.1)) else belowRow z f.1) f.2
      | [] => if z.dk = .m then endCopy cl c (copyToken (if c.page then 65536 else z.count)) none else writeRows cl c z c.rest

/-- COPY_COMPLETE: a step of the copy engine, or of its service to another chip's. (DESIGN CHOICE, log entry 18.) -/
def mCopyComplete (op : Nat) : M Unit := do
  let s ← get
  match findCopy s op with
  | none => match s.net.find op with
    | some p => serveCopy op p
    | none => pure ()
  | some (cl, c) => match c.shape with
    | none => pure ()
    | some z => copyStep cl c z

/-! ### DCOPY and DZERO (R320 to R324) -/

/-- The 1,024 lines of a 64 KiB range. -/
def pageLines (t : Tlb) (va : Pc) : List CopyLine :=
  (List.range 1024).map fun k => copyLine t (va + BitVec.ofNat 56 (64 * k))

/-- The rows of two pages pair for row transfers (R321); `enc` says that the stack is encrypted. -/
def rowPair (enc : Bool) (a b : Tlb) (va vb : Pc) : Bool :=
  let x : BitVec 40 := BitVec.ofNat 40 (a.phys va)
  let y : BitVec 40 := BitVec.ofNat 40 (b.phys vb)
  let same (lo w : Nat) : Bool := bits x lo w == bits y lo w
  !enc && !Leaf.const a.e && bits x 36 4 == bits y 36 4 && Leaf.rowLocal a.e == Leaf.rowLocal b.e
    && (if Leaf.rowLocal a.e then same 19 17 else same 16 3 && same 28 5 && same 33 3)

/-- One page of DCOPY or DZERO: address, entry, and whether it is bounded. -/
def pageOperand (va : Pc) (u : CopyUse) : M (Tlb × Bool) := do
  let t ← translate .copy va
  let b ← copyPage t va u
  return (t, b)

/-- Marks, UNF and the start of a page operation. -/
def startPage (d : BitVec 5) (c : CopyCmd) : M Unit := do
  checkWrite (.s d)
  parkUnless (decide (((← get).cluster (clusterOf c.core)).copies.length < 16))
  endFree .m c.core [] c.src false
  endFree .m c.core [] c.dst true
  let id ← freshId
  markEnd .m c.core [] c.src false id
  markEnd .m c.core [] c.dst true id
  -- one envelope over both ranges
  setUnfenced 2 (envelope (c.src ++ c.dst))
  startCopy { c with id } (if c.shape.isSome then .copyComplete id else .pageOperationComplete id)

/-- No line of a 64 KiB range lies in a metadata region (R124). -/
def notMetaRange (t : Tlb) (va : Pc) : M Unit := do
  let s ← get
  if !Leaf.const t.e then
    match (pageLines t va).find? fun l => inMeta s l.pa with
    | some l => fault 0x11 [BitVec.ofNat 64 l.va, (Leaf.owner t.e).setWidth 64] (BitVec.ofNat 56 l.va)
    | none => pure ()

/-- The stack of a page of this chip is encrypted. -/
def encrypted (s : State) (t : Tlb) (va : Pc) : Bool := (s.die (stackDie (t.phys va))).keyD

/-- A DCOPY between stacks, of a CONST source, or of an encrypted stack is a copy of 65,536 raw bytes through the homes (R320).
That of a range to itself writes nothing (R323). -/
def homeShape (s : State) (ta tb : Tlb) (va vb : Pc) : Option CopyShape :=
  let one := ta.phys va / 2 ^ 36 == tb.phys vb / 2 ^ 36 && s.here (ta.phys va)
  if va = vb || (one && !Leaf.const ta.e && !encrypted s ta va) then none
  else some
    { sk := .m, dk := .m, sa := va.setWidth 64, sb := vb.setWidth 64, rows := 1, cols := 65536, ss := 0, ds := 0, zs := 1
      zd := 1, fs := .raw, fd := .raw, sat := false, rm := .rne, idx := 0, key := 0 }

def mDcopy (d : BitVec 5) (a b : Spec) : M Unit := do
  checkRegs (.dcopy d a b)
  let va : Pc := (← rdS a).setWidth 56
  let vb : Pc := (← rdS b).setWidth 56
  needAlign va 65536
  needAlign vb 65536
  let (ta, ba) ← pageOperand va .src
  let (tb, bb) ← pageOperand vb .dst
  notMetaRange ta va
  notMetaRange tb vb
  if ba || bb then
    if !(ba && bb && Leaf.fmtCode ta.e == Leaf.fmtCode tb.e && Leaf.ew ta.e == Leaf.ew tb.e) then
      let v := if ba then va else vb
      fault 0x18 [v.setWidth 64] v
  let s ← get
  let c := s.me
  let src := pageLines ta va
  let dst := pageLines tb vb
  startPage d
    { id := 0, cx := s.cur, core := c.coreNo, thread := c.thread, reg := d, target := vb, shape := homeShape s ta tb va vb
      page := true, src, dst, e := tb.e, size := tb.size, rowPair := rowPair (encrypted s ta va) ta tb va vb }

def mDzero (d : BitVec 5) (a : Spec) : M Unit := do
  checkRegs (.dzero d a)
  let va : Pc := (← rdS a).setWidth 56
  needAlign va 65536
  let (t, _) ← pageOperand va .zero
  notMetaRange t va
  let s ← get
  let c := s.me
  startPage d
    { id := 0, cx := s.cur, core := c.coreNo, thread := c.thread, reg := d, target := va, shape := none, page := true
      dst := pageLines t va, e := t.e, size := t.size
      rowPair := !encrypted s t va }

/-- The physical row, within its page, of line k: two a pseudo-channel, or 64 in one bank (R317, R318). -/
def pageRowOf (e : Entry) (k : Nat) : Nat := if Leaf.rowLocal e then k / 16 else k / 512 * 32 + k / 4 % 32

/-- Free choices, one for each of `n` rows. (DESIGN CHOICE, log entry 47.) -/
def freeChoices : Nat → M (List Bool)
  | 0 => pure []
  | n + 1 => do
    let d ← draw
    return Config.freeBool d :: (← freeChoices n)

/-- What a line of a page copy reads. -/
def lineOf (s : State) (l : CopyLine) : Line :=
  if Leaf.const l.e then constLine l.e else coherentLine s l.pa

/-- Lines that are written whole, with correct check bits, carry no uncorrectable error any more (R322). -/
def mendLines (ls : List CopyLine) (s : State) : State :=
  { s with bad := s.bad.filter fun b => !(ls.any fun l => l.pa == b) }

/-- Copies line k of a page for the rows that `sel` selects. -/
def copyPageLines (c : CopyCmd) (sel : Nat → Bool) (s : State) : State :=
  let data := c.src.map (lineOf s)
  (c.dst.zip data).zipIdx.foldl (fun t p =>
    if sel (pageRowOf c.e p.2) then (pullLine p.1.1.pa t).writeLine p.1.1.pa p.1.2 else t) s

/-- The location at a line of a page. -/
def CopyLine.loc (l : CopyLine) (size : Nat) : Loc := { e := l.e, size, va := BitVec.ofNat 56 l.va }

/-- The metadata of the lines of a reset goes to zero (R324). -/
def resetMeta (ls : List CopyLine) (size : Nat) (s : State) : State :=
  ls.foldl (fun s l =>
    let x := l.loc size
    let s := s.writeNat (x.lineWordAt (x.off / 64)) 4 0
    let s := { s with units := s.units.filter fun u => u.1 / 64 * 64 != l.pa }
    if Leaf.fillOnce l.e then
      let z := x.bytes
      (List.range (ceilDiv 64 z)).foldl (fun s k =>
        let y : Loc := { x with va := x.va + BitVec.ofNat 56 (k * z) }
        if y.base / 64 * 64 ≤ y.off then s.writeNat y.writerAt 8 0 else s) s
    else s) s

/-- Some unit of a lattice page is frozen (R324). -/
def pageFrozen (s : State) (ls : List CopyLine) (size : Nat) : Bool :=
  ls.any fun l => Leaf.lattice l.e && (Leaf.frozen l.e || Loc.lineFrozen s (l.loc size) ((l.loc size).off / 64))

/-- The locations of a lattice page go to their all-zero image, and its waiters are answered (R324). -/
def resetPage (ls : List CopyLine) (size : Nat) : M Unit :=
  whenM (ls.any fun l => Leaf.lattice l.e) do
    modify (resetMeta ls size)
    wake fun y => ls.any fun l => l.pa == y.canon.pa / 64 * 64

/-- The lines of a page are cleared, by row zeros with correct check bits; a lattice page is reset (R322, R324). -/
def zeroLines (ls : List CopyLine) (size : Nat) (rowZero : Bool) : M Unit := do
  ls.forM fun l => modify fun s => (dropLine l.pa s).writeLine l.pa 0
  if rowZero then modify (mendLines ls)
  resetPage ls size

/-- Lines of zeros go to the homes of a page of an encrypted stack (R320). -/
def sendZeros (c : CopyCmd) : M Unit := do
  let s ← get
  modCopy c.id fun c => { c with phase := .writing, left := c.dst.length, refused := [] }
  c.dst.forM fun l =>
    copyPacket c (toHomeOf s { kind := .copy, ord := 2, flag := true, words := [BitVec.allOnes 64], data := List.replicate 64 0 } l)

/-- DZERO of a page in the stacks of this chip (R320, R324): by row zeros, or by a home transfer. -/
def zeroHere (cl : Nat) (c : CopyCmd) : M Unit := do
  let again : M Unit := keepPending (.pageOperationComplete c.id)
  if c.phase = .writing then
    if c.left ≠ 0 then again
    else match c.refused with
      | f :: _ => failCopy cl c 0 f.2
      | [] => do
        resetPage c.dst c.size
        endCopy cl c (copyToken 65536) none
  else if pageFrozen (← get) c.dst c.size then failCopy cl c 0 { code := 0x13, info := [c.target.setWidth 64] }
  else if c.rowPair then do
    zeroLines c.dst c.size true
    endCopy cl c (copyToken 65536) none
  else do
    sendZeros c
    again

/-- DZERO of a page of another chip: its lines are marked there, then the base die there carries it out (R34, R320, R367). -/
def zeroFar (cl : Nat) (c : CopyCmd) (l : CopyLine) : M Unit := do
  let again : M Unit := keepPending (.pageOperationComplete c.id)
  let answered (next : M Unit) : M Unit :=
    if c.left ≠ 0 then again
    else match c.refused with
      | f :: _ => failCopy cl c 0 f.2
      | [] => next
  match c.phase with
  | .waiting => do
    let n ← askFar c [] [] false
    modCopy c.id fun c => { c with phase := .opening, left := n, refused := [] }
    again
  | .opening => answered do
    modCopy c.id fun c => { c with phase := .writing, left := 1, refused := [] }
    copyPacket c { (toHomeOf (← get) { kind := .zeroReq, flag := true, words := [markKey c] } l) with size := c.size }
    again
  | _ => answered (endCopy cl c (copyToken 65536) none)

/-- A DCOPY within the chip: rows that pair carry their check bits; else an uncorrectable word fails it, and each row is
then old or new (R322). (DESIGN CHOICE, log entry 47.) -/
def copyHere (cl : Nat) (c : CopyCmd) : M Unit := do
  let s ← get
  let good : M Unit := endCopy cl c (copyToken 65536) none
  if (c.src.map (·.va)) = (c.dst.map (·.va)) then good
  else match spoiltLine s c.src with
    | some pa =>
      if c.rowPair then
        let bad := ((c.src.zip c.dst).filter fun p => lineSpoilt s p.1.pa).map fun p => p.2.pa
        modify (copyPageLines c fun _ => true)
        modify fun s => { mendLines c.dst s with bad := sortNat (bad ++ (mendLines c.dst s).bad) }
        good
      else
        let ch ← freeChoices 64
        modify (copyPageLines c fun r => ch.getD r false)
        failCopy cl c 0 { code := 0x40, info := [BitVec.ofNat 64 pa] }
    | none =>
      modify (copyPageLines c fun _ => true)
      modify (mendLines c.dst)
      good

/-- A page of this chip is cleared for another chip's DZERO, whose marks on its lines are in place (R323, R324). -/
def serveZero (id : Nat) (p : Packet) : M Unit := do
  let t : Tlb := { asid := 0, base := p.va - BitVec.ofNat 56 (p.va.toNat % 2 ^ p.size), size := p.size, e := p.e }
  let ls := pageLines t p.va
  let s ← get
  let answer (fs : List FaultRec) : M Unit := do
    dropPacket id
    reply p p.node fs [] [] false
  if (ls.any fun l => markBlocks s (.line l.pa) 2 true) || fencedHome s ls then keepPending (.pageOperationComplete id)
  else match lastingHome s ls with
    | some u => answer [{ code := 0x41, info := [u], taddr := p.va, src := 8 }]
    | none =>
      if pageFrozen s ls p.size then answer [{ code := 0x13, info := [p.va.setWidth 64], taddr := p.va, src := 1 }]
      else do
        zeroLines ls p.size (!encrypted s t p.va)
        answer []

/-- PAGE_OPERATION_COMPLETE (R320 to R324). (DESIGN CHOICE, log entry 47.) -/
def mPageOperationComplete (op : Nat) : M Unit := do
  let s ← get
  match findCopy s op with
  | none => match s.net.find op with
    | some p => serveZero op p
    | none => pure ()
  | some (cl, c) =>
    if copyHeld s c || fencedHome s (c.src ++ c.dst) then keepPending (.pageOperationComplete op)
    else match lastingHome s (c.src ++ c.dst), c.src, c.dst with
      | some u, _, _ => failCopy cl c 0 { code := 0x41, info := [u] }
      | none, [], l :: _ => if s.here l.pa then zeroHere cl c else zeroFar cl c l
      | none, _, _ => copyHere cl c

/-! ### The meanings -/

def execCopy (o : CopyOp) (s : State) := runI (mCopy o) (.copy o) s
def execCopy2 (o : CopyOp) (s : State) := runI (mCopy2 o) (.copy2 o) s
def execDcopy (d : BitVec 5) (a b : Spec) (s : State) := runI (mDcopy d a b) (.dcopy d a b) s
def execDzero (d : BitVec 5) (a : Spec) (s : State) := runI (mDzero d a) (.dzero d a) s
def execCopyComplete (op : Nat) (s : State) := runE (mCopyComplete op) s
def execPageOperationComplete (op : Nat) (s : State) := runE (mPageOperationComplete op) s

end Sys2Proof.Machine
end

