-- ==== Sys2Proof/Machine/Task.lean ====
section
/-!
DEFINITION. The task engine: arrival, dispatch, SPAWN, TDEF, TDEC, QUIT, MIGRATE, LDBAL and the stage queues
(R329, R331 to R351).
-/

namespace Sys2Proof.Machine

def taskFault {α : Type} (code : BitVec 8) (info : List Word) (taddr : Pc := 0) : M α := fault code info taddr 3

def State.group (s : State) (g : Nat) : Group := s.groups.getD g {}
def modGroup (g : Nat) (f : Group → Group) : M Unit :=
  modify fun s => { s with groups := s.groups.put g (f (s.group g)) }

/-! ### CXIDs (R331) -/

/-- A CXID is free: no live context holds it, and the pages of its last holder are reclaimed (R331). -/
def cxidFree (s : State) (x : BitVec 20) : Bool :=
  (cxidKey s x).isNone && s.reclaim.all fun p => p.2 != x || !leafOwned s p.1 x

/-- The pages that name a CXID when its holder ends (R145). -/
def ownedLeaves (s : State) (x : BitVec 20) : List (Nat × BitVec 20) :=
  (allLeaves s).filterMap fun l => if leafOwned s l.at_ x then some (l.at_, x) else none

/-! ### Arrivals (R336) -/

/-- The cap of the arrival queue for a context (R336). -/
def arrivalCap (s : State) (k : Nat) (c : Ctx) : Nat :=
  let q := (s.core k).qcap.toNat
  match c.group with
  | some g => if (s.group g).cap = 0 then q else Nat.min q (s.group g).cap
  | none => q

/-- A context leaves the arrival queue and the spill list of a core, with the dispatches that have passed over it
(R336, R337). -/
def Core.unlist (c : Core) (key : Nat) : Core :=
  { c with arrivals := c.arrivals.filter (· != key), spill := c.spill.filter (· != key), passed := c.passed.del key }

/-- The spill list of a core is looked at again (R336). -/
def lookAtSpill (k : Nat) : M Unit := do
  if !((← get).core k).spill.isEmpty then addPending (.spillReturn k)

/-- Places an arrival at a core (R336); false when it is held back. -/
def arriveAt (k key : Nat) : M Bool := do
  let s ← get
  let core := s.core k
  let c := s.ctx key
  if unitFenced s (dieOfCore k) (coreUnit s k) then return false
  else if core.spill.isEmpty && !c.image && decide (core.arrivals.length < arrivalCap s k c) then
    modCore k fun x => { x with arrivals := x.arrivals ++ [key] }
    modify fun s => s.modCtx key fun c => { c with place := .queued k }
    addPending (.dispatch k)
    return true
  else if ← saveParts k key c.spillParts then
    modCore k fun x => { x with spill := x.spill ++ [key] }
    modify fun s => s.modCtx key fun c => { c with place := .spilled k }
    addPending (.spillReturn k)
    return true
  else return false

/-- SPILL_RETURN: the first spilled context moves into the arrival queue (R336). -/
def mSpillReturn (k : Nat) : M Unit := do
  let s ← get
  match (s.core k).spill with
  | [] => pure ()
  | key :: rest =>
    if (s.core k).arrivals.length < arrivalCap s k (s.ctx key) then
      modCore k fun x => { x with spill := rest, arrivals := x.arrivals ++ [key] }
      if !(s.ctx key).image then
        restoreFrom k key
        dropParts k key
      modify fun s => s.modCtx key fun c => { c with place := .queued k }
      addPending (.dispatch k)
      if !rest.isEmpty then addPending (.spillReturn k)

/-- Sends an arrival to a core; the sender `cx` waits for operation `op`, and a context that moves is its own sender. -/
def sendArrival (key dst cx op fromCore : Nat) : M Unit := do
  let s ← get
  let thread := (s.ctx (if cx = nobody then key else cx)).thread
  let _ ← sendPacket { kind := .arrival, op, cx, thread, dst, words := [BitVec.ofNat 64 key] } (clusterOf fromCore)

/-! ### Dispatch (R333, R337) -/

/-- Residents of a group on a core, replicas excepted. -/
def residents (s : State) (k : Nat) (g : Option Nat) : Nat :=
  ((s.core k).slots.filter fun x => (s.ctx x.2).group == g && (s.ctx x.2).ident.replica == 0).length

/-- Slots that are free and not wave-reserved. -/
def freeSlots (s : State) (k : Nat) : List Nat :=
  let core := s.core k
  (List.range 16).filter fun n =>
    (core.slots.find n).isNone && (core.waveSlots.find n).isNone && !(core.waveRes && (n == 0 || n == 8))

/-- An entry of the ready table. -/
structure Ready where
  task : Bool
  /-- task row or context -/
  id : Nat
  prio : Nat
  order : Nat
  cx : Nat
  deriving DecidableEq, Repr

def Ready.key (r : Ready) : Nat := (r.prio * 2 + (if r.task then 0 else 1)) * 2 ^ 20 + r.order
def Ready.passKey (r : Ready) : Nat := if r.task then 2 ^ 32 + r.id else r.id

def readyTable (s : State) (k : Nat) : List Ready :=
  let core := s.core k
  (core.readyTasks.map fun r =>
      let t := core.taskRows.getD r { cx := 0, tag := 0 }
      { task := true, id := r, prio := (s.ctx t.cx).prio, order := t.tag, cx := t.cx })
    ++ core.arrivals.zipIdx.map fun a =>
      { task := false, id := a.1, prio := (s.ctx a.1).prio, order := a.2, cx := a.1 }

/-- The slot an entry takes, when it is eligible. -/
def Ready.slot (s : State) (k : Nat) (r : Ready) : Option Nat :=
  let c := s.ctx r.cx
  let room := match c.group with
    | none => true
    | some g => decide (residents s k (some g) < (s.group g).slots)
  if !room then none
  else match c.slotLeft with
    | some n => if (freeSlots s k).contains n then some n else none
    | none => (freeSlots s k).head?

/-- The entry of the lowest key, the first of equal ones. (DESIGN CHOICE, log entry 107.) -/
def lowest (rs : List Ready) : Option Ready :=
  rs.foldl (fun b r => match b with
    | none => some r
    | some x => if r.key < x.key then some r else some x) none

/-- A context becomes resident (R333). -/
def occupy (k slot key : Nat) : M Unit := do
  restoreFrom k key
  modCore k fun x => { x.dropParts key with slots := x.slots.put slot key }
  modify fun s => s.modCtx key fun c =>
    { c with
      place := .slot k slot, image := false, slotLeft := none, entry := true
      lineCount := if c.image then c.lineCount else 0 }

/-- A task leaves its row: the row is drained and its bound writer cleared; a waiting one enters the table (R341). -/
def Core.taskLeaves (c : Core) (r : Nat) : Core :=
  let c :=
    { c with
      taskRows := c.taskRows.del r, readyTasks := c.readyTasks.filter (fun x => x != r), passed := c.passed.del (2 ^ 32 + r) }
  let c := c.setFill r {}
  c.taskRows.foldl (fun c t => Core.readyTask c t.1) c

/-- DISPATCH (R337). -/
def mDispatch (k : Nat) : M Unit := do
  let s ← get
  if isSupervisor k then pure ()
  else
    let elig := (readyTable s k).filter fun r => (r.slot s k).isSome
    let aged := elig.filter fun r => decide (64 ≤ (s.core k).passed.getD r.passKey 0)
    match lowest (if aged.isEmpty then elig else aged) with
    | none => pure ()
    | some r => match r.slot s k with
      | none => pure ()
      | some slot =>
        modCore k fun x =>
          let passed := (elig.filter fun q => q != r).foldl
            (fun m q => m.put q.passKey (m.getD q.passKey 0 + 1)) (x.passed.del r.passKey)
          if r.task then { Core.taskLeaves x r.id with passed } else { x with arrivals := x.arrivals.filter (· != r.id), passed }
        occupy k slot r.cx
        addPending (.dispatch k)
        lookAtSpill k

/-! ### New contexts (R64, R332, R334) -/

/-- s1, s2, … full with the arguments; the rest dead (R64). -/
def argRegs (args : List Word) : Vector (Reg 64) 32 :=
  Vector.ofFn fun i => if i.val = 0 then {} else match args[i.val - 1]? with
    | some x => { val := x, st := .full }
    | none => {}

/-- The identity of a context created on a core (R332). -/
def identOf (s : State) (k slot : Nat) (grp : Word) (cxid : BitVec 20) : Ident :=
  { chip := s.chip.setWidth 64, die := BitVec.ofNat 64 (dieOfCore k), row := BitVec.ofNat 64 (rowOfCore k)
    col := BitVec.ofNat 64 (colOfCore k), slot := BitVec.ofNat 64 slot, grp, cxid := cxid.setWidth 64 }

/-- A child or task of the current context (R339). -/
def newChild (s : State) (k : Nat) (cxid : BitVec 20) (entry : Pc) (args : List Word) (status : Option Pc) :
    Ctx :=
  let c := s.me
  { live := true, chip := s.chip, cxid, asid := c.asid, ident := identOf s k 0 c.ident.grp cxid, place := .transit
    pc := entry, s := argRegs args, group := c.group, prio := c.prio, arrival := true
    creator := { parent := some s.cur, parentCxid := c.cxid, status } }

/-- The checks that SPAWN and TDEF share before the target (R339); the child's CXID. -/
def childChecks (d : Spec) (x : Word) (child : BitVec 20) : M (BitVec 20 × Option Pc) := do
  let s ← get
  let g := match s.me.group with
    | some g => s.group g
    | none => {}
  if g.limit ≤ child.toNat then taskFault 0x38 [x, child.setWidth 64]
  let status ← if d = .s 0 then pure none else do
    let va : Pc := (← rdS d).setWidth 56
    let t ← translate .join va
    if Leaf.jt t.e ≠ .fill || Leaf.ew t.e ≠ 64 then
      fault 0x12 [va.setWidth 64, (Leaf.jtCode t.e).setWidth 64, 7] va
    needAlign va 8
    pure (some va)
  return (BitVec.ofNat 20 (g.cxbase + g.nl + child.toNat), status)

/-- The target core has a spill area and is not fenced (R336, R339). -/
def targetCore (k : Nat) : M Unit := do
  let s ← get
  if !hasSpill s k then taskFault 0x39 [(coreAddr s.chip k).setWidth 64]
  let u := coreUnit s k
  if unitFenced s (dieOfCore k) u || unitLasting s (dieOfCore k) u then fault 0x41 [u] 0 8

/-- Arguments from s-registers c .. c+3; none for s0. -/
def argWords (c : BitVec 5) : M (List Word) :=
  if c = 0 then pure [] else (List.range 4).mapM fun i => rdSn (c + BitVec.ofNat 5 i)

/-- The child becomes a live context of the group. -/
def addChild (c : Ctx) : M Unit := do
  modify fun s => s.setCtx c.cxid.toNat c
  match c.group with
  | some g => modGroup g fun g => { g with created := g.created + 1, live := g.live + 1 }
  | none => pure ()

def mSpawn (d a b : Spec) (c : BitVec 5) (child : BitVec 20) : M Unit := do
  checkRegs (.spawn d a b c child)
  stage 0 do
    let x ← rdS a
    let entry : Pc := (← rdS b).setWidth 56
    let (cxid, status) ← childChecks d x child
    let s ← get
    let k := (bits x 0 12).toNat
    if bits x 20 44 ≠ 0 || !namesCore (bits x 0 20) || isSupervisor k || bits x 12 8 ≠ s.chip then taskFault 0x38 [x, 0]
    targetCore k
    let args ← argWords c
    parkUnless (cxidFree (← get) cxid)
    addChild (newChild (← get) k cxid entry args status)
    let op ← openOp .other false
    addWait op
    sendArrival cxid.toNat k (← get).cur op (← myCore)
  let _ ← waitAnswers

/-- The row of a task (R341). (DESIGN CHOICE, log entry 44.) -/
def taskRow (count : BitVec 12) (entry : Pc) (args : List Word) (status : Option Pc) (cxid : BitVec 20) (tag : BitVec 15) :
    Row :=
  let ws : List Word := [count.setWidth 64, entry.setWidth 64] ++ (List.range 4).map (fun i => args.getD i 0)
    ++ [(status.getD 0).setWidth 64, ((0 : BitVec 29) ++ tag ++ cxid)]
  ws.foldr (fun w (r : Row) => (r <<< 64) ||| w.setWidth 1024) 0

/-- DESIGN CHOICE, log entry 44: a task context of TDEF is live from its TDEF; bytes 64 to 127 of its row are free.
-/
def mTdef (d a b : Spec) (c : BitVec 5) (child : BitVec 20) (tag : BitVec 15) (count : BitVec 12) : M Unit := do
  checkRegs (.tdef d a b c child tag count)
  let x ← rdS a
  let entry : Pc := (← rdS b).setWidth 56
  let (cxid, status) ← childChecks d x child
  let (k, o) ← rowOperand x
  let s ← get
  let kn := (bits k 0 12).toNat
  if bits k 12 8 = s.chip then targetCore kn
  let args ← argWords c
  parkUnless (cxidFree (← get) cxid)
  addChild (newChild (← get) kn cxid entry args status)
  let op ← openOp .tdec true
  let s ← get
  let _ ← sendPacket
    { kind := .row, op, cx := s.cur, pc := s.me.pc, thread := s.me.thread, dst := dstOfCore s k, ord := kn
      far := coreThread k, words := [BitVec.ofNat 64 o], flag := true
      data := bytesOf 128 (taskRow count entry args status cxid tag) } (clusterOf s.me.coreNo)

def mTdec (a : Spec) : M Unit := do
  checkRegs (.tdec a)
  let (k, o) ← rowOperand (← rdS a)
  waitStq
  let op ← openOp .tdec true
  let s ← get
  let _ ← sendPacket
    { kind := .tdec, op, cx := s.cur, pc := s.me.pc, thread := s.me.thread, dst := dstOfCore s k
      far := coreThread k, ord := (bits k 0 12).toNat, words := [BitVec.ofNat 64 o] } (clusterOf s.me.coreNo)

/-- TASK_ROW_DECREMENT (R341). -/
def mTaskRowDecrement (id : Nat) : M Unit := do
  let s ← get
  match s.net.find id with
  | none => pure ()
  | some p =>
    let k := p.dst
    let o := (p.words.getD 0 0).toNat
    let r := o / 128
    if !p.arrived then keepPending (.taskRowDecrement id)
    else match rowRefused s k r with
      | some f =>
        dropPacket id
        answerOne p (some f)
      | none =>
        if unitFenced s (dieOfCore k) (coreUnit s k) || !((s.core k).fillOf r).full || markBlocks s (.row k r) 2 true then
          keepPending (.taskRowDecrement id)
        else
          dropPacket id
          let row := (s.core k).row r
          let n := bits row 0 64
          if n = 0 then answerOne p (some { code := 0x3A, info := [BitVec.ofNat 64 o], src := 3 })
          else
            modCore k fun c =>
              let c := c.setRow r (setBits row 0 (n - 1))
              if (c.taskRows.find r).isSome then Core.readyTask c r else c
            addPending (.dispatch k)
            answerOne p none

/-! ### The end of a context (R329, R331, R342) -/

/-- One fill of a word of an address space from a die, by a thread address; `empty` for an empty word only. -/
def fillWord (die : Nat) (asid : BitVec 16) (va : Pc) (x : Word) (thread : BitVec 24) (empty : Bool) : M Unit := do
  let s ← get
  match walk s die asid va with
  | none => pure ()
  | some t =>
    let _ ← sendPacket
      { kind := .join, cx := nobody, thread, dst := homeDst s t va, va, pa := t.pa va, e := t.e, size := t.size
        words := [(JT.code .fill).setWidth 64, 64, x], flag := empty } (die * 160 + 71)

/-- The writer of a completion word (R329). -/
def engineThread (s : State) (die : Nat) : BitVec 24 := threadAddr s.chip (die * 1024 + 1023) 0

/-- The value of a completion word (R329). -/
def completionWord (g : Group) : Word :=
  (if g.failed then 2 else 1 : BitVec 2) ++ bit1 g.fb ++ bit1 g.fo ++ (0 : BitVec 20) ++ (0 : BitVec 8)
    ++ BitVec.ofNat 32 g.created

/-- A group that holds no live context and has no core to fill is no longer live (R329, R333).
(DEDUCED, log entry 49.) -/
def groupEnd (gk : Nat) : M Unit := do
  let g := (← get).group gk
  if g.begun && g.live = 0 && g.plan.isEmpty && !g.done then
    modGroup gk fun g => { g with done := true }
    if g.waveRes then g.cores.forM fun k => do
      modCore k fun c => { c with waveRes := false }
      addPending (.dispatch k)
    match g.completion with
    | some va => fillWord g.home g.asid va (completionWord g) (engineThread (← get) g.home) false
    | none => pure ()

/-- Refuses every deposit held for a context (R47). -/
def refuseHeld (key : Nat) : M Unit := do
  let s ← get
  let k := (s.ctx key).coreNo
  (s.core k).deposits.forM fun d =>
    if d.cx = key then do
      refuseDeposit (s.ctx key).name d.sender d.reg d.pc d.thread 0
      modCore k fun c => c.dropDeposit d
    else pure ()

/-- Leaves the barrier of the cluster (R306). -/
def leaveBarrier (key : Nat) : M Unit := do
  let c := (← get).ctx key
  modCluster (clusterOf c.coreNo) fun k =>
    { k with barrier := (List.range 64).foldl (fun b i => b.leave i c.cxid) k.barrier }

/-- Releases the tile and array claims of a context (R237, R266). -/
def releaseClaims (key : Nat) : M Unit := do
  let s ← get
  modCore (s.ctx key).coreNo fun k =>
    { k with tiles := k.tiles.filter fun t => t.cx != key, tileWait := k.tileWait.filter fun t => t.1 != key }
  (claimedArrays s key).forM fun n => modArr n Array4.release

/-- Disables the region given to a launched context (R334, R342). -/
def disableRegion (key : Nat) : M Unit := do
  let s ← get
  let c := s.ctx key
  match c.group with
  | none => pure ()
  | some gk =>
    let k := coreNo c.ident.die.toNat c.ident.row.toNat c.ident.col.toNat
    let r := (s.group gk).regBase + c.ident.slot.toNat
    let g := (s.core k).region r
    if g.kind == 1 && g.cxid == c.cxid then modify (regionPut k r { g with kind := 0 })

/-- The context that a task row of TDEF is for (R341). -/
def Packet.taskCx (p : Packet) : Nat := (bits (ofBytes 1024 p.data : Row) 448 20).toNat

/-- A context of a group created on core k is still on its way there: launched, spawned or defined by TDEF; one that
migrates or is balanced is not on the core before it arrives (R335, R346). -/
def onTheWay (s : State) (gk : Option Nat) (k : Nat) : Bool :=
  s.net.any fun n =>
    n.2.dst == k && match n.2.kind with
      | .arrival => (n.2.cx != nobody || n.2.flow.isSome) && (s.ctx (n.2.words.getD 0 0).toNat).group == gk
      | .row => n.2.flag && (s.ctx n.2.taskCx).group == gk
      | _ => false

/-- The queue configurations of a group end with its last context on a core (R346). -/
def endQueues (gk : Option Nat) (k : Nat) : M Unit := do
  let s ← get
  if !(onTheWay s gk k
      || s.ctxs.any fun p => p.2.live && p.2.group == gk && p.2.coreNo == k && p.2.place != .nowhere && p.2.place != .transit) then
    modCore k fun c => { c with queues := c.queues.filter fun q => q.2.group != gk }

/-- A context ends: the deposits held for it are refused (R47), and it leaves its core, the directory and its group. -/
def endContext (key : Nat) : M Unit := do
  refuseHeld key
  let s ← get
  let c := s.ctx key
  let k := c.coreNo
  modify fun s => { s with reclaim := s.reclaimed.reclaim ++ ownedLeaves s c.cxid }
  modCore k fun x =>
    let x := { (x.unlist key).dropParts key with slots := x.slots.filter fun p => p.2 != key, fwd := x.fwd.del key }
    x.taskRows.foldl (fun x t => if t.2.cx = key then x.taskLeaves t.1 else x) x
  modify fun s => s.modCtx key fun c => { c with live := false, place := .nowhere, run := .ended }
  endQueues c.group k
  addPending (.dispatch k)
  lookAtSpill k
  if c.ident.replica = 0 then
    match c.group with
    | some gk =>
      modGroup gk fun g => { g with live := g.live - 1 }
      groupEnd gk
    | none => pure ()

/-- The first unread failed token (R315). (DEDUCED, log entry 48.) -/
def failedToken (c : Ctx) : Option (Spec × FaultRec) :=
  (List.range 32).findSome? fun i => match (c.s[i]?.map (·.st)).getD .dead with
    | .prot _ (some f) => some (.s (BitVec.ofNat 5 i), f)
    | _ => none

/-- All registers by specifier. -/
def allRegs : List Spec :=
  (List.range 32).map (fun i => Spec.s (BitVec.ofNat 5 i)) ++ (List.range 16).map (fun i => Spec.v (BitVec.ofNat 4 i))
    ++ (List.range 8).map fun i => Spec.b (BitVec.ofNat 3 i)

def RegSt.isReserved : RegSt → Bool
  | .reserved _ _ => true
  | _ => false
def RegSt.isHeld : RegSt → Bool
  | .reserved _ _ | .broken | .prot _ _ => true
  | _ => false

/-- The check of R315 at a QUIT: the token counts as read. (DEDUCED, log entry 48.) -/
def quitTokens : M Unit := do
  match failedToken (← me) with
  | none => pure ()
  | some (r, f) =>
    modMe fun c => c.setRegSt r .full
    raise f

/-- The last steps of a QUIT, after its status word is filled (R342). -/
def finishQuit (key : Nat) : M Unit := do
  let c := (← get).ctx key
  match c.group with
  | some g => modGroup g fun g => { g with fb := g.fb || c.flags.b, fo := g.fo || c.flags.o }
  | none => pure ()
  disableRegion key
  endContext key

/-- The QUIT of a context has passed its checks and sent its status fill, if it has a status word (R342, R377). -/
def Ctx.quitting (c : Ctx) : Bool := c.instr == some .quit && c.phase != 0

def mQuit : M Unit := do
  let s ← get
  let c := s.me
  let key := s.cur
  stage 0 do
    if c.unf ≠ 0 then fault 0x1B [c.unf.setWidth 64]
    quitTokens
    parkUnless (!allRegs.any fun r => (c.regSt r).isReserved)
    waitStq
    -- TREL and AREL of every claim (R237, R266)
    let k := s.core c.coreNo
    parkUnless (k.tiles.all fun t => t.cx != key || (!tileBusy k t.wave key t.name && (!t.wave || !streamActive s c.coreNo)))
    parkUnless ((claimedArrays s key).all fun n => (s.arr n).queue.isEmpty)
    releaseClaims key
    leaveBarrier key
    modify (flushL1 c.coreNo fun l => l.own && l.cxid == c.cxid)
    match c.creator.status with
    | none => pure ()
    | some va =>
      let t ← translate .join va
      let op ← openOp .join false
      addWait op
      homeRequest .join op t va 0 [(JT.code .fill).setWidth 64, 64, 1] [] false
  let _ ← waitAnswers
  finishQuit key

/-! ### MIGRATE and LDBAL (R335, R343, R344) -/

/-- What an arrival holds of a context: the masked registers as they were read at issue (R57, R343). -/
def Ctx.travel (c : Ctx) (mask : BitVec 31) : Ctx :=
  let keep (i : Nat) : Bool := decide (1 ≤ i) && bitAt mask (i - 1)
  { c with
    s := Vector.ofFn fun i => if keep i.val then c.seen.s.get i else {}
    v := Vector.replicate 16 {}, b := Vector.replicate 8 {}
    ctl := { c.ctl with tcause := 0, tpc := 0, taddr := 0, tinfo := 0 }
    loop0 := {}, loop1 := {}, place := .transit, entry := true, arrival := true, lineCount := 0, alignPc := none
    skipOwn := false }

/-- The context leaves core k for core `dst`: directory, arrival, forwarding entry, deposits (R335, R343). -/
def sendAway (key k dst : Nat) : M Unit := do
  restoreFrom k key
  let moved := ((← get).core k).deposits.filter fun d => d.cx == key
  modCore k fun x =>
    let x := moved.foldl Core.dropDeposit ((x.unlist key).dropParts key)
    { x with slots := x.slots.filter fun p => p.2 != key, fwd := x.fwd.put key dst }
  moved.forM fun d => modify fun s => match heldDeposit s dst d with
    | some t => t
    | none => s.modCore dst fun x => { x with deposits := x.deposits ++ [d] }
  delTimer (.forwardExpiry k key)
  addTimer ((← get).cycle + 4096) (.forwardExpiry k key)
  sendArrival key dst nobody 0 k
  addPending (.dispatch k)
  lookAtSpill k

/-- A new context that its core refuses was never created. -/
def uncreate (key : Nat) : M Unit := do
  match ((← get).ctx key).group with
  | some g => modGroup g fun g => { g with created := g.created - 1 }
  | none => pure ()
  endContext key

/-- A core that is lasting takes no arrival: the sender is answered with 0x41 and its child ends; a context that was sent
there stays as saved at that core, faulted with 0x41 (R376). (DEDUCED, log entry 48.) -/
def arrivalFails (p : Packet) (key : Nat) : M Unit := do
  let u := coreUnit (← get) p.dst
  let f : FaultRec := { code := 0x41, info := [u], src := 8 }
  if p.cx = nobody then
    modify fun s => s.modCtx key fun c => { c with place := .saved p.dst, run := .faulted, faults := [f] }
    modify fun s => postCtx (s.ctx key) f s
  else
    uncreate key
    reply p (clusterOf p.dst) [f] [] [] false

/-- CONTEXT_ARRIVAL: an arrival reaches its core, and its sender is answered once it is placed (R336). -/
def mContextArrival (id : Nat) : M Unit := do
  let s ← get
  match s.net.find id with
  | none => pure ()
  | some p =>
    if !p.arrived || flowBlocked s id p then keepPending (.contextArrival id)
    else if unitLasting s (dieOfCore p.dst) (coreUnit s p.dst) then
      dropPacket id
      arrivalFails p (p.words.getD 0 0).toNat
    else if ← arriveAt p.dst (p.words.getD 0 0).toNat then
      dropPacket id
      reply p (clusterOf p.dst) [] [] [] false
    else keepPending (.contextArrival id)

/-- The answer of a row that has landed or is refused; a task whose row is refused ends with it (R303, R341).
(DESIGN CHOICE, log entry 44.) -/
def answerRow (p : Packet) (f : Option FaultRec) : M Unit := do
  if p.flag && f.isSome then uncreate p.taskCx
  answerOne p f

def mRowLanding (id : Nat) : M Unit := arriving .rowLanding .deferredLanding id rowApply answerRow

/-- DEFERRED_LANDING: a landing or delivery that waited is tried again (R303). -/
def mDeferredLanding (id : Nat) : M Unit := do
  match (← get).net.find id with
  | none => pure ()
  | some p =>
    if p.kind = .mcast then arriving .deferredLanding .deferredLanding id mcastApply answerOne
    else arriving .deferredLanding .deferredLanding id rowApply answerRow

def mMigrate (a : Spec) (mask : BitVec 31) : M Unit := do
  checkRegs (.migrate a mask)
  let x ← rdS a
  let s ← get
  let c := s.me
  let k := (bits x 0 12).toNat
  if bits x 20 44 ≠ 0 || !namesCore (bits x 0 20) || isSupervisor k || bits x 12 8 ≠ s.chip then taskFault 0x38 [x, 0]
  if !hasSpill s k then taskFault 0x39 [(coreAddr s.chip k).setWidth 64]
  if c.unf ≠ 0 then fault 0x1B [c.unf.setWidth 64]
  match allRegs.find? fun r => (c.regSt r).isHeld with
  | some r => fault 0x06 [r.code.setWidth 64]
  | none => pure ()
  if allRegs.any fun r => match r with
      | .s _ => false
      | r => c.regSt r != .dead then taskFault 0x38 [x, 1]
  let tiles := ((s.core c.coreNo).tiles.filter fun t => t.cx == s.cur).length
  if tiles ≠ 0 then fault 0x29 [BitVec.ofNat 64 tiles] 0 4
  match claimedArrays s s.cur with
  | n :: _ => fault 0x32 [arrName s n, c.cxid.setWidth 64] 0 5
  | [] => pure ()
  if c.stage.isSome then taskFault 0x3A [0]
  if c.ctl.tcause ≠ 0 || c.loop0.active || c.loop1.active then taskFault 0x38 [x, 2]
  if k ≠ c.coreNo then
    waitStq
    leaveBarrier s.cur
    modify (flushL1 c.coreNo fun l => l.own && l.cxid == c.cxid)
    modMe fun c => { c.travel mask with pc := c.leave.getD c.npc, xfer := true, leave := none }
    sendAway s.cur c.coreNo k

def mLdbal (margin : BitVec 4) : M Unit := do
  let s ← get
  let k := s.me.coreNo
  if isSupervisor k then pure ()
  else
    let others := ((List.range 4).map (coreOfCluster (clusterOf k))).filter (· != k)
    let best := others.foldl (fun (b : Option Nat) q => match b with
      | none => some q
      | some p => if coreLoad s q < coreLoad s p then some q else some p) none
    match best with
    | none => pure ()
    | some d =>
      if coreLoad s d + margin.toNat ≤ coreLoad s k then
        let movable := (s.core k).arrivals.filter fun key =>
          let c := s.ctx key
          c.arrival && c.stage.isNone && match c.group with
            | some g => (s.group g).cores.contains d
            | none => false
        match movable.getLast? with
        | none => pure ()
        | some key =>
          -- an entry that has come by balancing is not moved again
          modify fun s => s.modCtx key fun c => { c with place := .transit, arrival := false }
          sendAway key k d

/-! ### QCFG, STAGE, QEOS (R346, R348, R349) -/

/-- Contexts that a launch creates on a core for a stage. -/
def stageCount (g : Group) (st : Nat) : Nat :=
  if g.stages = 1 then (if st = 0 then g.slots else 0) else g.stageSlots.getD st 0

def myGroup : M Group := do
  let s ← get
  return match s.me.group with
    | some g => s.group g
    | none => {}

/-- DEDUCED, log entry 48: stages: QUIT counts a token that failed as read; STAGE on a queue that is not configured
parks; the pop of an end token counts as a pop of a replicable stage; QCFG counts the contexts of a stage by the
launch record. -/
def mQcfg (a : Spec) (q : BitVec 2) (depth : BitVec 4) (prod cons : BitVec 2) : M Unit := do
  checkRegs (.qcfg a q depth prod cons)
  let x ← rdS a
  let s ← get
  let c := s.me
  let g ← myGroup
  let loc := a == .s 0
  let new : StageQ :=
    { depth := depth.toNat + 1, sender := if loc then none else some (bits x 0 28), prod, cons, group := c.group }
  let same (o : StageQ) : Bool :=
    o.depth == new.depth && o.sender == new.sender && o.prod == new.prod && o.cons == new.cons && o.group == new.group
  if bits x 28 36 ≠ 0 then stageFault q.toNat
  match (s.core c.coreNo).queues.find q.toNat with
  | some o => if !same o then stageFault q.toNat
  | none =>
    if decide (1 < stageCount g cons.toNat) || (loc && decide (1 < stageCount g prod.toNat)) then stageFault q.toNat
    setQueue c.coreNo q.toNat new

/-- DEDUCED, log entry 48: stages: QUIT counts a token that failed as read; STAGE on a queue that is not configured
parks; the pop of an end token counts as a pop of a replicable stage; QCFG counts the contexts of a stage by the
launch record. -/
def mStage (inq : BitVec 2) (inp : Bool) (outq : BitVec 2) (outp rep : Bool) : M Unit := do
  let c ← me
  let st := c.ident.stage.toNat
  let g ← myGroup
  if c.stage.isSome then stageFault st
  if inp then
    let q ← myQueue inq
    if !c.ofStage q q.cons then stageFault inq.toNat
  if outp then
    let q ← myQueue outq
    if q.sender.isSome || !c.ofStage q q.prod then stageFault outq.toNat
  if rep && (!inp || !outp || decide (1 < stageCount g st)) then stageFault st
  let reg (i : Nat) : Reg 64 := match c.s[i]? with
    | some r => match r.st with
      | .full | .prot _ _ => { r with st := .full }
      | _ => {}
    | none => {}
  let regs := (List.range 8).map fun i => reg (i + 1)
  let decl : StageSt :=
    { input := if inp then some inq else none, output := if outp then some outq else none, rep, regs
      lc0 := c.loop0, lc1 := c.loop1, restart := c.npc }
  modMe fun c => { c with stage := some decl }
  -- a queue that was crowded before its consumer was declared (R350)
  let s ← get
  match (s.core c.coreNo).queues.find inq.toNat with
  | some q => match q.highSince with
    | some t => if rep then addTimer (Nat.max s.cycle (t + 64 * 16)) (.replicaAdd c.coreNo inq.toNat)
    | none => pure ()
  | none => pure ()

def mQeos (a : Spec) (q : BitVec 2) : M Unit := do
  checkRegs (.qeos a q)
  if a = .s 0 then
    checkPush q
    push q 0 true
  else
    let k ← coreOperand (← rdS a)
    sendEntry k q { fmt := .raw, rm := .rne, sat := false, wait := false } (bytesOf 8 (0 : Word)) true false

/-! ### Replicas (R350, R351) -/

/-- Replica 0 of the consumer stage of a queue, when the stage is replicable. -/
def replicaZero (s : State) (k j : Nat) (q : StageQ) : Option (Nat × Ctx) :=
  s.ctxs.find? fun p => p.2.live && p.2.coreNo == k && p.2.ofStage q q.cons && p.2.ident.replica == 0
    && match p.2.stage with
      | some g => g.rep && g.input == some (BitVec.ofNat 2 j)
      | none => false

/-- Live replicas of a stage, the highest-numbered first. -/
def liveReplicas (s : State) (k : Nat) (q : StageQ) : List (Nat × Nat) :=
  ((List.range 4).reverse).filterMap fun n => if n = 0 then none else
    (s.ctxs.find? fun p => p.2.live && p.2.coreNo == k && p.2.ofStage q q.cons && p.2.ident.replica.toNat == n).map
      fun p => (n, p.1)

/-- The input queue has been full enough for 64 rotations (R350). -/
def StageQ.crowded (q : StageQ) (cycle : Nat) : Bool := match q.highSince with
  | some t => decide (t + 64 * 16 ≤ cycle)
  | none => false
def StageQ.idle (q : StageQ) (cycle : Nat) : Bool := match q.emptySince with
  | some t => decide (t + 256 * 16 ≤ cycle)
  | none => false

/-- REPLICA_ADD (R350). (DEDUCED, log entry 51.) -/
def mReplicaAdd (k j : Nat) : M Unit := do
  let s ← get
  match (s.core k).queues.find j with
  | none => pure ()
  | some q =>
    match replicaZero s k j q with
    | none => pure ()
    | some (_, z) =>
      let have_ := (liveReplicas s k q).map (·.1)
      match [1, 2, 3].find? fun n => !have_.contains n, z.group, z.stage with
      | some n, some gk, some st =>
        if q.crowded s.cycle && !(q.entries.any (·.eos)) then
          let g := s.group gk
          let cxid : BitVec 20 := BitVec.ofNat 20 (g.cxbase + g.nl + g.limit + 3 * z.index + n - 1)
          match (freeSlots s k).head? with
          | some slot =>
            if cxidFree s cxid then
              let base : Ctx := {}
              modify fun s => s.setCtx cxid.toNat
                { base with
                  live := true, chip := z.chip, cxid, asid := z.asid
                  ident := { z.ident with replica := BitVec.ofNat 64 n, cxid := cxid.setWidth 64 }
                  pc := st.restart, s := Vector.ofFn fun i =>
                    if 1 ≤ i.val ∧ i.val ≤ 8 then st.regs.getD (i.val - 1) {} else {}
                  group := z.group, index := z.index, prio := z.prio, stage := some { st with pushed := false, popped := false } }
              occupy k slot cxid.toNat
            keepPending (.replicaAdd k j)
          | none => keepPending (.replicaAdd k j)
      | _, _, _ => pure ()

/-- The context waits in a pop of queue j. -/
def Ctx.inPop (c : Ctx) (j : Nat) : Bool :=
  c.run == .parked && c.phase == 0 && match c.instr with
    | some i =>
      let qs := i.srcs.filterMap fun r => match r with
        | .q n => some n.toNat
        | _ => none
      (qs.drop c.popped.length).head? == some j
    | none => false

/-- A replica is dropped: the faults owed to its wait for STQ = 0 are posted, charged to its pop (R75, R351); its FLAGS.B
and FLAGS.O go to replica 0, or to the group's report once replica 0 has quit (R329, R350). (DESIGN CHOICE, log entry 109.) -/
def dropReplica (first : Option Nat) (key : Nat) : M Unit := do
  let c := (← get).ctx key
  c.owed.forM fun o => modify (postCtx c o.fault)
  match first, c.group with
  | some k, _ =>
    modify fun s => s.modCtx k fun z => { z with flags := { z.flags with b := z.flags.b || c.flags.b, o := z.flags.o || c.flags.o } }
  | none, some g => modGroup g fun g => { g with fb := g.fb || c.flags.b, fo := g.fo || c.flags.o }
  | none, none => pure ()
  endContext key

/-- REPLICA_DISCARD (R350): the replicas end whether or not replica 0 still runs. -/
def mReplicaDiscard (k j : Nat) : M Unit := do
  let s ← get
  match (s.core k).queues.find j with
  | none => pure ()
  | some q =>
    match liveReplicas s k q with
    | (n, key) :: rest =>
      let ended := q.entries.any fun e => e.eos && e.tag == q.expect
      if ended || q.idle s.cycle then
        let cand := if ended then (n, key) :: rest else [(n, key)]
        match cand.find? fun r => (s.ctx r.2).inPop j && (s.ctx r.2).ctl.stq == 0 with
        | some r => dropReplica ((replicaZero s k j q).map (·.1)) r.2
        | none => pure ()
        keepPending (.replicaDiscard k j)
    | [] => pure ()

/-! ### The meanings -/

def execSpawn (d a b : Spec) (c : BitVec 5) (child : BitVec 20) (s : State) :=
  runI (mSpawn d a b c child) (.spawn d a b c child) s
def execTdef (d a b : Spec) (c : BitVec 5) (child : BitVec 20) (tag : BitVec 15) (count : BitVec 12) (s : State) :=
  runI (mTdef d a b c child tag count) (.tdef d a b c child tag count) s
def execTdec (a : Spec) (s : State) := runI (mTdec a) (.tdec a) s
def execQuit (s : State) := runI mQuit .quit s
def execMigrate (a : Spec) (mask : BitVec 31) (s : State) := runI (mMigrate a mask) (.migrate a mask) s
def execLdbal (margin : BitVec 4) (s : State) := runI (mLdbal margin) (.ldbal margin) s
def execQcfg (a : Spec) (q : BitVec 2) (depth : BitVec 4) (prod cons : BitVec 2) (s : State) :=
  runI (mQcfg a q depth prod cons) (.qcfg a q depth prod cons) s
def execStage (inq : BitVec 2) (inp : Bool) (outq : BitVec 2) (outp rep : Bool) (s : State) :=
  runI (mStage inq inp outq outp rep) (.stage inq inp outq outp rep) s
def execQeos (a : Spec) (q : BitVec 2) (s : State) := runI (mQeos a q) (.qeos a q) s
def execRowLanding (pkt : Nat) (s : State) := runE (mRowLanding pkt) s
def execDeferredLanding (pkt : Nat) (s : State) := runE (mDeferredLanding pkt) s
def execSpillReturn (core : Nat) (s : State) := runE (mSpillReturn core) s
def execContextArrival (pkt : Nat) (s : State) := runE (mContextArrival pkt) s
def execDispatch (core : Nat) (s : State) := runE (mDispatch core) s
def execTaskRowDecrement (pkt : Nat) (s : State) := runE (mTaskRowDecrement pkt) s
def execReplicaAdd (core q : Nat) (s : State) := runE (mReplicaAdd core q) s
def execReplicaDiscard (core q : Nat) (s : State) := runE (mReplicaDiscard core q) s

end Sys2Proof.Machine
end

