-- ==== Sys2Proof/Machine/Launch.lean ====
section
/-!
DEFINITION. Launches: the record, its checks, the grid, the creation of contexts, LAUNCH and the launch queue
(R325 to R334, R345).
-/

namespace Sys2Proof.Machine

/-- A launch record, field by field (R325). -/
structure LaunchRec where
  entry : Pc
  asid : BitVec 16
  dies : BitVec 4
  cores : BitVec 4
  crow0 : Nat
  ccol0 : Nat
  crows : Nat
  ccols : Nat
  slots : Nat
  prio : Nat
  wave : Bool
  zext : Bool
  stages : Nat
  m : Nat
  n : Nat
  k : Nat
  tm : Nat
  tn : Nat
  tk : Nat
  ss : List Nat
  limit : Nat
  cap : Nat
  regBase : Nat
  prows : Nat
  rowBase : Nat
  cxbase : Nat
  grp : Word
  compl : Word
  args : List Word
  /-- some reserved field is not zero -/
  reserved : Bool
  deriving DecidableEq, Repr

/-- The record of 32 words (R325). -/
def LaunchRec.ofWords (ws : List Word) : LaunchRec :=
  let w (i : Nat) : Word := ws.getD i 0
  let f (i lo n : Nat) : Nat := (bits (w i) lo n).toNat
  { entry := bits (w 0) 0 56, asid := bits (w 1) 48 16, dies := bits (w 1) 44 4, cores := bits (w 1) 40 4
    crow0 := f 1 36 4, ccol0 := f 1 32 4, crows := f 1 27 5, ccols := f 1 22 5, slots := f 1 17 5, prio := f 1 15 2
    wave := bitAt (w 1) 14, zext := bitAt (w 1) 13, stages := f 1 11 2 + 1
    m := f 2 0 32, n := f 2 32 32, k := f 3 0 32, tm := f 3 32 16, tn := f 3 48 16, tk := f 4 0 16
    ss := (List.range 4).map fun i => f 4 (16 + 8 * i) 8
    limit := f 5 0 32, cap := f 5 32 6, regBase := f 5 48 4, prows := f 5 52 12, rowBase := f 6 0 11
    cxbase := f 6 12 20, grp := (bits (w 6) 32 32).setWidth 64, compl := w 7
    args := (List.range 8).map fun i => w (24 + i)
    reserved := f 1 0 11 != 0 || f 4 48 16 != 0 || f 5 38 10 != 0 || f 6 11 1 != 0
      || (List.range 16).any fun i => w (8 + i) != 0 }

namespace LaunchRec

/-- Rows and columns of a cluster that CORES names (R330). -/
def rowOffs (r : LaunchRec) : List Nat := [0, 1].filter fun u => bitAt r.cores (2 * u) || bitAt r.cores (2 * u + 1)
def colOffs (r : LaunchRec) : List Nat := [0, 1].filter fun u => bitAt r.cores u || bitAt r.cores (2 + u)

/-- The grid: die and core row of every grid row, and the core column of every grid column (R330). -/
def gridRows (r : LaunchRec) : List (Nat × Nat) :=
  (diesOf r.dies).flatMap fun d => (List.range r.crows).flatMap fun a => r.rowOffs.map fun u => (d, 2 * (r.crow0 + a) + u)
def gridCols (r : LaunchRec) : List Nat :=
  (List.range r.ccols).flatMap fun b => r.colOffs.map fun u => 2 * (r.ccol0 + b) + u

/-- Every core of the grid with its tile, by grid row, then grid column. -/
def grid (r : LaunchRec) : List PlanCore :=
  r.gridRows.zipIdx.flatMap fun a => r.gridCols.zipIdx.map fun b =>
    let orgm := a.2 * r.tm
    let orgn := b.2 * r.tn
    { core := coreNo a.1.1 a.1.2 b.1, base := 0, orgm, orgn, extm := Nat.min r.tm (r.m - orgm)
      extn := Nat.min r.tn (r.n - orgn), count := 0 }

/-- A core with no extent receives contexts only under ZEXT (R330). -/
def receives (r : LaunchRec) (p : PlanCore) : Bool := p.extm * p.extn != 0 || r.zext

/-- Numbers the contexts: the launch index of the first on each core (R331). -/
def number (r : LaunchRec) (next : Nat) : List PlanCore → List PlanCore
  | [] => []
  | p :: ps =>
    if r.receives p then { p with base := next, count := r.slots } :: number r (next + r.slots) ps
    else p :: number r next ps

/-- Contexts launched, NL (R331). -/
def nl (r : LaunchRec) : Nat := (r.grid.filter r.receives).length * r.slots
def span (r : LaunchRec) : Nat := r.nl + r.limit + (if 1 < r.stages then 3 * r.nl else 0)

/-- Rows per private region (R334). -/
def regionRows (r : LaunchRec) : Nat := if r.prows ≠ 0 then r.prows else if r.slots = 1 then 128 else 16

/-- Some field is out of the range of R325 (R326, the row of 0x38). -/
def outOfRange (r : LaunchRec) : Bool :=
  let badCores : List (BitVec 4) := [0x0, 0x6, 0x7, 0x9, 0xB, 0xD, 0xE]
  r.dies == 0 || badCores.contains r.cores || r.crows == 0 || r.ccols == 0
    || decide (10 < r.crow0 + r.crows) || decide (16 < r.ccol0 + r.ccols)
    || r.slots == 0 || decide (16 < r.slots) || (r.wave && decide (14 < r.slots))
    || r.tm == 0 || r.tn == 0 || r.tk == 0 || decide (48 < r.cap)
    || decide (16 < r.regBase + r.slots) || decide (2048 < r.rowBase + r.slots * r.regionRows)

/-- The stage that the row of 0x3A refuses (R326). -/
def badStage (r : LaunchRec) : Option Nat :=
  if r.stages = 1 then none
  else match (List.range 4).find? fun i => (decide (i < r.stages)) == (r.ss.getD i 0 == 0) with
    | some i => some i
    | none => if (r.ss.take r.stages).sum = r.slots then none else some (r.stages - 1)

/-- The lowest die of DIES, or die 0 (R328). -/
def home (r : LaunchRec) : Nat := (diesOf r.dies).headD 0

end LaunchRec

/-- The completion word is not valid (R326, first row). (DEDUCED, log entry 49.) -/
def complFault (s : State) (priv : Bool) (r : LaunchRec) : Option FaultRec :=
  if r.compl = 0 then none
  else
    let va : Pc := r.compl.setWidth 56
    let x : Word := va.setWidth 64
    match walk s r.home r.asid va with
    | none => some { code := 0x10, info := [x, 3], taddr := va }
    | some t =>
      if !permitted priv .join t.e then some { code := 0x10, info := [x, 3], taddr := va }
      else if va.toNat % 8 ≠ 0 then some { code := 0x19, info := [x, 8], taddr := va }
      else if Leaf.jt t.e ≠ .fill || Leaf.ew t.e ≠ 64 then
        some { code := 0x12, info := [x, (Leaf.jtCode t.e).setWidth 64, 7], taddr := va, src := 1 }
      else none

/-- The checks of R326 after the first, in order; `at_` the record's address, `issuer` the issuer's ASID of a LAUNCH.
(DEDUCED, log entry 49.) -/
def recordFault (s : State) (at_ : Word) (issuer : Option (BitVec 16)) (r : LaunchRec) : Option FaultRec :=
  let task (code : BitVec 8) (x : Word) : Option FaultRec := some { code, info := [x], src := 3 }
  if r.reserved then task 0x01 at_
  else if !pcShape r.entry then some { code := 0x03, info := [r.entry.setWidth 64], taddr := r.entry, src := 3 }
  else if issuer.any (· != r.asid) then task 0x07 0xD2
  else if r.outOfRange then task 0x38 at_
  else match r.badStage with
    | some i => task 0x3A (BitVec.ofNat 64 i)
    | none =>
      if r.cxbase = 0 || decide (0xFFFFE < r.cxbase + r.span - 1) then task 0x38 at_
      else match r.grid.find? fun p => !hasSpill s p.core with
        | some p => task 0x39 ((coreAddr s.chip p.core).setWidth 64)
        | none => match r.grid.find? fun p => unitLasting s (dieOfCore p.core) (coreUnit s p.core) with
          | some p => some { code := 0x41, info := [coreUnit s p.core], src := 8 }
          | none => none

/-- The group of a record that passed its checks. -/
def LaunchRec.group (r : LaunchRec) (number : Word) (byHost : Bool) (queue : Pc × BitVec 16) : Group :=
  let cores := r.number 0 r.grid
  { number, byHost, queue, asid := r.asid, entry := r.entry, cxbase := r.cxbase, nl := r.nl, span := r.span, limit := r.limit
    stages := r.stages, stageSlots := r.ss, slots := r.slots, cap := r.cap, prio := r.prio, waveRes := r.wave
    completion := if r.compl = 0 then none else some (r.compl.setWidth 56), home := r.home
    cores := cores.map (·.core), plan := if r.nl = 0 then [] else cores.filter fun p => r.wave || p.count != 0
    k := r.k, tk := r.tk, rows := r.regionRows, rowBase := r.rowBase, regBase := r.regBase, args := r.args }

/-! ### Creation (R331 to R334) -/

/-- Every CXID of the block is free, and none is about to be given to a context of another launch (R331).
(DEDUCED, log entry 49.) -/
def blockFree (s : State) (gk : Nat) (g : Group) : Bool :=
  let mine (x : BitVec 20) : Bool := decide (g.cxbase ≤ x.toNat) && decide (x.toNat < g.cxbase + g.span)
  !(s.ctxs.any fun p => p.2.live && p.2.wave.isNone && mine p.2.cxid)
    && s.reclaim.all (fun p => !mine p.2 || !leafOwned s p.1 p.2)
    && s.groups.all fun h => h.1 == gk || !h.2.begun || h.2.plan.isEmpty
        || decide (h.2.cxbase + h.2.nl ≤ g.cxbase) || decide (g.cxbase + g.span ≤ h.2.cxbase)

/-- A core can take its contexts: its wave slots are free (R333), its regions are disabled (R334). -/
def launchReady (s : State) (g : Group) (p : PlanCore) : Bool :=
  let c := s.core p.core
  (!g.waveRes || (!c.waveRes && [0, 8].all fun n => (c.slots.find n).isNone && (c.waveSlots.find n).isNone))
    && (List.range p.count).all fun i => (c.region (g.regBase + i)).kind == 0

/-- The stage of context i of a core (R330). -/
def Group.stageOf (g : Group) (i : Nat) : Nat :=
  if g.stages = 1 then 0
  else ((List.range 4).find? fun n => decide (i < (g.stageSlots.take (n + 1)).sum)).getD 0

/-- Context i of a core (R330 to R334). -/
def launched (s : State) (gk : Nat) (g : Group) (p : PlanCore) (i : Nat) : Ctx :=
  let cxid : BitVec 20 := BitVec.ofNat 20 (g.cxbase + p.base + i)
  let w (n : Nat) : Word := BitVec.ofNat 64 n
  { live := true, chip := s.chip, cxid, asid := g.asid, place := .transit, pc := g.entry, s := argRegs g.args
    ident := { identOf s p.core i g.number cxid with
      stage := w (g.stageOf i), extm := w p.extm, extn := w p.extn, orgm := w p.orgm, orgn := w p.orgn
      orgk := w (i * g.tk), extk := w (Nat.min g.tk (g.k - i * g.tk)) }
    group := some gk, index := p.base + i, prio := g.prio, arrival := true }

/-- Creates the contexts of one core, in order; they arrive in order (R333, R336). -/
def createOn (gk : Nat) (p : PlanCore) : M Unit := do
  let g := (← get).group gk
  if g.waveRes then modCore p.core fun c => { c with waveRes := true }
  (List.range p.count).forM fun (i : Nat) => do
    let s ← get
    let c := launched s gk g p i
    modify (regionPut p.core (g.regBase + i)
      { cxid := c.cxid, kind := 1, rowsM1 := BitVec.ofNat 12 (g.rows - 1), base := BitVec.ofNat 12 (g.rowBase + i * g.rows) })
    addChild c
    let _ ← sendPacket
      { kind := .arrival, cx := nobody, thread := engineThread s (dieOfCore p.core), dst := p.core, words := [c.cxid.setWidth 64]
        flow := some (msgFlow nobody 0 p.core) } (clusterOf p.core)
  modGroup gk fun g => { g with plan := g.plan.filter fun q => q.core != p.core }

/-- A launch goes on: it begins once its block is free, then creates the contexts of every selected core that is ready
(R331). -/
def advance (gk : Nat) (sel : Nat → Bool) : M Unit := do
  let s ← get
  let g := s.group gk
  if !g.begun && blockFree s gk g then modGroup gk fun g => { g with begun := true }
  if ((← get).group gk).begun then
    g.plan.forM fun p => do
      if sel p.core && launchReady (← get) g p then createOn gk p
    -- contexts may have ended before the last was created (R329)
    if g.nl ≠ 0 then groupEnd gk

/-! ### LAUNCH (R345) -/

/-- The 64-bit words of a run of bytes. -/
def wordsOf (n : Nat) (bs : List Byte) : List Word :=
  (List.range n).map fun i => BitVec.ofNat 64 (natOfBytes ((bs.drop (8 * i)).take 8))

def mLaunch (a : Spec) : M Unit := do
  checkRegs (.launch a)
  if (← phase) < 2 then
    let x ← rdS a
    let va : Pc := x.setWidth 56
    if x.toNat % 256 ≠ 0 then fault 0x19 [x, 256] va
    let ls ← rangeLines .load .load (linesOf va 256)
    once (ls.forM fun p => lineFree (p.1.pa p.2) false)
    needLinesVia 0 ls
    let s ← get
    let r := LaunchRec.ofWords (wordsOf 32 (bytesAtHand s va 256))
    match complFault s s.me.priv r with
    | some f => raise f
    | none => pure ()
    match recordFault s x (some s.me.asid) r with
    | some f => raise f
    | none => pure ()
    let gk ← freshId
    modify fun s => { s with groups := s.groups.put gk (r.group r.grp false (0, 0)) }
    modMe fun c => { c with held := [BitVec.ofNat 64 gk] }
    setPhase 2
    advance gk fun _ => true
    if !((← get).group gk).plan.isEmpty then (diesOf r.dies).forM fun d => addPending (.launchRecordTake d)
  let gk := ((← me).held.getD 0 0).toNat
  advance gk fun _ => true
  let g := (← get).group gk
  parkUnless (g.begun && g.plan.isEmpty)

/-! ### The launch queue (R327 to R329) -/

/-- A refused host record: its fault record and its completion word (R328). -/
def refuseRecord (d n : Nat) (at_ : Pc) (r : LaunchRec) (f : FaultRec) (fill : Bool) : M Unit := do
  modify (postRecord d (recordOf 0xFFFFF 0 0 { code := f.code, info := [BitVec.ofNat 64 n], taddr := at_, src := 3 }))
  if fill && r.compl ≠ 0 then
    fillWord d r.asid (r.compl.setWidth 56) ((3 : BitVec 2) ++ (0 : BitVec 22) ++ f.code ++ (0 : BitVec 32))
      (engineThread (← get) d) false

/-- The record of a die's queue at an address, once all of its words are filled: its words, or none and a conflict. -/
def queuedRecord (s : State) (d : Nat) (asid : BitVec 16) (at_ : Pc) : Option (List Word × Bool) :=
  match walk s d asid at_ with
  | none => none
  | some t =>
    let locs := (List.range 32).map fun i => Loc.ofTlb t (at_ + BitVec.ofNat 56 (8 * i))
    if Leaf.jt t.e ≠ .fill || Leaf.ew t.e ≠ 64 || !(locs.all fun x => x.filled s) then none
    else some (locs.map fun x => BitVec.ofNat 64 (x.value s), locs.any fun x => x.conflict s)

/-- A die goes on to its next record. -/
def nextRecord (d : Nat) : M Unit := do
  modDie d fun x => { x with nextRec := x.nextRec + 1 }
  addPending (.launchRecordTake d)

/-- The launch queue of a die (R327, R375). -/
def launchQueue (s : State) (d : Nat) : Pc × BitVec 16 := ((s.die d).lqbase, (s.die d).lqasid)

/-- The die that decides a record of a launch queue: the lowest die of DIES, or die 0, among the dies of that queue; another
die of DIES, whose queue it is not, gets its part of the launch from it. (DEDUCED, log entry 49.) -/
def decider (s : State) (d : Nat) (r : LaunchRec) : Nat :=
  let ds := if r.dies = 0 then [0] else diesOf r.dies
  let same (x : Nat) : Bool := launchQueue s x == launchQueue s d
  (ds.find? same).getD (((List.range 4).find? same).getD d)

/-- The cores whose contexts a die creates of a record: its own, and for the deciding die those of the other queues. -/
def createsOn (s : State) (d : Nat) (r : LaunchRec) (k : Nat) : Bool :=
  dieOfCore k == d || (decider s d r == d && launchQueue s (dieOfCore k) != launchQueue s d)

/-- A die creates its part of a queued launch; it goes on to its next record when every context of it is there (R327). -/
def takePart (d : Nat) (r : LaunchRec) (gk : Nat) : M Unit := do
  let sel := createsOn (← get) d r
  advance gk sel
  let g := (← get).group gk
  if g.begun && g.plan.all (fun p => !sel p.core) then nextRecord d else keepPending (.launchRecordTake d)

/-- LAUNCH_RECORD_TAKE (R327, R328): a die's part of the LAUNCHes under way, and its next queued record; a queued launch is
created in the turn of its record only. (DEDUCED, log entry 49.) -/
def mLaunchRecordTake (d : Nat) : M Unit := do
  (← get).groups.forM fun g => if g.2.plan.isEmpty || g.2.byHost then pure () else advance g.1 fun k => dieOfCore k == d
  let s ← get
  let x := s.die d
  let n := x.nextRec
  let at_ : Pc := x.lqbase + BitVec.ofNat 56 (256 * n)
  match queuedRecord s d x.lqasid at_ with
  | none => keepPending (.launchRecordTake d)
  | some (ws, conflict) =>
    let r := LaunchRec.ofWords ws
    let open_ := s.groups.find? fun g =>
      g.2.byHost && g.2.queue == launchQueue s d && g.2.number == BitVec.ofNat 64 n && !g.2.done
    match open_ with
    | some (gk, _) => if bitAt r.dies d then takePart d r gk else nextRecord d
    | none =>
      if d ≠ decider s d r then
        -- the deciding die settles it; the others pass the record over, or wait for it
        if !bitAt r.dies d || decide (n < (s.die (decider s d r)).nextRec) then nextRecord d
        else keepPending (.launchRecordTake d)
      else if r.dies ≠ 0 && !bitAt r.dies d then nextRecord d
      else if conflict then
        refuseRecord r.home n at_ r { code := 0x14 } true
        nextRecord d
      else match complFault s false r with
        | some f =>
          refuseRecord r.home n at_ r f false
          nextRecord d
        | none => match recordFault s (at_.setWidth 64) none r with
          | some f =>
            refuseRecord r.home n at_ r f true
            nextRecord d
          | none =>
            let gk ← freshId
            modify fun s => { s with groups := s.groups.put gk (r.group (BitVec.ofNat 64 n) true (launchQueue s d)) }
            takePart d r gk

/-! ### The meanings -/

def execLaunch (a : Spec) (s : State) := runI (mLaunch a) (.launch a) s
def execLaunchRecordTake (die : Nat) (s : State) := runE (mLaunchRecordTake die) s

end Sys2Proof.Machine
end

