-- ==== Sys2Proof/Machine/Lines.lean ====
section
/-!
DEFINITION. Instruction lines: the line word, parity, pairs, issue units, and decoding for issue
(R50 to R54, R57, R59, R68, R71, R176).
-/

namespace Sys2Proof.Machine

/-! ### The line word (R50 to R52) -/

namespace LineWord

/-- Instruction k of a line. -/
def instr (l : Line) (k : Nat) : W96 := bits l (96 * k) 96
def word (l : Line) : BitVec 32 := bits l 480 32
def pair (l : Line) (j : Nat) : Bool := pairBit l j

/-- The parity bits that R52 asks for. -/
def parity (l : Line) : BitVec 16 :=
  let fold := (List.range 30).foldl (fun (a : BitVec 16) i => a ^^^ bits l (16 * i) 16) 0
  fold ^^^ bits (word l) 16 16
def parityFails (l : Line) : BitVec 16 := parity l ^^^ bits (word l) 0 16

/-- What the decoder reads in either mode: for the destinations that rule 6 of R53 compares.
(DEDUCED, log entry 53.) -/
def named (x : W96) : List Spec :=
  match decodeTableWord 96 x.toNat with
  | some i => i.named
  | none => []

/-- Rule 3 of R53 by OPC: BR, BRC, JMP, CALL, RET, LOOP, LOOPQ (0x20 to 0x26), TRAP, RTE, SLEEP (0x2C to 0x2E). -/
def transfers (x : W96) : Bool :=
  let opc := (bits x 88 8).toNat
  decide (0x20 ≤ opc ∧ opc ≤ 0x26) || decide (0x2C ≤ opc ∧ opc ≤ 0x2E)

def classOf (x : W96) : BitVec 3 := bits x 93 3

/-- Pair j is legal (R53). (DEDUCED, log entry 53.) -/
def pairOk (l : Line) (j : Nat) : Bool :=
  let a := instr l j
  let b := instr l (j + 1)
  classOf a != classOf b && (classOf a == 0 || classOf b == 0) && !transfers b && !pair l (j + 1)
    && !tgtBit l (j + 1) && !(named a).any fun r => (named b).contains r

/-- No reserved bit is set, and every pair is legal (R54). -/
def formatOk (l : Line) : Bool :=
  bits (word l) 16 7 == 0 && (List.range 4).all fun j => !pair l j || pairOk l j

end LineWord

/-- The entry check of a line (R54): 0x04, then 0x02. -/
def lineFault (l : Line) : Option FaultRec :=
  let w : Word := (LineWord.word l).setWidth 64
  if LineWord.parityFails l ≠ 0 then some { code := 0x04, info := [w, (LineWord.parityFails l).setWidth 64] }
  else if !LineWord.formatOk l then some { code := 0x02, info := [w] }
  else none

/-- The 96-bit words of the unit at slot k. -/
def unitWords (l : Line) (k : Nat) : List W96 :=
  if LineWord.pair l k then [LineWord.instr l k, LineWord.instr l (k + 1)] else [LineWord.instr l k]

/-! ### Decoding for issue (R59, R68, R71, R87) -/

/-- Fault(0x01) with the instruction's bits. -/
def badCode (x : W96) (pc : Pc) : FaultRec :=
  { code := 0x01, info := [bits x 0 64, (bits x 64 32).setWidth 64], pc := some pc }

/-- The end of a loop does not precede its LOOP or LOOPQ, as PCs modulo 2^56 (R60, R68). -/
def Instr.endOk (pc : Pc) : Instr → Bool
  | .loop _ _ t | .loopq _ _ t => !decide (branchTarget pc t < pc)
  | _ => true

/-- The instruction of a word at a PC, in a stream or not. -/
def decodeAt (w : Bool) (x : W96) (pc : Pc) : Option Instr :=
  match decode w x with
  | .ok i => if Instr.endOk pc i then some i else none
  | .error _ => none

/-- What the privilege check of an instruction names, when it is privileged (R71). (DEDUCED, log entry 63.) -/
def Instr.privInfo (i : Instr) : Option Word :=
  let opc := bits (encode i) 88 8
  if 0xF0 ≤ opc.toNat ∧ opc.toNat ≤ 0xF9 then some (opc.setWidth 64)
  else
    let reg (r : CReg) : Option Word :=
      if CReg.access r == .rwp || CReg.access r == .rop then some (r.code.setWidth 64) else none
    match i with
    | .mfc _ r => reg r
    | .mtc r _ => reg r
    | .regionWrite g _ => reg (.region g)
    | .linkStatusClear r _ => reg r
    | .alarmWrite _ => reg .alarm
    | .holdtr _ => reg .fbctl
    | _ => none

/-- Positions that a unit takes (R176, R201). -/
def unitPositions (s : State) (c : Ctx) (u : List Instr) : Nat := u.foldl (fun n i => Nat.max n (positions s c i)) 1

end Sys2Proof.Machine
end

