-- ==== Sys2Proof/Machine/Wave.lean ====
section
/-!
DEFINITION. The wave sequencer: WBEGIN, the sequence control, votes, breaks, checkpoints and tokens (R205 to R233, R256,
R261, R382).
-/

namespace Sys2Proof.Machine

/-! ### Streams -/

def State.stream (s : State) (k : Nat) : Stream := s.streams.getD k {}
def modStream (k : Nat) (f : Stream → Stream) : M Unit :=
  modify fun s => match s.streams.find k with
    | some t => { s with streams := s.streams.put k (f t) }
    | none => s

namespace Stream

/-- The cores of the block, in row-major order. -/
def cores (t : Stream) : List Nat :=
  (List.range t.h).flatMap fun r => (List.range t.w).map fun c => coreNo t.die (t.row0 + r) (t.col0 + c)
def first (t : Stream) : Nat := coreNo t.die t.row0 t.col0
/-- The rotations by which a core runs behind the first (R210). -/
def lag (t : Stream) (k : Nat) : Nat :=
  t.shear * (colOfCore k - t.col0) + (if t.diag then t.shear * (rowOfCore k - t.row0) else 0)
/-- Rot(i, r, c) (R210). -/
def rot (t : Stream) (i k : Nat) : Nat := t.start + i + t.lag k
/-- The first step after a WBRV: V(j), or V(j) + 2 with shear 4 by erratum 1 (R221, R382).
(DEDUCED, log entry 41.) -/
def branchStep (t : Stream) (j : Nat) : Nat := t.voteStep j + (if t.shear = 4 then 2 else 0)

/-- The stream holds its slots and buffers. -/
def holds (t : Stream) : Bool := t.phase != .preempted
/-- The stream is loading, runs or ends, and is not pre-empted. -/
def underWay (t : Stream) : Bool := t.phase == .loading || t.phase == .active || t.phase == .closing
/-- Every core has completed the checkpoint step (R226). -/
def atCheckpoint (t : Stream) : Bool := match t.ckptStep with
  | some c => t.cores.all fun k => decide (c < t.progress.getD k 0)
  | none => false
/-- The key of the wave context of a core. -/
def key (t : Stream) (k : Nat) : Nat := 2 ^ 20 + k * 2 + t.s
/-- Where the wave context of a core is kept while the stream is pre-empted. -/
def savedKey (id k : Nat) : Nat := 2 ^ 40 + id * 2 ^ 13 + k

/-! ### The step sequence (R209, R218 to R221) -/

/-- The unit that holds a PC. -/
def unitOf (t : Stream) (pc : Pc) : Nat :=
  (t.code.findIdx? fun u => u.pc == pc || (u.instrs.length == 2 && u.pc + 1 == pc)).getD t.code.length

/-- The back edge after the core step of unit i (R218). -/
def backEdge (t : Stream) (i : Nat) : Stream :=
  let ends (l : LoopLv) : Bool := l.active && t.unitOf l.stop == i
  let step (l : LoopLv) : LoopLv × Bool :=
    if 1 < l.count.toNat then ({ l with count := l.count - 1 }, true) else ({ l with count := 0, active := false }, false)
  let t := { t with pos := i + 1 }
  let (l1, back1) := if ends t.loop1 then step t.loop1 else (t.loop1, false)
  if back1 then { t with loop1 := l1, pos := t.unitOf l1.start }
  else
    let (l0, back0) := if ends t.loop0 then step t.loop0 else (t.loop0, false)
    { t with loop1 := l1, loop0 := l0, pos := if back0 then t.unitOf l0.start else t.pos }

/-- Emits a step. -/
def emitStep (t : Stream) (what : Nat) : Stream :=
  { t with emitted := t.emitted + 1, steps := t.steps.put t.emitted what }

/-- WLOOP at a PC (R218). -/
def loop (t : Stream) (pc : Pc) (l1 : Bool) (n : BitVec 16) (g : Tgt) : Stream :=
  let e := branchTarget pc g
  let put (t : Stream) (l : LoopLv) : Stream := if l1 then { t with loop1 := l } else { t with loop0 := l }
  if n = 0 then put { t with pos := t.unitOf e + 1 } {}
  else put { t with pos := t.pos + 1 } { count := n.setWidth 64, start := seqNext pc, stop := e, active := true }

/-- WBRV at a PC: a bubble while the vote is not in, or else the branch (R221). -/
def branch (t : Stream) (pc : Pc) (want : Bool) (g : Tgt) : Stream :=
  let wait := match t.voteAt with
    | some j => decide (t.emitted < t.branchStep j)
    | none => false
  if wait then t.emitStep 0
  else { t with pos := if t.vote = want then t.unitOf (branchTarget pc g) else t.pos + 1 }

/-- The instructions that the sequencers resolve between steps (R209). -/
def control (t : Stream) (pc : Pc) : Instr → Option Stream
  | .wloop l1 n g => some (t.loop pc l1 n g)
  | .wjmp g => some { t with pos := t.unitOf (branchTarget pc g) }
  | .wbrvT g => some (t.branch pc true g)
  | .wbrvF g => some (t.branch pc false g)
  | _ => none

/-- A core step of unit i enters the sequence. -/
def coreStep (t : Stream) (i : Nat) (u : WStep) : Stream :=
  let j := t.emitted
  let t := (t.emitStep (i + 1)).backEdge i
  let t := if u.instrs.contains .wvoteAnd then { t with voteAt := some j, votePend := true }
    else if u.instrs.contains .wvoteOr then { t with voteAt := some j, votePend := false }
    else t
  if u.instrs.contains .wend then { t with finished := true, endStep := j } else t

/-- The sequencers go on to the next step; the fuel bounds the control instructions before it. -/
def advance : Nat → Stream → Stream
  | 0, t => t
  | n + 1, t =>
    if t.finished then t
    else match t.code[t.pos]? with
      | none => { t with finished := true, pastAt := some t.emitted }
      | some u => match u.instrs with
        | [i] => match t.control u.pc i with
          | some t' => if t'.emitted = t.emitted then advance n t' else t'
          | none => t.coreStep t.pos u
        | _ => t.coreStep t.pos u

/-! ### Breaks (R223) -/

/-- Condition 2: the poison of a fault loses step j at core k. -/
def poisoned (t : Stream) (j k : Nat) : Bool :=
  t.faults.any fun f =>
    decide (rowOfCore f.core ≤ rowOfCore k) && decide (colOfCore f.core ≤ colOfCore k)
      && !(decide (j < f.step) || (!f.past && j == f.step && t.rot j k == f.rot && k != f.core))

/-- Core k executes step j (R223, R226, R228). -/
def executes (t : Stream) (j k : Nat) : Bool :=
  t.phase == .active && !t.ended.contains k && !t.poisoned j k
    && (match t.stopAt with
        | some b => decide (t.rot j k < b)
        | none => true)
    && match t.ckptStep with
      | some c => decide (j ≤ c)
      | none => true

/-- The status that the token brings (R224, R228). -/
def status (t : Stream) : Word :=
  match t.faults with
  | f :: _ => (1 : BitVec 1) ++ (0 : BitVec 23) ++ f.code ++ BitVec.ofNat 32 f.step
  | [] => BitVec.ofNat 64 (t.endStep % 2 ^ 32)

end Stream

/-- First cycle of a rotation of a die. -/
def rotationCycle (s : State) (die r : Nat) : Nat := (s.die die).resetAt + 16 * r

/-- Records a fault of a step; the first sets the break rotation (R223). -/
def waveFault (k : Nat) (f : WFault) : M Unit := do
  let s ← get
  let t := s.stream k
  modStream k fun t =>
    { t with faults := t.faults ++ [f], stopAt := if t.stopAt.isNone then some (f.rot + 2) else t.stopAt }
  if t.stopAt.isNone then addTimer (rotationCycle s t.die (f.rot + 2)) (.waveBreak k)

/-! ### Loading (R215, R216) -/

/-- Wave legality (R215, R256). -/
def waveLegal (streamB : Bool) (i : Instr) : Bool :=
  let isQ : Spec → Bool
    | .q _ => true
    | _ => false
  if i.srcs.any isQ || i.dsts.any isQ then false
  else match i with
    | .mfc _ r => r == .flags || r == .pc || r == .srk || r == .wstep || r == .orient
    | .mtc r _ => r == .srk
    | .flagsWrite _ | .dead _ | .spld _ _ _ _ _ | .spst _ _ _ _ => true
    | .wmma .. => !streamB
    | .tzero w _ => !w
    | .vrcp _ | .vrsq _ | .vsqrt _ | .vexp2 _ | .vlog2 _ => false
    | .wend | .wloop _ _ _ | .wjmp _ | .wvoteAnd | .wvoteOr | .wbrvT _ | .wbrvF _ | .wckpt => true
    | i => match (bits (encode i) 93 3).toNat with
      | 0 => true
      | 3 => true
      | _ => false

/-- Resolved by the sequencers: WLOOP, WJMP, WBRV. -/
def isControl : Instr → Bool
  | .wloop _ _ _ | .wjmp _ | .wbrvT _ | .wbrvF _ => true
  | _ => false

/-- The annul count of a compare. -/
def Instr.skips : Instr → Nat
  | .cmp _ n _ _ | .cmpi _ n _ _ | .test _ n _ _ => n.toNat
  | _ => 0

/-- The lines of a stream that are to be checked: base, number, kind, and a line by its address where it is mapped. -/
structure WCode where
  base : Pc
  n : Nat
  streamB : Bool
  priv : Bool
  line : Pc → Option Line

namespace WCode

/-- The PC lies in the loaded lines. -/
def holds (w : WCode) (pc : Pc) : Bool := decide ((pc - w.base).toNat < 64 * w.n)
/-- The instruction at a PC of the stream, where its line is mapped and it decodes. -/
def at_ (w : WCode) (pc : Pc) : Option Instr := do
  let l ← w.line (lineVa pc)
  decodeAt true (LineWord.instr l (bits pc 0 3).toNat) pc

/-- The n PCs after one. -/
def following : Nat → Pc → List Pc
  | 0, _ => []
  | n + 1, pc => seqNext pc :: following n (seqNext pc)

/-- Every PC of the stream. -/
def pcs (w : WCode) : List Pc :=
  (List.range w.n).flatMap fun i => (List.range 5).map fun k => w.base + BitVec.ofNat 56 (64 * i + k)

/-- End PCs of the WLOOPs. -/
def loopEnds (w : WCode) : List Pc :=
  w.pcs.filterMap fun pc => match w.at_ pc with
    | some (.wloop _ _ g) => some (branchTarget pc g)
    | _ => none

def illegal (pc : Pc) : Option FaultRec := some { code := 0x20, info := [pc.setWidth 64], src := 6 }
def badTarget (t : Pc) : Option FaultRec := some { code := 0x03, info := [t.setWidth 64], taddr := t, src := 6 }

/-- Checks 4 and 5 on a target (R216). (DEDUCED, log entry 52.) -/
def checkTarget (w : WCode) (pc : Pc) (i : Instr) : Option FaultRec :=
  let jump (g : Tgt) : Option FaultRec :=
    let t := branchTarget pc g
    if !w.holds t then badTarget t
    else match w.line (lineVa t) with
      | none => none
      | some l => if tgtBit l (bits t 0 3).toNat then none else badTarget t
  match i with
  | .wjmp g | .wbrvT g | .wbrvF g => jump g
  | .wloop _ _ g =>
    let e := branchTarget pc g
    if !w.holds e || decide ((e - w.base).toNat < (pc - w.base).toNat) then badTarget e
    else match w.at_ e with
      | some j => if isControl j || j == .wend then illegal pc else none
      | none => none
  | _ => none

/-- Check 6 on a compare (R216). (DEDUCED, log entry 52.) -/
def checkShadow (w : WCode) (pc : Pc) (i : Instr) : Option FaultRec :=
  let n := Instr.skips i
  if n = 0 then none
  else
    let ps := following n pc
    let bad (p : Pc) : Bool := !w.holds p || match w.at_ p with
      | some j => isControl j || j == .wend || j == .wckpt
      | none => false
    if ps.any bad || (pc :: ps.take (n - 1)).any fun p => w.loopEnds.contains p then illegal pc else none

/-- Checks 2 to 6 on one instruction (R216). -/
def checkSlot (w : WCode) (l : Line) (pc : Pc) : Option FaultRec :=
  let x := LineWord.instr l (bits pc 0 3).toNat
  match decodeAt true x pc with
  | none => some { badCode x pc with pc := none }
  | some i => match Instr.privInfo i with
    | some n => if !w.priv then some { code := 0x07, info := [n] } else illegal pc
    | none =>
      if !waveLegal w.streamB i then illegal pc
      else (w.checkTarget pc i).or (w.checkShadow pc i)

/-- The checks on one line, slot by slot. -/
def checkLine (w : WCode) (l : Line) (base : Pc) : Option FaultRec :=
  (lineFault l).or ((List.range 5).findSome? fun k => w.checkSlot l (base + BitVec.ofNat 56 k))

/-- The units of a line; a pair that holds a control instruction is two units. (DEDUCED, log entry 52.) -/
def units (l : Line) (base : Pc) : List WStep :=
  (List.range 5).filterMap fun k =>
    let pc := base + BitVec.ofNat 56 k
    let i (k : Nat) : Instr := (decodeAt true (LineWord.instr l k) pc).getD .nop
    let split (j : Nat) : Bool := isControl (i j) || isControl (i (j + 1))
    if 0 < k ∧ LineWord.pair l (k - 1) ∧ !split (k - 1) then none
    else if LineWord.pair l k && !split k then some { pc, instrs := [i k, i (k + 1)] }
    else some { pc, instrs := [i k] }

end WCode

/-- Lines of a stream as its owner's address space maps them. -/
def wcode (s : State) (t : Stream) (entry : Pc) (n : Nat) : WCode :=
  let c := s.ctx t.owner
  { base := entry, n, streamB := t.s == 1, priv := c.priv
    line := fun va => match c.lineBuf.find (lineVa va).toNat, peek s c.coreNo c.asid va with
      | some l, _ => some l
      | none, some e => if permitted c.priv .fetch e.e then some (homeLine s e.e (e.pa va)) else none
      | none, none => none }

/-- The lines of a stream that other chips hold are read before any is checked. (DESIGN CHOICE, log entry 112.) -/
def farLines (entry : Pc) (n : Nat) : M Unit :=
  (List.range n).forM fun k => do
    let va := entry + BitVec.ofNat 56 (64 * k)
    let s ← get
    match peek s s.me.coreNo s.me.asid va with
    | some t =>
      if permitted s.me.priv .fetch t.e && !s.here (t.pa va) then
        let _ ← codeLine t va
    | none => pure ()

/-- Fetches and checks the lines from the i-th on, in order (R216). -/
def loadLines (t : Stream) (entry : Pc) (n : Nat) : Nat → M (List WStep)
  | 0 => pure []
  | r + 1 => do
    let va := entry + BitVec.ofNat 56 (64 * (n - (r + 1)))
    let l ← codeLine (← translate .fetch va) va
    match (wcode (← get) t entry n).checkLine l va with
    | some f => raise f
    | none =>
      let us ← loadLines t entry n r
      return WCode.units l va ++ us

/-! ### Claiming and releasing (R206, R232, R256) -/

/-- The buffers and slots of a stream are free (R206, R232). -/
def buffersFree (s : State) (t : Stream) : Bool :=
  (s.streams.all fun u => !u.2.holds || u.2.die != t.die || u.2.s != t.s
      || decide (u.2.row0 + u.2.h ≤ t.row0) || decide (t.row0 + t.h ≤ u.2.row0))
    && t.cores.all fun k => ((s.core k).waveSlots.find (8 * t.s)).isNone

/-- No mark lies on the wave region of a core, and no other active stream's region shares a row with it (R208, R232). -/
def regionFree (s : State) (t : Stream) (k : Nat) : Bool :=
  let c := s.core k
  let g := c.region t.region
  (s.marks.all fun m => match m.unit_ with
      | .row k' r => k' != k || !g.covers r
      | .line _ => true)
    && s.streams.all fun u => !u.2.has k ||
        let h := c.region u.2.region
        decide (h.stop ≤ g.first) || decide (g.stop ≤ h.first)

/-- The wave slots carry the stream. -/
def claimSlots (id : Nat) (t : Stream) : M Unit :=
  t.cores.forM fun k => modCore k fun c => { c with waveSlots := c.waveSlots.put (8 * t.s) id }

/-- The wave slots carry the stream no more; one that is not wave-reserved any longer is free for a context (R333). -/
def freeSlotsOf (id : Nat) (t : Stream) : M Unit :=
  t.cores.forM fun k => do
    modCore k fun c => { c with waveSlots := c.waveSlots.filter fun p => p.2 != id }
    if !((← get).core k).waveRes then addPending (.dispatch k)

/-- The engines of a stream with WMMA ramp to level 4 and stay there (R256). -/
def holdEngines (t : Stream) : M Unit := do
  let now := (← get).cycle
  t.cores.forM fun k => do
    modMatrix k fun m =>
      let m := m.account now
      let l := levelUp m.level
      { m with level := l, since := if l = m.level then m.since else now, held := true }
    armEngine k

/-- An engine is held at level 4: a stream with WMMA is active on its core, a pre-empted one too unless heat stops it
(R256). -/
def engineHeld (s : State) (k : Nat) : Bool :=
  s.streams.any fun t => t.2.has k && t.2.wmma && (t.2.underWay || !(s.die t.2.die).thr)

/-- The hold of an engine follows its streams; where it ends, the idle cycles count from now; an engine that is not held
goes down to level 3 under heat (R256, R381). -/
def coolEngine (k : Nat) : M Unit := do
  let s ← get
  let held := engineHeld s k
  modMatrix k fun m => { m with held, idleSince := if m.held && !held then Nat.max s.cycle m.idleSince else m.idleSince }
  if (s.core k).matrix.level = 4 && (s.die (dieOfCore k)).thr && !held then setLevel k 3 else armEngine k

/-- The engines leave the hold unless another stream holds them (R256). -/
def unholdEngines (t : Stream) : M Unit := t.cores.forM coolEngine

def enginesReady (s : State) (t : Stream) : Bool := t.cores.all fun k => (s.core k).matrix.level == 4

/-- The stream ends: it is no longer active, its slots and buffers are free, its registers are discarded (R207, R228). -/
def dropStream (id : Nat) : M Unit := do
  let s ← get
  let t := s.stream id
  modify fun s => { s with streams := s.streams.del id }
  if t.holds then
    freeSlotsOf id t
    t.cores.forM fun k => modify fun s => { s with ctxs := s.ctxs.del (t.key k) }
    if t.wmma then unholdEngines t
  else t.cores.forM fun k => do
    modify fun s => { s with ctxs := s.ctxs.del (Stream.savedKey id k) }
    dropParts k (Stream.savedKey id k)

/-- T0: the first rotation that begins at least four rotations from now (R210). -/
def firstRotation (s : State) (die : Nat) : Nat := ceilDiv (s.cycle - (s.die die).resetAt + 64) 16

/-! ### WBEGIN (R207, R231, R232) -/

/-- The wave context of a core (R207). -/
def waveCtx (s : State) (id : Nat) (t : Stream) (k : Nat) : Ctx :=
  let o := s.ctx t.owner
  let w (n : Nat) : Word := BitVec.ofNat 64 n
  let reg (r : Reg 64) : Reg 64 := match r.st with
    | .full | .prot _ _ => { r with st := .full }
    | _ => {}
  { chip := o.chip, cxid := o.cxid, asid := o.asid, place := .wave k (8 * t.s)
    ident := { o.ident with
      chip := s.chip.setWidth 64, die := w (dieOfCore k), row := w (rowOfCore k), col := w (colOfCore k), slot := w (8 * t.s) }
    s := Vector.ofFn fun i => if 1 ≤ i.val ∧ i.val ≤ 8 then reg (o.s.get i) else {}
    ctl := { srk := o.ctl.srk }, wave := some { stream := id, core := k } }

/-- The block of a WBEGIN (R231); none when it is ill-formed. -/
def blockOf (t : Stream) (b : Word) : Option Stream :=
  let f (lo n : Nat) : Nat := (bits b lo n).toNat
  let r := { t with row0 := f 8 5, col0 := f 0 5, h := f 24 5 + 1, w := f 16 5 + 1 }
  if f 29 35 ≠ 0 || f 21 3 ≠ 0 || f 13 3 ≠ 0 || f 5 3 ≠ 0 || decide (20 < r.row0 + r.h) || decide (32 < r.col0 + r.w) then none
  else some r

/-- The first core of the block that cannot carry the stream, as INFO1 of 0x22 names it (R232). -/
def badCore (s : State) (t : Stream) : Option Word :=
  t.cores.findSome? fun k =>
    let c := s.core k
    let slot := !c.waveRes
    let region := (c.region t.region).kind != 1
    if slot || region then
      some ((coreAddr s.chip k).setWidth 64 ||| (if slot then BitVec.twoPow 64 (20 + t.s) else 0)
        ||| (if region then BitVec.twoPow 64 22 else 0))
    else none

/-- A line of the stream holds a WMMA (R256). -/
def hasWmma (w : WCode) : Bool := w.pcs.any fun pc => match w.at_ pc with
  | some (.wmma ..) => true
  | _ => false

def waveRes {α : Type} (n : BitVec 8) (x : Word) : M α := fault 0x22 [n.setWidth 64, x] 0 6

/-- The ramp of the engines starts with the loading of a stream with a WMMA (R256). Bits [63:56] of the entry address are
ignored (DESIGN CHOICE, log entry 86). -/
def mWbegin (sg : BitVec 2) (streamB diag : Bool) (d : BitVec 5) (a b : Spec) (lines : BitVec 8) (g : BitVec 4) :
    M Unit := do
  checkRegs (.wbegin sg streamB diag d a b lines g)
  let entry := (← rdS a)
  let blk ← rdS b
  let s ← get
  let base : Stream :=
    { owner := s.cur, token := d, die := dieOfCore s.me.coreNo, s := if streamB then 1 else 0, shear := sg.toNat + 1, diag
      region := g.toNat }
  let va : Pc := entry.setWidth 56
  stage 0 do
    match blockOf base blk with
    | none => waveRes lines (BitVec.allOnes 64)
    | some t =>
      if 128 < lines.toNat then waveRes lines 0
      match badCore s t with
      | some x => waveRes lines x
      | none => pure ()
      if bits entry 0 6 ≠ 0 then fault 0x03 [entry] va 6
      checkWrite (.s d)
      let wm := hasWmma (wcode s t va lines.toNat)
      parkUnless (buffersFree s t && t.cores.all (regionFree s t) && !(wm && (s.die t.die).thr))
      let id ← freshId
      modify fun s => { s with streams := s.streams.put id { t with wmma := wm } }
      claimSlots id t
      if wm then holdEngines t
      modMe fun c => { c with held := [BitVec.ofNat 64 id] }
  let id := ((← me).held.getD 0 0).toNat
  let t := (← get).stream id
  stage 1 do
    let load : M (List WStep) := do
      farLines va lines.toNat
      loadLines t va lines.toNat lines.toNat
    let code ← tryCatch load fun e => do
      match e with
      | .fault _ => dropStream id
      | _ => pure ()
      throw e
    let wm := code.any fun u => u.instrs.any fun i => match i with
      | .wmma .. => true
      | _ => false
    modStream id fun t => { t with code, wmma := wm }
    if wm && !t.wmma then holdEngines t
  let s ← get
  let t := s.stream id
  parkUnless (!t.wmma || enginesReady s t)
  modMe fun c => c.setRegSt (.s d) (.reserved .wave id)
  let s ← get
  t.cores.forM fun k => do
    modify fun s' => s'.setCtx (t.key k) (waveCtx s id t k)
    modCore k fun c => if t.s = 0 then { c with wstepA := BitVec.allOnes 32 } else { c with wstepB := BitVec.allOnes 32 }
  let start := firstRotation s t.die
  modStream id fun t => { t with start }
  addTimer (rotationCycle s t.die start) (.waveStreamStart id)

/-! ### Steps of the sequence (R220, R226, R228, R233) -/

/-- The stream of a wave context; any other context decodes these as reserved (R230). -/
def inStream (f : Nat → WavePart → M Unit) : M Unit := do
  match (← me).wave with
  | none => fault 0x01
  | some w => f w.stream w

def mWend : M Unit := inStream fun id w => modStream id fun t => { t with ended := t.ended ++ [w.core] }

/-- A control instruction acts on the sequencers (R218, R219, R221). -/
def mControl (i : Instr) : M Unit := do
  let c ← me
  inStream fun id _ => modStream id fun t => (t.control c.pc i).getD t
def mWloop (l1 : Bool) (n : BitVec 16) (t : Tgt) : M Unit := mControl (.wloop l1 n t)
def mWjmp (t : Tgt) : M Unit := mControl (.wjmp t)
def mWbrvT (t : Tgt) : M Unit := mControl (.wbrvT t)
def mWbrvF (t : Tgt) : M Unit := mControl (.wbrvF t)

/-- A core's contribution to a vote (R220). -/
def contribute (isAnd : Bool) : M Unit := do
  let f ← rdFlags
  inStream fun id w => modStream id fun t =>
    if t.voteAt = some w.step then { t with votePend := if isAnd then t.votePend && f.t else t.votePend || f.t } else t
def mWvoteAnd : M Unit := contribute true
def mWvoteOr : M Unit := contribute false

/-- WCKPT: the first core decides whether this is the checkpoint step (R226). -/
def mWckpt : M Unit := inStream fun id w => modStream id fun t =>
  match t.ckptReq with
  | some q =>
    if w.core = t.first ∧ t.ckptStep.isNone ∧ q + 2 ≤ t.rot w.step w.core then { t with ckptStep := some w.step } else t
  | none => t

/-! ### Start, votes, breaks, tokens -/

def mWaveStreamStart (id : Nat) : M Unit := do
  let s ← get
  let t := s.stream id
  if (t.phase == .loading && !t.code.isEmpty) && decide (rotationCycle s t.die t.start ≤ s.cycle) then
    modStream id fun t => { t with phase := .active }

/-- VOTE_RESULT: the result enters the vote register at step V(j) (R220). -/
def mVoteResult (id : Nat) : M Unit := do
  let s ← get
  let t := s.stream id
  match t.voteAt with
  | none => pure ()
  | some j =>
    if t.phase == .active && decide (rotationCycle s t.die (t.start + t.voteStep j) ≤ s.cycle) then
      modStream id fun t => { t with vote := t.votePend }

/-- WAVE_BREAK: the block stops at the break rotation (R224); after a KILL there is no token (R229). -/
def mWaveBreak (id : Nat) : M Unit := do
  let s ← get
  let t := s.stream id
  match t.stopAt with
  | none => pure ()
  | some b =>
    if t.phase == .active && decide (rotationCycle s t.die b ≤ s.cycle) then
      if t.killed then dropStream id
      else
        modStream id fun t => { t with phase := .closing }
        addTimer (rotationCycle s t.die (b + 2)) (.waveTokenLanding id)

/-- WAVE_TOKEN_LANDING (R224, R228). -/
def mWaveTokenLanding (id : Nat) : M Unit := do
  let s ← get
  let t := s.stream id
  if t.phase == .closing then
    let f : Option FaultRec := match t.faults with
      | f :: _ => some
          { code := 0x21, src := 6
            info := [BitVec.ofNat 64 (f.step % 2 ^ 32), (coreAddr s.chip f.core).setWidth 64, f.code.setWidth 64] }
      | [] => none
    modify fun s => s.modCtx t.owner fun c =>
      if c.regSt (.s t.token) = .reserved .wave id then c.deposit (.s t.token) (t.status.setWidth 2048) .wave f else c
    dropStream id

/-! ### Pre-emption of streams (R226, R227, R256, R261) -/

/-- A request to pre-empt a stream reaches its sequencers. (DEDUCED, log entry 55.) -/
def requestCkpt (id : Nat) : M Unit := do
  let s ← get
  modStream id fun t => { t with ckptReq := if t.ckptReq.isNone then some (s.rotation t.first) else t.ckptReq }

/-- What the wave context of a core is saved as. -/
def Stream.partsAt (s : State) (t : Stream) (k : Nat) : List PartData := (s.ctx (t.key k)).waveParts t

/-- The block has stopped at its checkpoint: once every spill area has room, the wave contexts are saved with their images
and the slots freed; a stream that is ending in a break is not saved (R227, R229, R261).
(DESIGN CHOICE, log entry 50.) -/
def saveStream (id : Nat) : M Unit := do
  let s ← get
  let t := s.stream id
  if t.stopAt.isSome then pure ()
  else if !t.cores.all fun k => (withParts s k (Stream.savedKey id k) (t.partsAt s k)).isSome then keepPending (.streamResume id)
  else
    t.cores.forM fun k => do
      let c := (← get).ctx (t.key k)
      let _ ← saveParts k (Stream.savedKey id k) (c.waveParts t)
      modify fun s => { s with ctxs := (s.ctxs.del (t.key k)).put (Stream.savedKey id k) c }
    freeSlotsOf id t
    modStream id fun t => { t with phase := .preempted, ckptReq := none }
    if t.wmma then unholdEngines t
    -- a stream that heat stopped goes on when THR clears (R256); that of a pre-empted owner with the owner (R227)
    let o := s.ctx t.owner
    let away := match o.place with
      | .saved _ => true
      | _ => o.preempt
    if !away && !(t.wmma && (s.die t.die).thr) then addPending (.streamResume id)

/-- The wave images of the block come back (R227, R261). -/
def restoreStream (id : Nat) (t : Stream) : M Unit := do
  let s ← get
  let f (k : Nat) (kind : SpillKind) := partOf s k (Stream.savedKey id k) kind
  match f t.first .wave with
  | some g => modStream id (Stream.withWave g)
  | none => pure ()
  t.cores.forM fun k => do
    let c := s.ctx (Stream.savedKey id k)
    let c := match f k .image with
      | some g => c.withImage g
      | none => c
    modify fun s => { s with ctxs := (s.ctxs.del (Stream.savedKey id k)).put (t.key k) (c.withWave (f k .wave) (f k .matrixWave)) }
    dropParts k (Stream.savedKey id k)

/-- STREAM_RESUME: the stream takes its buffers and slots again, and goes on with step s + 1 at rotation T0′ + 1
(R227). -/
def mStreamResume (id : Nat) : M Unit := do
  let s ← get
  let t := s.stream id
  if t.phase == .preempted then
    if buffersFree s t && !(t.wmma && (s.die t.die).thr) then
      claimSlots id t
      restoreStream id t
      if t.wmma then holdEngines t
      modStream id fun t => { t with phase := .resuming }
    keepPending (.streamResume id)
  else if t.phase == .resuming then
    if !t.wmma || (enginesReady s t && !(s.die t.die).thr) then
      let t0 := firstRotation s t.die
      let start := t0 - t.ckptStep.getD 0
      modStream id fun t => { t with phase := .active, start, ckptStep := none }
      match t.voteAt with
      | some j => addTimer (rotationCycle s t.die (start + t.voteStep j)) (.voteResult id)
      | none => pure ()
    else keepPending (.streamResume id)
  else if t.phase == .active && t.atCheckpoint then saveStream id

/-! ### The meanings -/

def execWbegin (sg : BitVec 2) (streamB diag : Bool) (d : BitVec 5) (a b : Spec) (lines : BitVec 8) (g : BitVec 4)
    (s : State) := runI (mWbegin sg streamB diag d a b lines g) (.wbegin sg streamB diag d a b lines g) s
def execWend (s : State) := runI mWend .wend s
def execWloop (l1 : Bool) (n : BitVec 16) (t : Tgt) (s : State) := runI (mWloop l1 n t) (.wloop l1 n t) s
def execWjmp (t : Tgt) (s : State) := runI (mWjmp t) (.wjmp t) s
def execWvoteAnd (s : State) := runI mWvoteAnd .wvoteAnd s
def execWvoteOr (s : State) := runI mWvoteOr .wvoteOr s
def execWbrvT (t : Tgt) (s : State) := runI (mWbrvT t) (.wbrvT t) s
def execWbrvF (t : Tgt) (s : State) := runI (mWbrvF t) (.wbrvF t) s
def execWckpt (s : State) := runI mWckpt .wckpt s
def execWaveStreamStart (st : Nat) (s : State) := runE (mWaveStreamStart st) s
def execVoteResult (st : Nat) (s : State) := runE (mVoteResult st) s
def execWaveBreak (st : Nat) (s : State) := runE (mWaveBreak st) s
def execWaveTokenLanding (st : Nat) (s : State) := runE (mWaveTokenLanding st) s
def execStreamResume (st : Nat) (s : State) := runE (mStreamResume st) s

end Sys2Proof.Machine
end

