-- ==== Sys2Proof/Machine/Fabric.lean ====
section
/-!
DEFINITION. The fabric: routers, routes, die crossings, ports, links, the load monitor and transit (R352 to R369, R384).
-/

namespace Sys2Proof.Machine

/-! ### Where links attach (R13, R367) -/

/-- A link end: die·32 + east bundle k, 8 + south bundle k, 16 + peer port p, 18 Gweblink; 24 to 26 the far ends of the
ports 16 to 18, outside the package. -/
def linkEnd (die ix : Nat) : Nat := die * 32 + ix
def linkDie (l : Nat) : Nat := l / 32 % 4
def linkIx (l : Nat) : Nat := l % 32

def State.link (s : State) (l : Nat) : Link := ((s.die (linkDie l)).links).getD (linkIx l) {}
def modLink (l : Nat) (f : Link → Link) : M Unit :=
  modDie (linkDie l) fun d => { d with links := d.links.put (linkIx l) (f (d.links.getD (linkIx l) {})) }
/-- LST is 2 or 3 (R365). -/
def Link.up (l : Link) : Bool := l.lst == 2 || l.lst == 3

/-- The router that a link end attaches to. -/
def linkCluster (l : Nat) : Nat :=
  let k := linkIx l
  linkDie l * 160 +
    (if k < 8 then 16 * (k + 1) + 15
     else if k < 16 then 16 * 9 + (11 - (k - 8))
     else if k = 16 then 4
     else if k = 17 then 16 * 6
     else 11)

/-- A link end outside the package. -/
def linkOutside (l : Nat) : Bool := decide (24 ≤ linkIx l)

/-- The other end: east bundle k of die d meets south bundle 7 − k of die d + 1; a port has its other end outside. -/
def linkPeer (l : Nat) : Nat :=
  let d := linkDie l
  let k := linkIx l
  if k < 8 then linkEnd ((d + 1) % 4) (8 + (7 - k))
  else if k < 16 then linkEnd ((d + 3) % 4) (7 - (k - 8))
  else if k < 24 then linkEnd d (k + 8)
  else linkEnd d (k - 8)

/-- The unit id of a link end: its bundle, or its port (R374). -/
def linkUnit (s : State) (l : Nat) : Word :=
  let core := coreAddr s.chip (coreOfCluster (linkCluster l) 0)
  if linkIx l < 16 then unitId 3 (linkIx l) core else unitId 6 (linkIx l - 16) core

/-! ### The next hop (R355, R356, R364) -/

/-- The clusters of a die as row and column. -/
def crow (c : Nat) : Nat := c % 160 / 16
def ccol (c : Nat) : Nat := c % 16

/-- The next router towards a cluster of the same die, and the mesh port that leads there: N 0, E 1, S 2, W 3. -/
def meshHop (yx : Bool) (c t : Nat) : Nat × Nat :=
  let byCol : Option (Nat × Nat) := if ccol c < ccol t then some (c + 1, 1) else if ccol t < ccol c then some (c - 1, 3) else none
  let byRow : Option (Nat × Nat) := if crow c < crow t then some (c + 16, 2) else if crow t < crow c then some (c - 16, 0) else none
  ((if yx then byRow.or byCol else byCol.or byRow)).getD (c, 0)

/-- The edge from die d towards an adjacent die: 0 for its east bundles, 8 for its south ones. -/
def edgeTo (d t : Nat) : Nat := if t = (d + 1) % 4 then 0 else 8

/-- The bundle of an edge that a packet takes: κ, or the next that is up; none when none is up. -/
def bundleOf (s : State) (d edge : Nat) (kappa : BitVec 3) : Option Nat :=
  ((List.range 8).map fun i => linkEnd d (edge + (kappa.toNat + i) % 8)).find? fun l => (s.link l).up

/-- A die takes transit packets: HOLDTR is clear and the die is not away for a reset (R366). -/
def takesTransit (s : State) (d : Nat) : Bool := !(s.die d).holdtr && !(s.die d).down

/-- The intermediate die of a packet from die d to die d + 2; none while neither takes transit (R364, R366). -/
def viaDie (s : State) (d : Nat) (p : Packet) : Option Nat :=
  let a := if p.yx then (d + 3) % 4 else (d + 1) % 4
  [a, (a + 2) % 4].find? (takesTransit s)

/-- The link by which the unanswered earlier packets of its ordered flow have left a die (R358 rule 2, R364). -/
def flowLink (s : State) (p : Packet) (d : Nat) : Option Nat :=
  if p.flow.isNone then none
  else (s.ctx p.cx).opens.findSome? fun o =>
    if decide (o.1 < p.op) && o.2.flow == p.flow then o.2.path.find? fun l => linkDie l == d else none

/-- The link by which a packet leaves die d for die t, or none while it waits: by R364, or as its ordered flow has gone.
A flow leaves its link when the link is fenced, and waits while its intermediate die is held (R358, R366).
(DEDUCED, log entry 61.) -/
def linkOut (s : State) (d t : Nat) (p : Packet) : Option Nat :=
  let far := t = (d + 2) % 4
  let new := (if far then viaDie s d p else some t).bind fun v => bundleOf s d (edgeTo d v) p.kappa
  match flowLink s p d with
  | none => new
  | some l =>
    let k := s.link l
    if k.lst == 4 || k.lst == 5 then new
    else if k.up && (!far || takesTransit s (linkDie (linkPeer l))) then some l
    else none

/-- Entry c of the chip route table: the port's link end, when the chip is reachable (R368). -/
def chipPort (s : State) (d c : Nat) : Nat × Bool :=
  let t := (s.die d).crtb
  let b : BitVec 8 := BitVec.ofNat 8 (s.readNat ((bits t 8 44).toNat * 256 + c) 1)
  let p := (bits b 0 3).toNat
  (linkEnd (p / 2) (16 + p % 2), bitAt t 0 && bitAt b 7)

/-- Where a packet leaves the fabric of the package: a router, or a port. -/
inductive Exit
  | router (c : Nat)
  | port (l : Nat)
  | discard (l : Nat)
  deriving DecidableEq, Repr

/-- DESIGN CHOICE, log entry 38: another chip receives packets through portOut and answers only what portIn holds.
-/
def exitOf (s : State) (p : Packet) : Exit :=
  if p.dst < 4096 then .router (clusterOf p.dst)
  else if p.dst < 8192 then .router (p.dst - 4096)
  else if p.dst < 8448 then
    let r := chipPort s (p.node / 160) (p.dst - 8192)
    if r.2 && decide (p.hops < 3) then .port r.1 else .discard r.1
  else .port (linkEnd (p.dst - 8448) 18)

/-- The event with which a unit takes an arrived packet. (DESIGN CHOICE, log entry 74.) -/
def arrivalEvent (id : Nat) (p : Packet) : List Instr :=
  match p.kind with
  | .lineReq => [.lineRequest id]
  | .lineResp => [.lineResponse id]
  | .join => [.joinApply id]
  | .threshold => [.thresholdRegister id]
  | .freeze => [.freezeApply id]
  | .exact => [.exactRead id]
  | .answer => [.stqAcknowledge id]
  | .deposit => [if p.flag then .depositArrival id else .directoryForward id]
  | .queueEntry => [.queueEntryArrival id]
  | .row => [.rowLanding id]
  | .synld => [.synldRequest id]
  | .mcast => [.mcastDelivery id]
  | .zeroReq => [.pageOperationComplete id]
  | .inval | .order => [.packetForward id]
  | .copy =>
    if p.words.length ≠ 1 then [.copyComplete id]
    else if 4096 ≤ p.dst then [.lineRequest id]
    else [if p.flag then .synldRequest id else .rowLanding id]
  | .tdec => [.taskRowDecrement id]
  | .arrival => [.contextArrival id]
  | .control | .record => []

/-- Payload bytes of a packet: an arrival is one 128-byte entry (R343, R353). -/
def Packet.bytes (p : Packet) : Nat := match p.kind with
  | .arrival => 128
  | _ => p.data.length

/-- Packets of a message: a payload of more than 512 bytes is a segmented message, whose packets follow one another on one
route (R353). (DESIGN CHOICE, log entry 18.) -/
def Packet.segments (p : Packet) : Nat := Nat.max 1 (ceilDiv p.bytes 512)

/-- Flits of a message: a head for each packet, and the data (R353). -/
def flitsOf (p : Packet) : Nat := p.segments + ceilDiv p.bytes 64

/-- Link flits of 128 bytes that its packets occupy: 5 for a full one (R363). -/
def linkFlits (p : Packet) : Nat :=
  5 * (p.segments - 1) + ceilDiv (64 + 64 * ceilDiv (p.bytes - 512 * (p.segments - 1)) 64) 128

/-- Link flits that a sending end holds for a replay: those of the packets on its way to link end r (R365). -/
def replayFlits (s : State) (r : Nat) : Nat := ((s.net.filter fun p => p.2.link == some r).map fun p => linkFlits p.2).sum

def putPacket (id : Nat) (p : Packet) : M Unit := modify fun s => { s with net := s.net.put id p }

/-- A router port as a unit (R374). (DEDUCED, log entry 61.) -/
def portUnit (s : State) (cluster ix : Nat) : Word := unitId 2 ix (coreAddr s.chip (coreOfCluster cluster 0))

/-- The local ports that a packet takes at the router of its destination. -/
def localPorts (s : State) (p : Packet) : List Word :=
  if 4096 ≤ p.dst then [portUnit s p.node 8]
  else if isSupervisor p.dst then []
  else portUnit s p.node (4 + qOfCore p.dst) :: match p.kind with
    | .row | .synld | .mcast => [portUnit s p.node 9]
    | _ => []

/-- A packet that can go no further because a unit is lasting: a request is answered with 0x41, a DEP is refused by the
record of R47, since its answer carries no fault (R296, R376). (DEDUCED, log entry 96.) -/
def refusePacket (id : Nat) (p : Packet) (u : Word) : M Unit := do
  dropPacket id
  if p.kind = .deposit then refuseDep { p with dst := coreOfCluster p.node 0 } 2
  else
    if p.kind == .row && p.flag then uncreate p.taskCx
    reply p p.node [{ code := 0x41, info := [u], taddr := p.va, src := 8 }] [] [] false

/-- Goes through router ports: a fenced one holds the packet, a lasting one refuses a request (R376). -/
def throughPorts (id : Nat) (p : Packet) (ports : List Word) (go : M Unit) : M Unit := do
  let s ← get
  let answers := p.kind == .answer || p.kind == .lineResp
  match firstLasting s ports with
  | some u =>
    if answers then keepPending (.packetForward id) else refusePacket id p u
  | none => if anyFenced s ports then keepPending (.packetForward id) else go

/-- The monitor counts the flits of a packet on a mesh link (R361). -/
def countFlits (c port : Nat) (p : Packet) : M Unit :=
  modDie (c / 160) fun d =>
    let k := c % 160 * 4 + port
    { d with windowFlits := d.windowFlits.put k (d.windowFlits.getD k 0 + flitsOf p) }

/-- A packet goes from its router over a mesh port into the next one's queue. -/
def overMesh (id : Nat) (p : Packet) (port c : Nat) : M Unit := do
  countFlits p.node port p
  let n ← freshId
  putPacket id { p with node := c, port := (port + 2) % 4, entered := n }
  addPending (.packetForward id)

/-- One hop on the mesh: XY on the channels of copy data (R355, R361). (DESIGN CHOICE, log entry 38.) -/
def hopTo (id : Nat) (p : Packet) (t : Nat) : M Unit := do
  let (c, port) := meshHop (p.yx && decide (p.vc < 5)) p.node t
  let s ← get
  throughPorts id p [portUnit s p.node port, portUnit s c ((port + 2) % 4)] (overMesh id p port c)

/-- A packet leaves a die by a link, or waits until it is up and the replay buffer has room; its operation notes the link
(R358, R365). -/
def crossLink (id : Nat) (p : Packet) (l : Nat) : M Unit := do
  let s ← get
  let r := linkPeer l
  let held := replayFlits s r
  if !(s.link l).up || (held ≠ 0 && 64 < held + linkFlits p) then keepPending (.packetForward id)
  else
    putPacket id { p with link := some r }
    modify fun s => if (s.ctxs.find p.cx).isNone then s else s.modCtx p.cx fun c =>
      match c.opens.find p.op with
      | some o => { c with opens := c.opens.put p.op { o with path := o.path.filter (fun x => linkDie x != linkDie l) ++ [l] } }
      | none => c
    addPending (.linkFlitReceive r)

/-- Towards a link end of the same die, then across. -/
def toLink (id : Nat) (p : Packet) (l : Nat) : M Unit :=
  if p.node = linkCluster l then crossLink id p l else hopTo id p (linkCluster l)

/-- Towards a port: a lasting one refuses a request (R376). -/
def toPort (id : Nat) (p : Packet) (l : Nat) : M Unit := do
  let s ← get
  if unitLasting s (linkDie l) (linkUnit s l) && !p.kind.response then refusePacket id p (linkUnit s l) else toLink id p l

/-- The unit that a packet is for: a slice or a core. -/
def destUnit (s : State) (p : Packet) : Word :=
  if 4096 ≤ p.dst then sliceUnit s (p.dst - 4096) else coreUnit s p.dst

/-- Towards another die; a request for a die that is away for a reset is refused (R364, R379). -/
def toDie (id : Nat) (p : Packet) (t : Nat) : M Unit := do
  let s ← get
  if (s.die t).down && p.dst < 8192 && !p.kind.response then refusePacket id p (destUnit s p)
  else match linkOut s (p.node / 160) t p with
  | none => keepPending (.packetForward id)
  | some l => toLink id { p with via := if t = linkDie (linkPeer l) then p.via else some (linkDie (linkPeer l)) } l

/-! #### Multicast (R362) -/

/-- A branch of a multicast at a router: its mesh port, the next router, whether it goes on eastward (1) or south (2),
and the cores it serves. -/
structure Branch where
  port : Nat
  next : Nat
  tree : Nat
  cores : List Nat
  deriving DecidableEq, Repr

/-- The branches at router c: east along the row of the first core's cluster, south from every router of that row. -/
def Rect.branches (r : Rect) (c tree : Nat) : List Branch :=
  let east := r.cores.filter fun k => decide (ccol c < ccol (clusterOf k))
  let south := r.cores.filter fun k => ccol (clusterOf k) == ccol c && decide (crow c < crow (clusterOf k))
  (if tree ≤ 1 && !east.isEmpty then [{ port := 1, next := c + 1, tree := 1, cores := east }] else [])
    ++ (if !south.isEmpty then [{ port := 2, next := c + 16, tree := 2, cores := south }] else [])

/-- A multicast at a router of its tree: once no branch is fenced, every core port of the rectangle takes it and every
branch carries it on; the cores behind a lasting port are answered for (R302, R362, R376). -/
def spread (id : Nat) (p : Packet) (r : Rect) : M Unit := do
  let s ← get
  let c := p.node
  let here := r.cores.filter fun k => clusterOf k == c
  let bs := r.branches c p.tree
  let portsOf (b : Branch) : List Word := [portUnit s c b.port, portUnit s b.next ((b.port + 2) % 4)]
  if anyFenced s (here.flatMap (fun k => localPorts s { p with dst := k }) ++ bs.flatMap portsOf) &&
      (firstLasting s (here.flatMap (fun k => localPorts s { p with dst := k }) ++ bs.flatMap portsOf)).isNone then
    keepPending (.packetForward id)
  else
    dropPacket id
    let refuse (u : Word) (k : Nat) : M Unit :=
      reply { p with ord := k } c [{ code := 0x41, info := [u], src := 8 }] [] [] false
    here.forM fun k => do
      let q := { p with dst := k, ord := k, flow := none }
      match firstLasting s (localPorts s q) with
      | some u => refuse u k
      | none =>
        let n ← freshId
        putPacket n { q with arrived := true }
        addPending (.mcastDelivery n)
    bs.forM fun b =>
      match firstLasting s (portsOf b) with
      | some u => b.cores.forM (refuse u)
      | none => do
        let n ← freshId
        overMesh n { p with tree := b.tree, flow := none } b.port b.next

/-- The rectangle of a multicast that has come to its tree: the router of its first core, or one beyond. -/
def treeOf (s : State) (p : Packet) : Option Rect :=
  if p.kind ≠ .mcast then none
  else match Rect.of? (p.words.getD 0 0) with
    | some r => if r.chip == s.chip && (p.tree != 0 || p.node == clusterOf (coreNo r.die r.row0 r.col0)) then some r else none
    | none => none

/-! #### Forwarding -/

/-- The packet is the first of its port and channel; at the injection of a network interface, of its ordered flow
(R355, R358). -/
def queueHead (s : State) (id : Nat) (p : Packet) : Bool :=
  !s.net.any fun q =>
    q.1 != id && q.2.kind != .record && !q.2.arrived && q.2.link.isNone && q.2.node == p.node && q.2.port == p.port
      && q.2.vc == p.vc && decide (q.2.entered < p.entered) && (p.port != 9 || (p.flow.isSome && q.2.flow == p.flow))

/-- A dirty line is on its way to the chip that a packet is for, sent before it and unanswered (R169).
(DESIGN CHOICE, log entry 112.) -/
def behindWriteBack (s : State) (id : Nat) (p : Packet) : Bool :=
  p.port == 9 && decide (8192 ≤ p.dst) && decide (p.dst < 8448) && !p.kind.response
    && s.net.any fun q => q.2.kind == .record && q.2.asked == some .lineReq && q.2.dst == p.dst && q.1 != p.op && decide (q.1 < id)

/-- What R135 says of a request of the host (R369). -/
def hostRule (s : State) (p : Packet) : PageRule :=
  let acc : Option PageAcc := match p.kind with
    | .lineReq => some (if p.flag then .store else .load)
    | .join => some .join
    | .threshold => some .trd
    | .exact => some .xrd
    | .freeze => some .fix
    | _ => none
  match acc with
  | none => .yes
  | some a => pageRule (pageKind p.e 0xFFFFE (ownerLive s (Leaf.owner p.e))) a

/-- A launch queue goes on at a record, as CKPT has streamed it (R327, R380). -/
def restoreQueue (base : Pc) (n : Nat) (s : State) : State :=
  (List.range 4).foldl (fun s d => if (s.die d).lqbase = base then s.modDie d fun x => { x with nextRec := n } else s) s

/-- A packet at its destination's router goes to its unit; a record for the mailbox of another die enters it, and what
the host restores enters memory or a launch queue (R380). (DESIGN CHOICE, log entry 57.) -/
def reachUnit (id : Nat) (p : Packet) : M Unit := do
  if p.kind = .control then
    dropPacket id
    if p.cx = hostKey then
      modify fun s => s.writeBytes p.pa p.data
      match p.words with
      | [base, n] => modify (restoreQueue (base.setWidth 56) n.toNat)
      | _ => pure ()
    else modify (postRecord (p.node / 160) (ofBytes 512 p.data))
  else
    putPacket id { p with arrived := true }
    (arrivalEvent id p).forM addPending

/-- The next step of a packet on its way. -/
def forward (id : Nat) (p : Packet) : M Unit := do
  let s ← get
  let d := p.node / 160
  match treeOf s p, p.mid with
  | some r, _ => spread id p r
  | none, some m =>
    if m ≠ p.node then hopTo id p m
    else
      -- the second phase of copy data (R361)
      putPacket id { p with mid := none, vc := 6, entered := ← freshId }
      keepPending (.packetForward id)
  | none, none =>
    match exitOf s p with
    | .router c =>
      if c / 160 ≠ d then toDie id p (c / 160)
      else if c ≠ p.node then hopTo id p c
      else throughPorts id p (localPorts s p) (reachUnit id p)
    | .port l => if linkDie l ≠ d then toDie id p (linkDie l) else toPort id p l
    | .discard l => refusePacket id p (linkUnit s l)

/-- PACKET_FORWARD (R355, R358): one hop, a crossing, or the arrival of a packet whose turn it is; a request of the host
first meets R135 (R369); an order of another chip that has arrived is carried out (R118). (DESIGN CHOICE, log entry 18.) (DEDUCED, log entry 61.) -/
def mPacketForward (id : Nat) : M Unit := do
  let s ← get
  match s.net.find id with
  | none => pure ()
  | some p =>
    if p.arrived && (p.kind == .inval || p.kind == .order) then serveOrder (.packetForward id) id p
    else if p.arrived || p.link.isSome then pure ()
    else if !queueHead s id p || behindWriteBack s id p then keepPending (.packetForward id)
    else if p.cx = hostKey && p.port == 28 then
      match hostRule s p with
      | .fault code =>
        dropPacket id
        reply p p.node [pageFault code p.e p.va] [] [] false
      | .parks => keepPending (.packetForward id)
      | _ => forward id p
    else forward id p

/-! ### Links (R365) -/

/-- The packet of a list that entered its router first. -/
def firstEntered (ps : List (Nat × Packet)) : Option (Nat × Packet) :=
  ps.foldl (fun b p => match b with
    | none => some p
    | some q => if p.2.entered < q.2.entered then some p else some q) none

/-- The packet that a link end receives next from the other end of its bundle: the one that it holds in part, or the next. -/
def nextOnLink (s : State) (l : Nat) : Option (Nat × Packet) :=
  let on := fun p : Nat × Packet => p.2.link == some l
  (((s.link l).part.bind fun q => (s.net.find q.1).map (q.1, ·)).filter on).or (firstEntered (s.net.filter on))

/-- The flow of the host's packets of a port to one slice (R369). -/
def hostFlow (l : Nat) (p : Packet) : Option Nat :=
  if p.cx = hostKey && decide (4096 ≤ p.dst) then some (msgFlow hostKey 5 (linkDie l * 8192 + p.dst)) else p.flow

/-- A packet from outside enters at a port. (DESIGN CHOICE, log entry 9.) (DESIGN CHOICE, log entry 38.) -/
def enterPort (l : Nat) (p : Packet) : M Unit := do
  let id ← freshId
  putPacket id
    { p with node := linkCluster l, port := 10 + linkIx l, vc := p.channel p.yx, entered := id, mid := none, tree := 0
             flow := hostFlow l p, link := none, arrived := false }
  addPending (.packetForward id)

/-- The receiver discards the packet that it holds in part, and expects its first link flit again (R365 rule 3). -/
def Link.discardPart (k : Link) : Link := { k with seq := k.seq - (k.part.elim 0 (·.2)), part := none }

/-- Both ends of a link. -/
def linkEnds (l : Nat) : List Nat := [l, linkPeer l]

/-- The packets on a link go back to their places at the router of the sending end, ahead of later ones, to leave by the
bundle that replaces it (R364, R365 rule 5). -/
def resendPackets (l : Nat) : M Unit := do
  let s ← get
  s.net.forM fun p => do
    match p.2.link with
    | some r =>
      if (linkEnds l).contains r then
        putPacket p.1 { p.2 with link := none }
        addPending (.packetForward p.1)
    | none => pure ()

/-- A retrain begins: LRTC counts it, saturating at 255 by erratum 3 (R384); the third failed in a row fences the link for
its self-test, which hardware reports (R365, R376). (DEDUCED, log entry 41.) -/
def startRetrain (l failed : Nat) : M Unit := do
  let s ← get
  (linkEnds l).forM fun e => modLink e fun k =>
    { k.discardPart with lst := 1, failed, replayAt := [], lrtc := if 255 ≤ k.lrtc.toNat then 255 else k.lrtc + 1 }
  -- a training still under way has come to nothing
  modify fun s => { s with pending := s.pending.filter fun i => match i with
    | .linkTrainingComplete e _ => !(linkEnds l).contains e
    | _ => true }
  if failed < 3 then addPending (.linkTrainingComplete l (s.link l).rev)
  else
    let u := linkUnit s (if linkOutside l then linkPeer l else l)
    (linkEnds l).forM fun e => modLink e fun k => { k with lst := 4 }
    resendPackets l
    modDie (linkDie l) fun d => { d with fenced := d.fenced ++ [u] }
    modify (postUnit (linkDie l) (bits u 0 12).toNat { code := 0x41, info := [u], src := 8 })
    addPending (.selfTestComplete u.toNat)

/-- A replay; more than 16 within 65,536 cycles start a retrain (R365 rule 4). -/
def noteReplay (l : Nat) : M Unit := do
  let now := (← get).cycle
  modLink l fun k =>
    { k.discardPart with
      crce := if k.crce = 0xFFFF then k.crce else k.crce + 1, lst := 3
      replayAt := now :: k.replayAt.filter fun t => decide (now < t + 65536) }
  if 16 < ((← get).link l).replayAt.length then startRetrain l 0

/-- Link flits that a link end holds of packet id. -/
def Link.partOf (k : Link) (id : Nat) : Nat := match k.part with
  | some (i, n) => if i = id then n else 0
  | none => 0

/-- The next link flit of packet id arrives in sequence; the last one has the packet accepted (R365 rule 3).
(DESIGN CHOICE, log entry 75.) -/
def takeFlit (l id : Nat) (p : Packet) (accept : M Unit) : M Unit := do
  let n := ((← get).link l).partOf id + 1
  if n < linkFlits p then
    modLink l fun k => { k with lst := 2, seq := k.seq + 1, part := some (id, n) }
    keepPending (.linkFlitReceive l)
  else
    modLink l fun k => { k with lst := 2, seq := k.seq + 1, part := none }
    accept

/-- What comes next over a link, with what its acceptance does: a packet of this package, or one from outside. -/
def nextArrival (s : State) (l : Nat) : Option (Nat × Packet × M Unit) :=
  match nextOnLink s l with
  | some (id, p) =>
    some (id, p,
      if linkOutside l then do
        dropPacket id
        modify fun s => { s with portOut := s.portOut ++
          [{ p with link := some (linkPeer l), hops := p.hops + (if linkIx l = 26 then 0 else 1) }] }
      else do
        putPacket id { p with link := none, node := linkCluster l, port := 10 + linkIx l, entered := ← freshId }
        addPending (.packetForward id))
  | none =>
    (s.portIn.find? fun p => p.link == some l).map fun p => (0, p, do
      modify fun s => { s with portIn := s.portIn.erase p }
      enterPort l p)

/-- LINK_FLIT_RECEIVE: a link flit arrives in sequence, and its packet is accepted whole, once; or it fails its CRC, and
the packet is replayed from its first link flit (R365). -/
def mLinkFlitReceive (l : Nat) : M Unit := do
  let s ← get
  if !(s.link l).up then keepPending (.linkFlitReceive l)
  else match nextArrival s l with
    | none => modLink l fun k => { k with lst := 2 }
    | some (id, p, accept) =>
      if Config.freeBool (← draw) then
        noteReplay l
        keepPending (.linkFlitReceive l)
      else takeFlit l id p accept

/-- RETRAIN (R365): the loss of lock of a link; one that is still in training has failed to train.
(DEDUCED, log entry 41.) -/
def mRetrain (l : Nat) : M Unit := do
  let k := (← get).link l
  if k.up || k.lst == 1 then startRetrain l (if k.lst == 1 then k.failed + 1 else 0)

/-- A port has the key of its link encryption (R378). -/
def linkKeyed (s : State) (l : Nat) : Bool :=
  let d := s.die (linkDie l)
  let k := linkIx l
  decide (k < 16) || (if k = 18 || k = 26 then d.keyG else d.keyP)

/-- LINK_TRAINING_COMPLETE (R13, R365): a link in training comes up, REV says whether the lanes are reversed, and the
replay buffer resends; a port whose key is gone stays down (R378). -/
def mLinkTrainingComplete (l : Nat) (rev : Bool) : M Unit := do
  let s ← get
  let k := s.link l
  if k.lst == 4 || k.lst == 5 then pure ()
  else if !linkKeyed s l || ((s.die (linkDie l)).halted && decide (16 ≤ linkIx l)) then
    (linkEnds l).forM fun e => modLink e fun k => { k with lst := 0, failed := 0 }
  else
    (linkEnds l).forM fun e => modLink e fun k => { k with lst := 2, failed := 0 }
    modLink l fun k => { k with rev }
    (linkEnds l).forM fun e => addPending (.linkFlitReceive e)

/-! ### The load monitor (R361) -/

/-- Directed mesh links of a die: 10 rows of 15, 16 columns of 9, both ways. -/
def meshLinks : Nat := 2 * (10 * 15 + 16 * 9)

/-- DESIGN CHOICE, log entry 18: combining (R359) is a router's choice and is not made; some internal traffic makes no
packets. -/
def mLlmonWindow (d : Nat) : M Unit := do
  let flits := ((← get).die d).windowFlits
  let total := (flits.map (·.2)).sum
  let busiest := flits.foldl (fun (b : Nat × Nat) f => if b.2 < f.2 then f else b) (0, 0)
  let imb := if total = 0 then 0 else Nat.min (16 * busiest.2 * meshLinks / total) 0xFFFF
  modDie d fun x =>
    { x with
      windowFlits := [], llLink := BitVec.ofNat 16 busiest.1, llImb := BitVec.ofNat 16 imb
      llActive := x.bulken && decide (x.balth.toNat < imb) }

/-! ### Transit (R366) -/

/-- A packet passes through a die: it is inside and bound for another die, and came from another. -/
def inTransit (s : State) (d : Nat) (p : Packet) : Bool :=
  let bound : Nat := match exitOf s p with
    | .router c => c / 160
    | .port l => linkDie l
    | .discard l => linkDie l
  !p.arrived && p.via == some d && bound != d && (p.node / 160 == d || p.link.any fun l => linkDie l == d)

def mTransitDrainEnd (d : Nat) : M Unit := do
  let s ← get
  if (s.die d).holdtr then
    if s.net.any fun p => inTransit s d p.2 then keepPending (.transitDrainEnd d)
    else modDie d fun x => { x with drained := true }

/-! ### The meanings -/

def execPacketForward (pkt : Nat) (s : State) := runE (mPacketForward pkt) s
def execLinkFlitReceive (link : Nat) (s : State) := runE (mLinkFlitReceive link) s
def execRetrain (link : Nat) (s : State) := runE (mRetrain link) s
def execLinkTrainingComplete (link : Nat) (rev : Bool) (s : State) := runE (mLinkTrainingComplete link rev) s
def execLlmonWindow (die : Nat) (s : State) := runE (mLlmonWindow die) s
def execTransitDrainEnd (die : Nat) (s : State) := runE (mTransitDrainEnd die) s

end Sys2Proof.Machine
end

