-- ==== Sys2Proof/Machine/Scalar.lean ====
section
/-!
DEFINITION. Class 0: the scalar instructions (R61, R67, R152 to R154).
-/

namespace Sys2Proof.Machine

/-- The course of the binary form: both operands are read, D and, with .f, the flags are written (R60, R153). -/
def binOp (i : Instr) (o : Bin) (f : Word → Word → AluOut) : M Unit := do
  checkRegs i
  let a ← rdS o.a
  let v ← rdSrc o.src
  let r := f a v
  wrS o.d r.r
  if o.f then modFlags fun g => g.arith r.r r.c r.v

/-- The course of the unary instructions. -/
def unOp (i : Instr) (d a : Spec) (f : Word → Word) : M Unit := do
  checkRegs i
  wrS d (f (← rdS a))

def mNop : M Unit := pure ()
def mAdd (m : SatMode) (o : Bin) : M Unit := binOp (.add m o) o (aluAdd m)
def mSub (m : SatMode) (o : Bin) : M Unit := binOp (.sub m o) o (aluSub m)
def mMul (o : Bin) : M Unit := binOp (.mul o) o aluMul
def mMulh (u : Bool) (o : Bin) : M Unit := binOp (.mulh u o) o (aluMulh u)
def mDiv (u : Bool) (o : Bin) : M Unit := binOp (.div u o) o (aluDiv u)
def mRem (u : Bool) (o : Bin) : M Unit := binOp (.rem u o) o (aluRem u)
def mAnd (o : Bin) : M Unit := binOp (.and o) o fun a v => { r := a &&& v }
def mOr (o : Bin) : M Unit := binOp (.or o) o fun a v => { r := a ||| v }
def mXor (o : Bin) : M Unit := binOp (.xor o) o fun a v => { r := a ^^^ v }
def mAndn (o : Bin) : M Unit := binOp (.andn o) o fun a v => { r := a &&& ~~~v }
def mShl (o : Bin) : M Unit := binOp (.shl o) o fun a v => { r := a <<< shiftAmt v }
def mShr (o : Bin) : M Unit := binOp (.shr o) o fun a v => { r := a >>> shiftAmt v }
def mSar (o : Bin) : M Unit := binOp (.sar o) o fun a v => { r := a.sshiftRight (shiftAmt v) }
def mRotl (o : Bin) : M Unit := binOp (.rotl o) o fun a v => { r := a.rotateLeft (shiftAmt v) }
def mMin (u : Bool) (o : Bin) : M Unit := binOp (.min u o) o (aluMin u)
def mMax (u : Bool) (o : Bin) : M Unit := binOp (.max u o) o (aluMax u)
def mClz (d a : Spec) : M Unit := unOp (.clz d a) d a fun x => BitVec.ofNat 64 (leadingZeros x)
def mPopc (d a : Spec) : M Unit := unOp (.popc d a) d a fun x => BitVec.ofNat 64 (popcount x)

/-- A[lo+w-1 : lo], extended (R153). -/
def bitField (sx : Bool) (w lo : Nat) (x : Word) : Word :=
  if sx then sxLow w (x >>> lo) else zxLow w (x >>> lo)

def mBfx (sx : Bool) (d a : Spec) (wm1 lo : BitVec 6) : M Unit :=
  unOp (.bfx sx d a wm1 lo) d a (bitField sx (wm1.toNat + 1) lo.toNat)

/-- BFI reads D first, so a dead D faults (R153). -/
def mBfi (d a : Spec) (wm1 lo : BitVec 6) : M Unit := do
  checkRegs (.bfi d a wm1 lo)
  let old ← rdS d
  let x ← rdS a
  wrS d (setBits old lo.toNat (bits x 0 (wm1.toNat + 1)))

def mLi (d : Spec) (imm : Word) : M Unit := do
  checkRegs (.li d imm)
  wrS d imm

def mLea (sh : BitVec 3) (d a b : Spec) (x : BitVec 48) : M Unit := do
  checkRegs (.lea sh d a b x)
  let p ← rdS a
  let q ← rdS b
  wrS d (p + (q <<< sh.toNat) + sext64 x)

def mSel (d a b : Spec) : M Unit := do
  checkRegs (.sel d a b)
  let p ← rdS a
  let q ← rdS b
  wrS d (if (← rdFlags).t then p else q)

def mCmp (cc : Cond) (skip : BitVec 2) (a b : Spec) : M Unit := do
  checkRegs (.cmp cc skip a b)
  let p ← rdS a
  let q ← rdS b
  modFlags fun f => f.compare (condHolds cc p q) skip

def mCmpi (cc : Cond) (skip : BitVec 2) (a : Spec) (x : BitVec 48) : M Unit := do
  checkRegs (.cmpi cc skip a x)
  let p ← rdS a
  modFlags fun f => f.compare (condHolds cc p (sext64 x)) skip

def mTest (z : Bool) (skip : BitVec 2) (a : Spec) (src : Src) : M Unit := do
  checkRegs (.test z skip a src)
  let p ← rdS a
  let v ← rdSrc src
  modFlags fun f => f.compare ((p &&& v == 0) == z) skip

def mCrand (d a b : Spec) : M Unit := do
  checkRegs (.crand d a b)
  let c ← rdS a
  let k ← rdS b
  wrS d (km10 c k)

def XWidth.n : XWidth → Nat
  | .w8 => 8 | .w16 => 16 | .w32 => 32

def mSext (w : XWidth) (d a : Spec) : M Unit := unOp (.sext w d a) d a (sxLow (XWidth.n w))
def mZext (w : XWidth) (d a : Spec) : M Unit := unOp (.zext w d a) d a (zxLow (XWidth.n w))

/-! ### The meanings -/

def execNop (s : State) := runI mNop .nop s
def execAdd (m : SatMode) (o : Bin) (s : State) := runI (mAdd m o) (.add m o) s
def execSub (m : SatMode) (o : Bin) (s : State) := runI (mSub m o) (.sub m o) s
def execMul (o : Bin) (s : State) := runI (mMul o) (.mul o) s
def execMulh (u : Bool) (o : Bin) (s : State) := runI (mMulh u o) (.mulh u o) s
def execDiv (u : Bool) (o : Bin) (s : State) := runI (mDiv u o) (.div u o) s
def execRem (u : Bool) (o : Bin) (s : State) := runI (mRem u o) (.rem u o) s
def execAnd (o : Bin) (s : State) := runI (mAnd o) (.and o) s
def execOr (o : Bin) (s : State) := runI (mOr o) (.or o) s
def execXor (o : Bin) (s : State) := runI (mXor o) (.xor o) s
def execAndn (o : Bin) (s : State) := runI (mAndn o) (.andn o) s
def execShl (o : Bin) (s : State) := runI (mShl o) (.shl o) s
def execShr (o : Bin) (s : State) := runI (mShr o) (.shr o) s
def execSar (o : Bin) (s : State) := runI (mSar o) (.sar o) s
def execRotl (o : Bin) (s : State) := runI (mRotl o) (.rotl o) s
def execMin (u : Bool) (o : Bin) (s : State) := runI (mMin u o) (.min u o) s
def execMax (u : Bool) (o : Bin) (s : State) := runI (mMax u o) (.max u o) s
def execClz (d a : Spec) (s : State) := runI (mClz d a) (.clz d a) s
def execPopc (d a : Spec) (s : State) := runI (mPopc d a) (.popc d a) s
def execBfx (sx : Bool) (d a : Spec) (wm1 lo : BitVec 6) (s : State) := runI (mBfx sx d a wm1 lo) (.bfx sx d a wm1 lo) s
def execBfi (d a : Spec) (wm1 lo : BitVec 6) (s : State) := runI (mBfi d a wm1 lo) (.bfi d a wm1 lo) s
def execLi (d : Spec) (imm : Word) (s : State) := runI (mLi d imm) (.li d imm) s
def execLea (sh : BitVec 3) (d a b : Spec) (x : BitVec 48) (s : State) := runI (mLea sh d a b x) (.lea sh d a b x) s
def execSel (d a b : Spec) (s : State) := runI (mSel d a b) (.sel d a b) s
def execCmp (cc : Cond) (skip : BitVec 2) (a b : Spec) (s : State) := runI (mCmp cc skip a b) (.cmp cc skip a b) s
def execCmpi (cc : Cond) (skip : BitVec 2) (a : Spec) (x : BitVec 48) (s : State) :=
  runI (mCmpi cc skip a x) (.cmpi cc skip a x) s
def execTest (z : Bool) (skip : BitVec 2) (a : Spec) (src : Src) (s : State) :=
  runI (mTest z skip a src) (.test z skip a src) s
def execCrand (d a b : Spec) (s : State) := runI (mCrand d a b) (.crand d a b) s
def execSext (w : XWidth) (d a : Spec) (s : State) := runI (mSext w d a) (.sext w d a) s
def execZext (w : XWidth) (d a : Spec) (s : State) := runI (mZext w d a) (.zext w d a) s

end Sys2Proof.Machine
end

