-- ==== Sys2Proof/Machine/Supervisor.lean ====
section
/-!
DEFINITION. The supervisor: the mailbox, containment, pre-emption, KILL, keys, page tables, checkpoint, heat, reset and
boot (R177 to R179, R370 to R381).
-/

namespace Sys2Proof.Machine

/-! ### The mailbox (R77, R375) -/

/-- The lanes of a record: word w in lanes 2w and 2w + 1. -/
def recordRow (l : Line) : Row := l.setWidth 1024

def takeRecord (wait : Bool) (d : BitVec 4) : M Unit := do
  let k := dieOfCore (← myCore)
  match ((← get).die k).mailbox with
  | [] => if wait then throw .park else wrVn d 0
  | r :: rest =>
    modDie k fun x => { x with mailbox := rest }
    if !((← get).die k).heldRecs.isEmpty then addPending (.mailboxRecordAccept k)
    wrVn d (recordRow r)

def mMbox (d : BitVec 4) : M Unit := do
  needPrivOp 0xF0
  checkRegs (.mbox d)
  takeRecord true d
def mMboxNb (d : BitVec 4) : M Unit := do
  needPrivOp 0xF0
  checkRegs (.mboxNb d)
  takeRecord false d

/-- MAILBOX_RECORD_ACCEPT: the first held record gets its SEQ and enters the mailbox while there is room (R77).
(DESIGN CHOICE, log entry 5.) -/
def mMailboxRecordAccept (k : Nat) : M Unit := do
  let d := (← get).die k
  match d.heldRecs with
  | [] => pure ()
  | r :: rest =>
    if d.mailbox.length < 256 then
      modDie k fun x =>
        { x with heldRecs := rest, mailbox := x.mailbox ++ [setBits r 52 x.seq], seq := x.seq + 1 }
      if !rest.isEmpty then addPending (.mailboxRecordAccept k)

/-! ### Unit ids (R374) -/

namespace UnitId

def kind (u : Word) : Nat := (bits u 56 8).toNat
def index (u : Word) : Nat := (bits u 20 8).toNat
def core (u : Word) : Nat := (bits u 0 12).toNat

/-- The core is core 0 of its cluster. -/
def coreZero (k : Nat) : Bool := coreExists k && !isSupervisor k && qOfCore k == 0

/-- The link end of a bundle or port. -/
def linkEnd (u : Word) : Nat := Machine.linkEnd (unitDie u) (if kind u = 3 then index u else 16 + index u)

/-- The id is well-formed and names a unit of this chip. -/
def ok (s : State) (u : Word) : Bool :=
  let k := core u
  let i := index u
  bits u 28 28 == 0 && bits u 12 8 == s.chip &&
    match kind u with
    | 0 => i == 0 && coreExists k
    | 1 => i == 0 && coreZero k
    | 2 => decide (i ≤ 9) && coreZero k
    | 3 => decide (i < 16) && u == linkUnit s (linkEnd u)
    | 4 => decide (i < 4) && coreZero k
    | 5 => decide (i < 128) && k % 1024 == 0
    | 6 => (decide (i < 2) || (i == 2 && unitDie u % 2 == 0)) && u == linkUnit s (linkEnd u)
    | _ => false

def isLink (u : Word) : Bool := kind u == 3 || kind u == 6

/-- The number of its self-test (R375). -/
def test (u : Word) : Nat :=
  match kind u with
  | 0 | 1 => 1
  | 2 => 2
  | 4 => 4
  | _ => 3

/-- Clears the AV bit of a unit (R371, R376). -/
def unavailable (u : Word) (d : Die) : Die :=
  let c := clusterOf (core u)
  match kind u with
  | 0 => if isSupervisor (core u) then d else { d with avc := setBit d.avc (64 * crow c + 4 * ccol c + qOfCore (core u)) false }
  | 1 => { d with avs := setBit d.avs (16 * crow c + ccol c) false }
  | 4 => { d with ava := setBit d.ava (64 * crow c + 4 * ccol c + index u) false }
  | 5 => { d with avd := setBit d.avd (index u) false }
  | _ => d

end UnitId

def fencedFault {α : Type} (u : Word) : M α := fault 0x41 [u] 0 8

/-- The unit id of an operand. -/
def unitOperand (a : Spec) : M Word := do
  let u ← rdS a
  if UnitId.ok (← get) u then pure u else fencedFault u

/-! ### KILL (R229, R377) -/

/-- The context has been asked to end. (DEDUCED, log entry 42.) -/
def startKill (key : Nat) (killer : BitVec 24) : M Unit := do
  modify fun s => s.modCtx key fun c => { c with kill := c.kill.or (some killer) }
  addPending (.killCleanup key)

/-- Instructions whose work in flight completes before a save or a kill (R177). -/
def completes : Instr → Bool
  | .ld .. | .st .. | .ldv _ | .stv _ | .bld .. | .bst .. | .vrcp _ | .vrsq _ | .vsqrt _ | .vexp2 _ | .vlog2 _ => true
  | _ => false

/-- A parked instruction is to complete first: its work is in flight, or the wait it parked for has ended. -/
def Ctx.completing (c : Ctx) : Bool :=
  match c.instr with
  | some i => (completes i && c.phase != 0) || c.expired
  | none => false

/-- Work of the context in a matrix engine or an array (R177). -/
def engineWork (s : State) (key : Nat) : Bool :=
  ((s.core (s.ctx key).coreNo).matrix.queue.any fun o => o.cx == key)
    || s.clusters.any fun c => c.2.arrays.any fun a => a.2.queue.any fun o => o.cx == key

/-- The context is at an instruction boundary, or in an instruction that can be saved or abandoned (R177). -/
def atBoundary (s : State) (key : Nat) : Bool :=
  let c := s.ctx key
  !engineWork s key && (!c.completing || unitFenced s (dieOfCore c.coreNo) (coreUnit s c.coreNo))

/-- The streams of an owner. -/
def streamsOf (s : State) (key : Nat) : List (Nat × Stream) := s.streams.filter fun t => t.2.owner == key

/-- A stream breaks without poison when its owner is killed: no step from the second rotation on, and no token (R229). -/
def breakStream (id : Nat) : M Unit := do
  let s ← get
  let t := s.stream id
  if t.phase == .active then
    let b := s.rotation t.first + 2
    modStream id fun t => { t with killed := true, stopAt := some (match t.stopAt with
      | some q => Nat.min q b
      | none => b) }
    addTimer (rotationCycle s t.die b) (.waveBreak id)
  else dropStream id

/-- What an instruction that will not go on leaves behind: registrations, claims waiting, the count of a store. -/
def abandon (key : Nat) : M Unit := do
  let s ← get
  let c := s.ctx key
  let k := c.coreNo
  if c.instr.any Instr.isTrd then modify (withdraw key c.waits)
  modCore k fun x => { x with tileWait := x.tileWait.filter fun t => t.1 != key }
  modCluster (clusterOf k) fun x => { x with arrWait := x.arrWait.filter fun t => t.1 != key }
  let store := c.phase != 0 && match c.instr with
    | some (.st ..) | some (.stv _) => true
    | _ => false
  if store then modify fun s => s.modCtx key fun c => { c with ctl := { c.ctl with stq := c.ctl.stq - 1 } }

/-- The copy of step 4 of R377 goes to the live parent, where R76 delivers it at an instruction boundary.
(DEDUCED, log entry 56.) -/
def tellParent (key : Nat) (killer : BitVec 24) : M Unit := do
  let s ← get
  let c := s.ctx key
  match c.creator.parent with
  | none => pure ()
  | some pk =>
    let p := s.ctx pk
    if p.live && p.cxid == c.creator.parentCxid then
      let f : FaultRec :=
        { code := 0x4F, info := [killer.setWidth 64, c.thread.setWidth 64, c.cxid.setWidth 64], src := 8 }
      modify fun s => s.modCtx pk fun p => { p with notices := p.notices ++ [f] }

/-- A report that waits for the current context is delivered by R76 once ANN = 0 (R67): it enters the handler, or it is
posted and the context becomes faulted. (DEDUCED, log entry 56.) -/
def deliverNotice (s : State) : State :=
  let c := s.me
  match c.notices with
  | [] => s
  | f :: rest =>
    if c.flags.ann ≠ 0 || !(c.run == .ready || (c.run == .parked && c.instr.isNone)) then s
    else
      let s := s.modMe fun c => { c with notices := rest }
      takeException [f] s

/-- KILL_CLEANUP (R377). -/
def mKillCleanup (key : Nat) : M Unit := do
  let s ← get
  let c := s.ctx key
  match c.kill with
  | none => pure ()
  | some killer =>
    if !c.live then pure ()
    else
      let k := c.coreNo
      let task := s.cores.find? fun x => x.2.taskRows.any fun t => t.2.cx == key
      if (c.place == .transit && task.isNone) || !atBoundary s key then keepPending (.killCleanup key)
      else
        abandon key
        modify fun s => s.modCtx key fun c => { c.settle with run := .ended }
        let s ← get
        if (s.ctx key).ctl.stq ≠ 0 || s.marks.any (fun m => m.cx == key) then keepPending (.killCleanup key)
        else
          -- the row of a task that was not dispatched is drained (R341)
          match task with
          | some (q, x) => x.taskRows.forM fun t => if t.2.cx = key then modCore q fun x => Core.taskLeaves x t.1 else pure ()
          | none => pure ()
          releaseClaims key
          leaveBarrier key
          modify (flushL1 k fun l => l.own && l.cxid == c.cxid)
          disableRegion key
          (streamsOf s key).forM fun t => breakStream t.1
          match c.creator.status with
          | some va => fillWord (dieOfCore k) c.asid va 2 (engineThread s (dieOfCore k)) true
          | none => pure ()
          match c.group with
          | some g => modGroup g fun g => { g with failed := true }
          | none => pure ()
          modify fun s => postCtx (s.ctx key) { code := 0x4F, info := [killer.setWidth 64], src := 8 } s
          tellParent key killer
          endContext key

/-! ### Context names (R373, R375) -/

/-- The live context that a name names, for PREEMPT, RESUME and KILL: one whose QUIT has passed its checks has ended
(R377). -/
def namedLive (s : State) (x : Word) : Option Nat :=
  if bits x 28 36 ≠ 0 || bits x 20 8 ≠ s.chip then none
  else match cxidKey s (bits x 0 20) with
    | some key =>
      let c := s.ctx key
      if c.quitting then none else some key
    | none => none

def setT (t : Bool) : M Unit := modFlags fun f => { f with t }

def mKill (a : Spec) : M Unit := do
  needPrivOp 0xF5
  checkRegs (.kill a)
  let x ← rdS a
  match namedLive (← get) x with
  | none => setT false
  | some key =>
    startKill key (← me).thread
    setT true

/-! ### PREEMPT and CONTEXT_SAVE (R177, R178) -/

/-- DEDUCED, log entry 55: RESUME of a context that is neither pre-empted nor faulted does nothing and sets T := 1;
a faulted context without sC goes on in its slot; PREEMPT of a stream's owner also pre-empts its streams; a task in
its row is pre-empted once it has been dispatched. -/
def mPreempt (a : Spec) : M Unit := do
  needPrivOp 0xF3
  checkRegs (.preempt a)
  if (← phase) = 0 then
    let x ← rdS a
    match namedLive (← get) x with
    | none =>
      setT false
      return
    | some key =>
      modify fun s => s.modCtx key fun c => { c with preempt := true }
      addPending (.contextSave key)
      (streamsOf (← get) key).forM fun t => requestCkpt t.1
      modMe fun c => { c with held := [BitVec.ofNat 64 key] }
      setPhase 1
  let c := (← get).ctx ((← me).held.getD 0 0).toNat
  parkUnless (!c.preempt || !c.live)
  setT true

/-- Rotations left of the wait that an instruction is in; at least 1 while it has not ended. -/
def rotationsLeft (s : State) (c : Ctx) : Nat :=
  match c.until_ with
  | none => 0
  | some t =>
    let left := (t - (s.die (dieOfCore c.coreNo)).resetAt) / 16 - s.rotation c.coreNo
    Nat.max 1 (if c.instr.any Instr.isSleep then left else left - 1)

/-- The registers and bookkeeping of a context as the image holds them (R137, R177 to R179).
(DESIGN CHOICE, log entry 50.) -/
def Ctx.saved (s : State) (c : Ctx) (core : Nat) : Ctx :=
  let waits := c.instr.any fun i => Instr.isTrd i || Instr.isSleep i || Instr.isBarq i
  let again := c.instr.any fun i => match i with
    | .tclaim .. | .aclaim _ | .align _ => true
    | _ => waits
  { c with
    place := .saved core, preempt := false, image := true, entry := true
    run := if c.run = .sleeping then .parked else c.run
    remain := if waits && c.phase != 0 then rotationsLeft s c else c.remain
    phase := if again then 0 else c.phase
    waits := if c.instr.any Instr.isTrd then [] else c.waits
    pages := []
    until_ := if again then none else c.until_ }

/-- Bit of the barrier of its cluster that a resident context holds. -/
def holdsBarrier (s : State) (c : Ctx) : Bool :=
  match c.place with
  | .slot k n => (s.cluster (clusterOf k)).barrier.holds (memberBit k n) c.cxid
  | _ => false

/-- A context as it is saved at a core, with the tile images that it has already and those of the tiles it holds
(R178, R237). -/
def savedImage (s : State) (key k : Nat) : Ctx :=
  let c := Ctx.saved s (s.ctx key) k
  { c with savedTiles := c.savedTiles ++ (s.core k).tiles.filter fun t => t.cx == key && !t.wave }

/-- Leaves the slot with its image, which is written to the spill area (R178, R237, R306). -/
def saveContext (key k slot : Nat) : M Unit := do
  abandon key
  let s ← get
  let c := s.ctx key
  [.sleepExpiry key, .alignTimeout key, .waitLimitExpiry key, .barqTimeout key].forM delTimer
  modify (flushL1 k fun l => l.own && l.cxid == c.cxid)
  let image := savedImage (← get) key k
  let _ ← saveParts k key image.savedParts
  modify fun s => s.setCtx key { image with slotLeft := if holdsBarrier s c then some slot else none }
  modCore k fun x => { x with tiles := x.tiles.filter (fun t => t.cx != key || t.wave), slots := x.slots.del slot }
  addPending (.dispatch k)

/-- CONTEXT_SAVE: once the work in flight is settled and the spill area has room (R177, R178).
(DESIGN CHOICE, log entry 50.) -/
def mContextSave (key : Nat) : M Unit := do
  let s ← get
  let c := s.ctx key
  if !c.live || !c.preempt then pure ()
  else
    let k := c.coreNo
    let image := savedImage s key k
    let room := (withParts s k key image.savedParts).isSome
    let leave : M Unit := do
      let _ ← saveParts k key image.savedParts
      modCore k fun x => x.unlist key
      modify fun s => s.setCtx key image
      addPending (.dispatch k)
      lookAtSpill k
    match c.place with
    | .slot k n => if atBoundary s key && room then saveContext key k n else keepPending (.contextSave key)
    | .queued _ | .spilled _ => if room then leave else keepPending (.contextSave key)
    | .saved _ => modify fun s => s.modCtx key fun c => { c with preempt := false }
    | _ => keepPending (.contextSave key)

/-! ### RESUME (R55, R179, R375) -/

/-- The slot after the unit at the PC of a context. -/
def unitAfter (s : State) (c : Ctx) : Pc :=
  let two := match peek s c.coreNo c.asid c.pc with
    | some t => LineWord.pair (homeLine s t.e (t.pa c.pc)) (bits c.pc 0 3).toNat
    | none => false
  seqNext (if two then seqNext c.pc else c.pc)

/-- The context holds claims or a membership that tie it to its core (R375). -/
def tied (s : State) (key : Nat) : Bool :=
  let c := s.ctx key
  !c.savedTiles.isEmpty || c.slotLeft.isSome || holdsBarrier s c || !(claimedArrays s key).isEmpty
    || (s.core c.coreNo).tiles.any fun t => t.cx == key

/-- The context goes to the core named, or to the one where it was saved, as an arrival; a faulted one that is in its
slot goes on there when no core is named (R375). Its next unit is an entry to its line (R54). -/
def sendResumed (key : Nat) (to_ : Option Nat) : M Unit := do
  let s ← get
  let c := s.ctx key
  let k := c.coreNo
  modify fun s => s.modCtx key fun c =>
    { c with run := if c.run = .faulted then .ready else c.run, faults := [], entry := true, arrival := false }
  let travel (dst : Nat) : M Unit := do
    modify fun s => s.modCtx key fun c => { c with place := .transit }
    if dst = k then sendArrival key k nobody 0 k else sendAway key k dst
  match c.place with
  | .slot _ n =>
    -- it goes on in its slot when no core is named
    match to_ with
    | some dst =>
      if !c.priv then
        saveContext key k n
        travel dst
    | none => pure ()
  | .saved _ =>
    if c.priv then
      -- a privileged context is never queued or spilled (R370)
      let slot := (freeSlots s k).head?
      match slot with
      | some n =>
        modify fun s => s.modCtx key fun c => { c with lineCount := 0 }
        occupy k n key
      | none => throw .park
    else travel (to_.getD k)
  | _ => pure ()
  (streamsOf (← get) key).forM fun t => if t.2.phase == .preempted then addPending (.streamResume t.1) else pure ()

/-- DEDUCED, log entry 55: RESUME of a context that is neither pre-empted nor faulted does nothing and sets T := 1;
a faulted context without sC goes on in its slot; PREEMPT of a stream's owner also pre-empts its streams; a task in
its row is pre-empted once it has been dispatched. -/
def mResume (skip wr : Bool) (a b c : Spec) : M Unit := do
  needPrivOp 0xF4
  checkRegs (.resume skip wr a b c)
  let x ← rdS a
  let y ← rdS b
  let z ← rdS c
  let s ← get
  match namedLive s x with
  | none => setT false
  | some key =>
    let t := s.ctx key
    let saved := match t.place with
      | .saved _ => true
      | _ => false
    if !saved && t.run ≠ .faulted then setT true
    else
      let dst := (bits z 0 12).toNat
      let stay := c == .s 0
      if !stay && (bits z 20 44 ≠ 0 || !namesCore (bits z 0 20) || isSupervisor dst || bits z 12 8 ≠ s.chip) then
        taskFault 0x38 [z, 0]
      if !stay && dst ≠ t.coreNo && (tied s key || t.priv) then taskFault 0x38 [z, 0]
      if saved then restoreFrom t.coreNo key
      if wr then modify fun s => s.modCtx key fun t => t.putS 1 y
      if skip then
        abandon key
        modify fun s => s.modCtx key fun t =>
          { t.settle with pc := unitAfter s t, run := t.run, entry := true, remain := 0 }
      if saved then
        let c := (← get).ctx key
        let _ ← saveParts c.coreNo key c.savedParts
      sendResumed key (if stay then none else some dst)
      setT true

/-! ### Containment (R376) -/

/-- Brings a link end back into service: it trains, unless the key of its port is gone (R365, R378). -/
def restartLink (l : Nat) : M Unit := do
  let s ← get
  let keyed := linkKeyed s l
  (linkEnds l).forM fun e => modLink e fun k => { k with lst := if keyed then 1 else 0, failed := 0 }
  if keyed then addPending (.linkTrainingComplete l (s.link l).rev)

/-- Step 1 and the kills of step 2; a context whose QUIT has passed its status fill has quit (R377).
(DESIGN CHOICE, log entry 62.) -/
def fenceUnit (u : Word) (killer : BitVec 24) : M Unit := do
  let s ← get
  let d := unitDie u
  if !(s.die d).fenced.contains u then
    modDie d fun x => { x with fenced := x.fenced ++ [u] }
    if UnitId.isLink u then
      (linkEnds (UnitId.linkEnd u)).forM fun e => modLink e fun k => { k with lst := 4 }
      resendPackets (UnitId.linkEnd u)
    if UnitId.kind u = 0 then
      (s.core (UnitId.core u)).slots.forM fun x => do
        if (s.ctx x.2).quitting then finishQuit x.2
        else
          modify fun s => postCtx (s.ctx x.2) { code := 0x41, info := [u], src := 8 } s
          startKill x.2 killer

/-- The unit is unfenced; a lasting one stays as it is. -/
def unfenceUnit (u : Word) : M Unit := do
  let d := unitDie u
  let x := (← get).die d
  if x.fenced.contains u && !x.lasting.contains u then
    modDie d fun x => { x with fenced := x.fenced.filter (· != u) }
    if UnitId.isLink u then restartLink (UnitId.linkEnd u)

def mFenceu (a : Spec) : M Unit := do
  needPrivOp 0xF1
  checkRegs (.fenceu a)
  let u ← unitOperand a
  fenceUnit u (← me).thread
def mFenceuUn (a : Spec) : M Unit := do
  needPrivOp 0xF1
  checkRegs (.fenceuUn a)
  unfenceUnit (← unitOperand a)

def mStest (d a : Spec) : M Unit := do
  needPrivOp 0xF2
  checkRegs (.stest d a)
  stage 0 do
    let u ← unitOperand a
    if !((← get).die (unitDie u)).fenced.contains u then fencedFault u
    let op ← openOp .other false
    addWait op
    modMe fun c => { c with held := [u] }
    addPending (.selfTestComplete u.toNat)
  let as ← waitAnswers
  wrS d ((as.getD 0 {}).words.getD 0 0)

/-- Answers the self-tests of a unit that contexts wait for. -/
def answerTests (u r : Word) : M Unit := do
  (← get).ctxs.forM fun p => do
    let c := p.2
    let mine := c.held.head? == some u && match c.instr with
      | some (.stest _ _) => true
      | _ => false
    if mine then c.waits.forM fun op => modify fun s => s.modCtx p.1 fun c =>
      if (c.opens.find op).isSome then { c.closeOp op with answers := c.answers.put op { words := [r] } } else c

/-- A context waits in STEST for the self-test of a unit. -/
def Ctx.testing (c : Ctx) (u : Word) : Bool :=
  c.live && c.held.head? == some u && c.waits.any (fun op => (c.opens.find op).isSome) && match c.instr with
    | some (.stest _ _) => true
    | _ => false

/-- SELF_TEST_COMPLETE: steps 3 and 4; whether the unit passes is a free choice. A test that a STEST waits for ends even
when the unit was unfenced in the meantime; a unit that fails is fenced for good. (DEDUCED, log entry 110.) -/
def mSelfTestComplete (un : Nat) : M Unit := do
  let u : Word := BitVec.ofNat 64 un
  let s ← get
  let d := unitDie u
  if ((s.die d).fenced.contains u || s.ctxs.any fun p => p.2.testing u) && UnitId.ok s u then
    let pass := !(s.die d).lasting.contains u && Config.freeBool (← draw)
    if pass then
      unfenceUnit u
      if UnitId.kind u = 0 then modCore (UnitId.core u) fun k => { k with badRows := [] }
      answerTests u 0
    else
      let n : Word := BitVec.ofNat 64 (UnitId.test u)
      answerTests u n
      if !(s.die d).lasting.contains u then
        modDie d fun x => UnitId.unavailable u
          { x with fenced := x.fenced.filter (· != u) ++ [u], lasting := x.lasting ++ [u] }
        if UnitId.isLink u then (linkEnds (UnitId.linkEnd u)).forM fun e => modLink e fun k => { k with lst := 5 }
        modify (postUnit d (UnitId.core u) { code := 0x42, info := [u, n], src := 8 })
        if UnitId.kind u = 1 then
          let home := clusterOf (UnitId.core u)
          s.waiters.forM fun w => do
            if w.2.home = home then
              modify fun s => { s with waiters := s.waiters.del w.1 }
              reply w.2.pkt home [{ code := 0x41, info := [u], taddr := w.2.pkt.va, src := 8 }] [] [] false

/-- UNIT_ERROR_DETECT: hardware fences a unit, reports it and tests it (R376). -/
def mUnitErrorDetect (un : Nat) : M Unit := do
  let u : Word := BitVec.ofNat 64 un
  let s ← get
  let d := unitDie u
  if UnitId.ok s u && !(s.die d).fenced.contains u then
    modify (postUnit d (UnitId.core u) { code := 0x41, info := [u], src := 8 })
    fenceUnit u (engineThread s d)
    addPending (.selfTestComplete un)

/-! ### Keys and the alarm (R378) -/

/-- KEYZ on a die: links lose their keys and go down, encrypted stacks can no longer be read.
(DESIGN CHOICE, log entry 58.) -/
def eraseKeys (d : Nat) (m : BitVec 3) : M Unit := do
  modDie d fun x =>
    { x with
      keyG := x.keyG && !bitAt m 0, keyP := x.keyP && !bitAt m 1, keyD := x.keyD && !bitAt m 2
      dramLost := x.dramLost || (x.keyD && bitAt m 2) }
  let down (ix : Nat) : M Unit := modLink (linkEnd d ix) fun k => { k with lst := 0 }
  if bitAt m 0 then down 18
  if bitAt m 1 then
    down 16
    down 17

/-- DEDUCED, log entry 65: a cancelled key makes the stacks that it encrypted read as uncorrectable from then on. -/
def mKeyz (m : BitVec 3) : M Unit := do
  needPrivOp 0xF7
  eraseKeys (dieOfCore (← myCore)) m

/-- Every core, slice and port of the die halts, but for the supervisor core. (DESIGN CHOICE, log entry 58.) -/
def haltDie (d : Nat) : M Unit := do
  modDie d fun x => { x with halted := true }
  [16, 17, 18].forM fun ix => modLink (linkEnd d ix) fun k => { k with lst := 0 }

/-- DESIGN CHOICE, log entry 9: the outside world is data in State: events (alarm, heat, unit errors, resets, boot)
in `inputs`, boot images in `images`, packets of other chips and the host in `portIn`. -/
def mSecurityAlarm (d src : Nat) : M Unit := do
  if 8 ≤ src && src ≤ 12 && d < 4 then
    modDie d fun x => { x with alarm := setBit x.alarm src true }
    modify (postUnit d (d * 1024 + 1023) { code := 0x48, info := [BitVec.ofNat 64 src], src := 8 })
    let pol := bits ((← get).die d).alarm 0 2
    if pol = 1 then haltDie d
    else if pol = 2 then
      eraseKeys d 7
      haltDie d

/-! ### Page tables (R118, R122, R375) -/

/-- DEDUCED, log entry 60: MAPW that unmaps or moves fill-once pages, by their own entry or by a table above it, reports
the conflicts of their locations. -/
def mMapw (a b c : Spec) : M Unit := do
  needPrivOp 0xF8
  checkRegs (.mapw a b c)
  let pa := (← rdS a).toNat
  let lo ← rdS b
  let hi ← rdS c
  if pa % 16 ≠ 0 then fault 0x19 [BitVec.ofNat 64 pa, 16]
  stage 0 do
    if (← get).here pa then mapwHere (clusterOf (← myCore)) pa (hi ++ lo)
    else askChip { kind := .order, pa, words := [Order.word .mapw, lo, hi] } (chipOf pa)
  let _ ← waitAnswers

def tlbi (k : TlbiScope) (i : Instr) (a b : Spec) : M Unit := do
  needPrivOp 0xF9
  checkRegs i
  let asid : BitVec 16 := (← rdS a).setWidth 16
  let va : Pc := (← rdS b).setWidth 56
  stage 0 (invalidateFar .order k asid va)
  modify (dropCached k asid va)
  parkUnless (!walksFor (← get) k asid va)
  let _ ← waitAnswers

def mTlbi (a b : Spec) : M Unit := tlbi .page (.tlbi a b) a b
def mTlbiAs (a b : Spec) : M Unit := tlbi .asid (.tlbiAs a b) a b
def mTlbiAll (a b : Spec) : M Unit := tlbi .all (.tlbiAll a b) a b

/-! ### CKPT (R380) -/

/-- The address space is quiescent. -/
def quiescent (s : State) (asid : BitVec 16) : Bool :=
  let mine (k : Nat) : Bool := (s.ctx k).asid == asid
  (s.ctxs.all fun p => !p.2.live || p.2.asid != asid || p.2.wave.isSome || (p.2.ctl.stq == 0 && match p.2.place with
      | .queued _ | .spilled _ | .saved _ => true
      | _ => false))
    && !(s.marks.any fun m => mine m.cx) && !(s.streams.any fun t => t.2.phase != .preempted && mine t.2.owner)
    && !(s.clusters.any fun c => c.2.copies.any fun o => mine o.cx)

/-- The tables of the lowest `n` levels under a table, itself among them. -/
def tablesFrom (s : State) (t : Nat) : Nat → List Nat
  | 0 => []
  | lv + 1 => t :: (listedEntries s t 1024 16).flatMap fun k =>
      let e := s.entryAt t k
      if !s.here t || !Leaf.valid e || Leaf.leaf e || !tableOk e then [] else tablesFrom s (nextTable e) lv

/-- The root tables of an address space on the dies of the chip. -/
def rootsOf (s : State) (asid : BitVec 16) : List Nat :=
  (((List.range 4).map fun d => rootAt s d asid).eraseDups).filterMap fun a =>
    let w := s.readWord a
    if bitAt w 0 then some ((bits w 26 38).toNat * 16384 % 2 ^ 48) else none

/-- The places of a page: its base and size, or the pieces of a row-local one (R318). -/
def LeafAt.places (l : LeafAt) : List (Nat × Nat) :=
  if Leaf.const l.e then []
  else if Leaf.rowLocal l.e then (List.range 256).map fun k => (Leaf.place l.e (256 * k), 256)
  else [(Leaf.pa l.e, 2 ^ l.size)]

/-- What CKPT streams of memory: pages, metadata regions, page tables and spill images of the address space that lie in
the memory of this package, as first byte and size. (DESIGN CHOICE, log entry 57.) -/
def ckptRanges (s : State) (asid : BitVec 16) : List (Nat × Nat) :=
  let roots := rootsOf s asid
  let leaves := roots.flatMap fun t => leavesFrom s t 0 4
  (leaves.flatMap LeafAt.places).filter (fun r => s.here r.1)
    ++ (leaves.filterMap fun l => if Leaf.lattice l.e && !Leaf.const l.e && s.here (Leaf.pa l.e) then some (Leaf.moff l.e, metaBytes l.e l.size) else none)
    ++ ((roots.flatMap fun t => tablesFrom s t 4).eraseDups.map fun t => (t, 16384))
    ++ s.cores.flatMap fun k => k.2.spillMap.filterMap fun p =>
        if (s.ctx p.key).asid = asid then some ((spillArea s k.1).1 + p.off, p.size) else none

/-- The state of the launch queues of an address space: base and next record of each die (R327). -/
def ckptQueues (s : State) (asid : BitVec 16) : List Word :=
  s.dies.flatMap fun d => if d.2.lqasid = asid then [d.2.lqbase.setWidth 64, BitVec.ofNat 64 d.2.nextRec] else []

/-- CKPT (R380): the bytes sent are those of the ranges and of the queue words. (DESIGN CHOICE, log entry 57.) -/
def mCkpt (d a b : Spec) : M Unit := do
  needPrivOp 0xF6
  checkRegs (.ckpt d a b)
  let asid : BitVec 16 := (← rdS a).setWidth 16
  let store ← rdS b
  let s ← get
  parkUnless (quiescent s asid && [0, 2].any fun e => (s.link (linkEnd e 18)).up)
  let ranges := ckptRanges s asid
  let queues := ckptQueues s asid
  let sent (c : Host.Cell) : Bool := ranges.any fun r => decide (dramOf r.1 ≤ c.1) && decide (c.1 < dramOf r.1 + r.2)
  modify fun s => { s with hostOut := s.hostOut ++ [{ store, cells := s.mem.filter sent, queues }] }
  wrS d (BitVec.ofNat 64 ((ranges.map (·.2)).sum + 8 * queues.length))

/-! ### Heat (R253, R256, R381) -/

/-- The cores of a die that State lists. -/
def coresOf (s : State) (d : Nat) : List Nat := (s.cores.map (·.1)).filter fun k => dieOfCore k == d

/-- The streams that heat pre-empted go on; those of a pre-empted owner wait for its RESUME. -/
def resumeStreams (d : Nat) : M Unit := do
  let s ← get
  s.streams.forM fun t => do
    let away := match (s.ctx t.2.owner).place with
      | .saved _ => true
      | _ => (s.ctx t.2.owner).preempt
    if t.2.die = d ∧ t.2.phase = .preempted ∧ !away then addPending (.streamResume t.1)

/-- The sensor of a die reads `t`: above TLIM, THR is set and the engines are held back; 5 °C below it, they are freed. The
limit is the TLIM of the moment, so a new TLIM is compared with the last reading at once (R381).
(DEDUCED, log entry 64.) -/
def readSensor (d t : Nat) : M Unit := do
  let s ← get
  let x := s.die d
  let t := t % 2 ^ 16
  modDie d fun x => { x with dtemp := BitVec.ofNat 16 t }
  if x.tlim.toNat < t && !x.thr then
    modDie d fun x => { x with thr := true }
    (coresOf s d).forM fun k => coolEngine k
    s.streams.forM fun t => if t.2.die = d ∧ t.2.wmma ∧ t.2.underWay then requestCkpt t.1 else pure ()
  else if t + 20 ≤ x.tlim.toNat && x.thr then
    modDie d fun x => { x with thr := false }
    (coresOf s d).forM fun k => coolEngine k
    resumeStreams d

def mThermalThrottle (d t : Nat) : M Unit := readSensor d t
def mThrottleRelease (d t : Nat) : M Unit := readSensor d t

/-! ### Reset of a die, and boot (R379) -/

/-- DIE_RESET: once the die is out of the ring, its contexts are killed; then its state is that of reset.
(DESIGN CHOICE, log entry 58.) -/
def mDieReset (d : Nat) : M Unit := do
  let s ← get
  let x := s.die d
  let live := s.ctxs.filter fun p => p.2.live && p.2.wave.isNone && dieOfCore p.2.coreNo == d && p.2.place != .transit
  if d < 4 then
    if !x.holdtr || !x.drained then keepPending (.dieReset d)
    else if !live.isEmpty then
      live.forM fun p => if p.2.kill.isNone then startKill p.1 (engineThread s d) else pure ()
      keepPending (.dieReset d)
    else
      s.streams.forM fun t => if t.2.die = d then dropStream t.1 else pure ()
      (List.range 16).forM fun l => (linkEnds (linkEnd d l)).forM fun e => modLink e fun k => { k with lst := 0 }
      let base : Die := {}
      modify fun s =>
        { s.setDie d { base with resetAt := s.cycle, down := true } with
          cores := s.cores.filter fun c => dieOfCore c.1 != d
          clusters := s.clusters.filter fun c => c.1 / 160 != d }

/-- The way by which a die gets its boot image is open: Gweblink for dies 0 and 2; for dies 1 and 3 their lower neighbour,
which has booted, and a bundle of the edge between them (R379). (DESIGN CHOICE, log entry 58.) -/
def imageArrives (s : State) (d : Nat) : Bool :=
  let open_ (l : Nat) : Bool := !unitFenced s (linkDie l) (linkUnit s l)
  if d % 2 = 0 then open_ (linkEnd d 18)
  else (s.die (d - 1)).booted && !(s.die (d - 1)).down && (List.range 8).any fun k =>
    let l := linkEnd d (8 + k)
    open_ l && open_ (linkPeer l)

/-- The privileged contexts of an image on the supervisor core (R370). -/
def bootCtx (s : State) (d : Nat) (b : BootCtx) : Ctx :=
  let k := d * 1024 + 1023
  { live := true, chip := s.chip, cxid := b.cxid, asid := b.asid, priv := true, pc := b.pc
    ident := identOf s k b.slot 0 b.cxid, place := .slot k b.slot }

/-- BOOT: an image that verifies is loaded and the cores are enabled; one that does not is discarded and reported on the
sideband (R379).
(DESIGN CHOICE, log entry 7.) (DESIGN CHOICE, log entry 9.) (DESIGN CHOICE, log entry 58.) -/
def mBoot (d : Nat) : M Unit := do
  let s ← get
  match s.images.find d with
  | none => pure ()
  | some im =>
   if !imageArrives s d then keepPending (.boot d)
   else
    modify fun s => { s with images := s.images.del d }
    let n ← draw
    if d < 4 && !(s.die d).booted && Config.imageValid n then
      let k := d * 1024 + 1023
      modify fun s => { s with mem := im.mem.foldl (fun m c => Memory.set m c.1 c.2) s.mem }
      modDie d fun x =>
        { x with
          crtb := im.crtb &&& crtbMask, alarm := setBits x.alarm 0 (if im.pol == 3 then 2 else im.pol)
          lqbase := im.lqbase &&& ~~~0xFF, lqasid := im.lqasid, sptb := (im.sptb.setWidth 52).setWidth 64
          astb := (im.astb.setWidth 52).setWidth 64, keyG := true, keyP := true, keyD := true, dramLost := false, halted := false, down := false
          booted := true }
      im.ctxs.forM fun b => do
        let c := bootCtx (← get) d b
        modify fun s => s.setCtx b.cxid.toNat c
        modCore k fun x => { x with slots := x.slots.put b.slot b.cxid.toNat }
      (List.range 19).forM fun l => do
        if ((← get).link (linkEnd d l)).lst == 0 && (l < 18 || d % 2 == 0) then restartLink (linkEnd d l)
      addPending (.launchRecordTake d)
    else if d < 4 && !(s.die d).booted then modify fun s => { s with sideband := s.sideband ++ [d] }

/-! ### The meanings -/

def execMbox (d : BitVec 4) (s : State) := runI (mMbox d) (.mbox d) s
def execMboxNb (d : BitVec 4) (s : State) := runI (mMboxNb d) (.mboxNb d) s
def execFenceu (a : Spec) (s : State) := runI (mFenceu a) (.fenceu a) s
def execFenceuUn (a : Spec) (s : State) := runI (mFenceuUn a) (.fenceuUn a) s
def execStest (d a : Spec) (s : State) := runI (mStest d a) (.stest d a) s
def execPreempt (a : Spec) (s : State) := runI (mPreempt a) (.preempt a) s
def execResume (skip wr : Bool) (a b c : Spec) (s : State) := runI (mResume skip wr a b c) (.resume skip wr a b c) s
def execKill (a : Spec) (s : State) := runI (mKill a) (.kill a) s
def execCkpt (d a b : Spec) (s : State) := runI (mCkpt d a b) (.ckpt d a b) s
def execKeyz (m : BitVec 3) (s : State) := runI (mKeyz m) (.keyz m) s
def execMapw (a b c : Spec) (s : State) := runI (mMapw a b c) (.mapw a b c) s
def execTlbi (a b : Spec) (s : State) := runI (mTlbi a b) (.tlbi a b) s
def execTlbiAs (a b : Spec) (s : State) := runI (mTlbiAs a b) (.tlbiAs a b) s
def execTlbiAll (a b : Spec) (s : State) := runI (mTlbiAll a b) (.tlbiAll a b) s
def execMailboxRecordAccept (die : Nat) (s : State) := runE (mMailboxRecordAccept die) s
def execContextSave (cx : Nat) (s : State) := runE (mContextSave cx) s
def execKillCleanup (cx : Nat) (s : State) := runE (mKillCleanup cx) s
def execUnitErrorDetect (unit : Nat) (s : State) := runE (mUnitErrorDetect unit) s
def execSelfTestComplete (unit : Nat) (s : State) := runE (mSelfTestComplete unit) s
def execSecurityAlarm (die src : Nat) (s : State) := runE (mSecurityAlarm die src) s
def execThermalThrottle (die temp : Nat) (s : State) := runE (mThermalThrottle die temp) s
def execThrottleRelease (die temp : Nat) (s : State) := runE (mThrottleRelease die temp) s
def execDieReset (die : Nat) (s : State) := runE (mDieReset die) s
def execBoot (die : Nat) (s : State) := runE (mBoot die) s

end Sys2Proof.Machine
end

