-- ==== Sys2Proof/Machine/Meaning.lean ====
section
/-!
DEFINITION. The meaning of each instruction and event as pseudocode, for the units that run it inside a pair, a wave
step or a resumption; exec runs the same definitions.
-/

namespace Sys2Proof.Machine

/-- The pseudocode of an instruction or event; the three steps that run other instructions have theirs in Issue. -/
def meaning : Instr → M Unit
  | .add m o => mAdd m o
  | .sub m o => mSub m o
  | .mul o => mMul o
  | .mulh u o => mMulh u o
  | .div u o => mDiv u o
  | .rem u o => mRem u o
  | .and o => mAnd o
  | .or o => mOr o
  | .xor o => mXor o
  | .andn o => mAndn o
  | .shl o => mShl o
  | .shr o => mShr o
  | .sar o => mSar o
  | .rotl o => mRotl o
  | .min u o => mMin u o
  | .max u o => mMax u o
  | .clz d a => mClz d a
  | .popc d a => mPopc d a
  | .bfx sx d a wm1 lo => mBfx sx d a wm1 lo
  | .bfi d a wm1 lo => mBfi d a wm1 lo
  | .li d imm => mLi d imm
  | .lea sh d a b x => mLea sh d a b x
  | .sel d a b => mSel d a b
  | .cmp cc skip a b => mCmp cc skip a b
  | .cmpi cc skip a x => mCmpi cc skip a x
  | .test z skip a src => mTest z skip a src
  | .crand d a b => mCrand d a b
  | .sext w d a => mSext w d a
  | .zext w d a => mZext w d a
  | .br t => mBr t
  | .brc cc t => mBrc cc t
  | .jmp a => mJmp a
  | .call k d => mCall k d
  | .ret a => mRet a
  | .loop l1 a t => mLoop l1 a t
  | .loopq l1 q t => mLoopq l1 q t
  | .align n => mAlign n
  | .mfc d r => mMfc d r
  | .mtc r a => mMtc r a
  | .flagsWrite a => mFlagsWrite a
  | .loopCounterWrite l1 a => mLoopCounterWrite l1 a
  | .regionWrite g a => mRegionWrite g a
  | .linkStatusClear r a => mLinkStatusClear r a
  | .alarmWrite a => mAlarmWrite a
  | .holdtr a => mHoldtr a
  | .rsv d a => mRsv d a
  | .dead m => mDead m
  | .trap a n => mTrap a n
  | .sleep n => mSleep n
  | .fenceX to_ from_ => mFenceX to_ from_
  | .ld w sx d a x => mLd w sx d a x
  | .st w a b x => mSt w a b x
  | .ldv o => mLdv o
  | .stv o => mStv o
  | .spld w sx d a x => mSpld w sx d a x
  | .spst w a b x => mSpst w a b x
  | .drain rel a x => mDrain rel a x
  | .jst jt wait a b x => mJst jt wait a b x
  | .jstv jt wait a b c x => mJstv jt wait a b c x
  | .tfill wait a b tg fmt => mTfill wait a b tg fmt
  | .bump cntl wait a b x => mBump cntl wait a b x
  | .trd w trig d a x => mTrd w trig d a x
  | .xrd sx d a x => mXrd sx d a x
  | .xrdv o => mXrdv o
  | .xrdt fmt sat d a rm => mXrdt fmt sat d a rm
  | .fix a x => mFix a x
  | .fixr a b => mFixr a b
  | .pub a b => mPub a b
  | .xfer a b c => mXfer a b c
  | .vadd o => mVadd o
  | .vsub o => mVsub o
  | .vmul o => mVmul o
  | .vfma o => mVfma o
  | .vfms o => mVfms o
  | .vmin o => mVmin o
  | .vmax o => mVmax o
  | .vabs o => mVabs o
  | .vneg o => mVneg o
  | .vcmp cc o => mVcmp cc o
  | .vsel o => mVsel o
  | .vand o => mVand o
  | .vor o => mVor o
  | .vxor o => mVxor o
  | .vshl o => mVshl o
  | .vshr o => mVshr o
  | .vcvt src h o => mVcvt src h o
  | .vrcp o => mVrcp o
  | .vrsq o => mVrsq o
  | .vsqrt o => mVsqrt o
  | .vexp2 o => mVexp2 o
  | .vlog2 o => mVlog2 o
  | .vred t op d a c => mVred t op d a c
  | .vscan t sat op d a c => mVscan t sat op d a c
  | .vperm o => mVperm o
  | .vbcast t d a c lane => mVbcast t d a c lane
  | .vext t d a el => mVext t d a el
  | .vld t d a c x => mVld t d a c x
  | .vst t a b c x => mVst t a b c x
  | .vgath o => mVgath o
  | .vscat o => mVscat o
  | .vcrand hi o => mVcrand hi o
  | .mma o => mMma o
  | .mmag o => mMmag o
  | .wmma e5 ia ib nl wl d a b => mWmma e5 ia ib nl wl d a b
  | .tclaim w tile => mTclaim w tile
  | .trel w tile => mTrel w tile
  | .tzero w tile => mTzero w tile
  | .tst sat rm d o => mTst sat rm d o
  | .tld o => mTld o
  | .mhint n => mMhint n
  | .awr a b rows arr => mAwr a b rows arr
  | .avfy a b c rows arr => mAvfy a b c rows arr
  | .amvm d a arr => mAmvm d a arr
  | .acal glim scale arr => mAcal glim scale arr
  | .astat d arr => mAstat d arr
  | .aclaim arr => mAclaim arr
  | .arel arr => mArel arr
  | .bld d a x => mBld d a x
  | .bldBuf d grp arr => mBldBuf d grp arr
  | .bst a b x => mBst a b x
  | .badd d a b => mBadd d a b
  | .baddSub d a b => mBaddSub d a b
  | .bmul d a b => mBmul d a b
  | .bfma d a b => mBfma d a b
  | .bminmaxMin d a b => mBminmaxMin d a b
  | .bminmaxMax d a b => mBminmaxMax d a b
  | .bactRelu d a => mBactRelu d a
  | .bactClamp d a b => mBactClamp d a b
  | .acceptGrid i32 d a e => mAcceptGrid i32 d a e
  | .acceptRaw d a => mAcceptRaw d a
  | .bcvtF32 d a => mBcvtF32 d a
  | .bcvtI32 d a => mBcvtI32 d a
  | .bcvtBf16 d a => mBcvtBf16 d a
  | .send a b c q w => mSend a b c q w
  | .dep d a b c w => mDep d a b c w
  | .synst a b c w => mSynst a b c w
  | .synld d a c w => mSynld d a c w
  | .mcastRow a b c off w => mMcastRow a b c off w
  | .mcastQ a b c q w => mMcastQ a b c q w
  | .bara d => mBara d
  | .barw a => mBarw a
  | .barq d a => mBarq d a
  | .copy o => mCopy o
  | .copy2 o => mCopy2 o
  | .dcopy d a b => mDcopy d a b
  | .dzero d a => mDzero d a
  | .spawn d a b c child => mSpawn d a b c child
  | .migrate a mask => mMigrate a mask
  | .tdef d a b c child tag count => mTdef d a b c child tag count
  | .tdec a => mTdec a
  | .launch a => mLaunch a
  | .qcfg a q depth prod cons => mQcfg a q depth prod cons
  | .stage inq inp outq outp rep => mStage inq inp outq outp rep
  | .qeos a q => mQeos a q
  | .ldbal margin => mLdbal margin
  | .wbegin sg streamB diag d a b lines g => mWbegin sg streamB diag d a b lines g
  | .wloop l1 n t => mWloop l1 n t
  | .wjmp t => mWjmp t
  | .wbrvT t => mWbrvT t
  | .wbrvF t => mWbrvF t
  | .mbox d => mMbox d
  | .mboxNb d => mMboxNb d
  | .fenceu a => mFenceu a
  | .fenceuUn a => mFenceuUn a
  | .stest d a => mStest d a
  | .preempt a => mPreempt a
  | .resume skip wr a b c => mResume skip wr a b c
  | .kill a => mKill a
  | .ckpt d a b => mCkpt d a b
  | .keyz m => mKeyz m
  | .mapw a b c => mMapw a b c
  | .tlbi a b => mTlbi a b
  | .tlbiAs a b => mTlbiAs a b
  | .tlbiAll a b => mTlbiAll a b
  | .annulUnit _ => pure ()
  | .parkResume _ => pure ()
  | .mailboxRecordAccept die => mMailboxRecordAccept die
  | .sleepExpiry cx => mSleepExpiry cx
  | .alignTimeout cx => mAlignTimeout cx
  | .waitLimitExpiry cx => mWaitLimitExpiry cx
  | .barqTimeout cx => mBarqTimeout cx
  | .transcendentalComplete cx => mTranscendentalComplete cx
  | .pageWalkComplete walk => mPageWalkComplete walk
  | .lineRequest pkt => mLineRequest pkt
  | .lineResponse pkt => mLineResponse pkt
  | .joinApply pkt => mJoinApply pkt
  | .thresholdRegister pkt => mThresholdRegister pkt
  | .waiterRetry pkt => mWaiterRetry pkt
  | .freezeApply pkt => mFreezeApply pkt
  | .exactRead pkt => mExactRead pkt
  | .stqAcknowledge pkt => mStqAcknowledge pkt
  | .depositArrival pkt => mDepositArrival pkt
  | .directoryForward pkt => mDirectoryForward pkt
  | .forwardExpiry core cx => mForwardExpiry core cx
  | .queueEntryArrival pkt => mQueueEntryArrival pkt
  | .rowLanding pkt => mRowLanding pkt
  | .deferredLanding pkt => mDeferredLanding pkt
  | .synldRequest pkt => mSynldRequest pkt
  | .mcastDelivery pkt => mMcastDelivery pkt
  | .copyComplete op => mCopyComplete op
  | .pageOperationComplete op => mPageOperationComplete op
  | .xrdtLanding op => mXrdtLanding op
  | .bstComplete op => mBstComplete op
  | .tfillSent op => mTfillSent op
  | .matrixOpComplete core => mMatrixOpComplete core
  | .rampLevelStep core => mRampLevelStep core
  | .rampIdleDescent core => mRampIdleDescent core
  | .hintLapse core => mHintLapse core
  | .awrComplete arr => mAwrComplete arr
  | .avfyComplete arr => mAvfyComplete arr
  | .acalComplete arr => mAcalComplete arr
  | .amvmComplete arr => mAmvmComplete arr
  | .waveStreamStart st => mWaveStreamStart st
  | .waveStep _ _ => pure ()
  | .voteResult st => mVoteResult st
  | .waveBreak st => mWaveBreak st
  | .waveTokenLanding st => mWaveTokenLanding st
  | .streamResume st => mStreamResume st
  | .launchRecordTake die => mLaunchRecordTake die
  | .contextArrival pkt => mContextArrival pkt
  | .spillReturn core => mSpillReturn core
  | .dispatch core => mDispatch core
  | .taskRowDecrement pkt => mTaskRowDecrement pkt
  | .replicaAdd core q => mReplicaAdd core q
  | .replicaDiscard core q => mReplicaDiscard core q
  | .contextSave cx => mContextSave cx
  | .killCleanup cx => mKillCleanup cx
  | .packetForward pkt => mPacketForward pkt
  | .linkFlitReceive link => mLinkFlitReceive link
  | .retrain link => mRetrain link
  | .llmonWindow die => mLlmonWindow die
  | .transitDrainEnd die => mTransitDrainEnd die
  | .unitErrorDetect unit => mUnitErrorDetect unit
  | .selfTestComplete unit => mSelfTestComplete unit
  | .securityAlarm die src => mSecurityAlarm die src
  | .thermalThrottle die temp => mThermalThrottle die temp
  | .throttleRelease die temp => mThrottleRelease die temp
  | .dieReset die => mDieReset die
  | .boot die => mBoot die
  | .linkTrainingComplete link rev => mLinkTrainingComplete link rev
  | .nop => mNop
  | .rte => mRte
  | .barj => mBarj
  | .barjLeave => mBarjLeave
  | .quit => mQuit
  | .wend => mWend
  | .wvoteAnd => mWvoteAnd
  | .wvoteOr => mWvoteOr
  | .wckpt => mWckpt

end Sys2Proof.Machine
end

