-- ==== Sys2Proof/Machine/Issue.lean ====
section
/-!
DEFINITION. Issue units: fetch and entry checks, pairs, annulment, resumption of parked instructions, back edges, and the
steps of a wave (R54 to R59, R67, R71, R72, R147 to R151, R159, R176, R208 to R228).
-/

namespace Sys2Proof.Machine

/-! ### The next PC (R55, R159) -/

/-- The back edge of one loop level at the end of a unit; true when control goes back. -/
def LoopLv.edge (l : LoopLv) : LoopLv × Bool :=
  match l.queue with
  | some _ => ({ l with count := l.count + 1 }, true)
  | none =>
    if l.count - 1 ≠ 0 then ({ l with count := l.count - 1 }, true)
    else ({ l with count := l.count - 1, active := false }, false)

/-- The level ends at the unit in progress. -/
def LoopLv.endsAt (l : LoopLv) (pc : Pc) : Bool := l.active && l.stop == pc

/-- Where a context goes on after a unit: at the target of a transfer, at the start of a loop, or in sequential order. -/
def Ctx.goOn (c : Ctx) : Ctx :=
  if let some p := c.leave then { c with leave := none, xfer := false, pc := p, entry := c.entry || p != c.npc || bits p 0 3 == 0 }
  else if c.xfer then { c with xfer := false }
  else
    let (l1, back1) := if c.loop1.endsAt c.head then c.loop1.edge else (c.loop1, false)
    if back1 then { c with loop1 := l1, pc := l1.start, entry := true }
    else
      let (l0, back0) := if c.loop0.endsAt c.head then c.loop0.edge else (c.loop0, false)
      if back0 then { c with loop1 := l1, loop0 := l0, pc := l0.start, entry := true }
      else { c with loop1 := l1, loop0 := l0, pc := c.npc, entry := c.entry || bits c.npc 0 3 == 0 }

/-- The current context goes on, unless its instruction is parked, faulted or has ended it. -/
def retire (s : State) : State :=
  let c := s.me
  if c.run = .ready && c.instr.isNone then s.setMe c.goOn else s

/-- `retire` after a step that went well. -/
def retired (o : Host.Outcome State Fault Refusal) : Host.Outcome State Fault Refusal :=
  match o with
  | .next t => .next (retire t)
  | o => o

/-- The context is parked before its next unit, with no instruction in progress (R117, R150). -/
def Ctx.waitsForUnit (c : Ctx) : Bool := c.run == .parked && c.instr.isNone

/-- The outcome of the part of a unit before its instructions run: a park leaves the unit to be tried again (R8, R57). -/
def early (e : Exc) (t : State) : Host.Outcome State Fault Refusal :=
  match e with
  | .park => .next (t.modMe fun c => { c with run := .parked })
  | .eos => .next (retire (t.modMe Ctx.settle))
  | .fault fs => .next (takeException fs (t.modMe Ctx.settle))
  | .refuse r => .refused r

/-! ### Fetching a unit (R54, R55, R72) -/

/-- The line of a context: read on an entry and checked to be readable; a line of another chip is kept from then on. -/
def lineInUse (t : Tlb) (c : Ctx) : M Line := do
  let s ← get
  let here := s.here (t.pa c.pc)
  match c.code.filter fun k => !c.entry && k.1 == lineVa c.pc with
  | some k => return k.2
  | none =>
    if here && !c.entry then return homeLine s t.e (t.pa c.pc)
    else
      let l ← codeLine t c.pc
      modMe fun c => { c with code := if here then none else some (lineVa c.pc, l), waits := [], lineBuf := [] }
      return l

/-- The line at the PC, translated, and checked as a whole on an entry. A PC that is no slot faults with 0x03
(DESIGN CHOICE, log entry 78). (DESIGN CHOICE, log entry 15.) -/
def fetchLine : M Line := do
  let c ← me
  if !pcShape c.pc then fault 0x03 [c.pc.setWidth 64] c.pc
  let t ← translate .fetch c.pc
  let l ← lineInUse t c
  if c.entry then
    match lineFault l with
    | some f => raise f
    | none => pure ()
    modMe fun c => { c with entry := false, lineCount := c.lineCount + 1 }
  return l

/-- The unit at the PC of a line: its words; `head` and `npc` are set. -/
def openUnit (l : Line) : M (List W96) := do
  let c ← me
  let ws := unitWords l (bits c.pc 0 3).toNat
  modMe fun c =>
    { c with head := c.pc, npc := seqNext (if ws.length = 2 then c.pc + 1 else c.pc), xfer := false, run := .ready }
  return ws

/-- Decodes the words of a unit from a PC on (R59). -/
def decodeWords : List W96 → Pc → M (List Instr)
  | [], _ => pure []
  | x :: xs, pc => match decodeAt false x pc with
    | none => raise (badCode x pc)
    | some i => do
      let is ← decodeWords xs (pc + 1)
      return i :: is

/-- The privilege checks of a unit (R71). -/
def checkPriv : List Instr → Pc → M Unit
  | [], _ => pure ()
  | i :: is, pc => do
    match Instr.privInfo i with
    | some n => if !(← me).priv then raise { code := 0x07, info := [n], pc := some pc }
    | none => pure ()
    checkPriv is (pc + 1)

/-- The instructions of the unit at the PC (R72 steps 1 to 3). (DESIGN CHOICE, log entry 15.) -/
def fetchUnit : M (List Instr) := do
  let l ← fetchLine
  let ws ← openUnit l
  let pc := (← me).pc
  let is ← decodeWords ws pc
  checkPriv is pc
  return is

/-! ### Pairs (R57) -/

/-- The checks of one half of a pair. When they fault, neither half takes effect, but for what the failed read does to
its own register, and the fault names the half; when they park, the pair parks whole (R57, R63). -/
def halfCheck {α : Type} (s : State) (i : Instr) (pc : Pc) (m : M α) : M α :=
  tryCatch m fun e => do
    match e with
    | .fault fs =>
      set s
      tryCatch (i.srcs.forM checkRead) fun _ => pure ()
      throw (.fault (fs.map fun f => { f with pc := some pc }))
    | .park =>
      set s
      throw .park
    | e => throw e

/-- The register states of one half: reads, destinations, and the registers it reserves or kills. -/
def halfStates (i : Instr) : M Unit := do
  i.srcs.forM checkRead
  i.dsts.forM checkDst
  i.reserves.forM checkWrite

/-- An end token popped by one half of a pair: its other half still runs, and the pair then goes where the token has sent
it (R160, R349). -/
def Ctx.tokenInPair (c : Ctx) : Ctx :=
  if c.xfer then { c with leave := some c.pc, pc := c.head, xfer := false } else c

/-- The entries that one half pops; none when one of its pops delivers an end token, and the half is then over (R349). -/
def halfPops (i : Instr) : M (Option (List Word)) := do
  modMe fun c => { c with popped := [] }
  tryCatch (do popQueues i.srcs 0; return some (← me).popped) fun e => do
    match e with
    | .eos =>
      modMe Ctx.tokenInPair
      return none
    | e => throw e

/-- The room for the pushes of a half that is not over. -/
def halfRoom (i : Instr) (pops : Option (List Word)) : M Unit := whenM pops.isSome (i.dsts.forM checkRoom)

/-- The register checks of both instructions, before either writes; the entries each has popped. (DEDUCED, log entry 72.) -/
def pairChecks (a b : Instr) : M (Option (List Word) × Option (List Word)) := do
  let s ← get
  let pc := s.me.head
  let inA {α : Type} (m : M α) : M α := halfCheck s a pc m
  let inB {α : Type} (m : M α) : M α := halfCheck s b (pc + 1) m
  let states : M Unit := do
    inA (halfStates a)
    inB (halfStates b)
  let first := s.me.replicable
  whenM (!first) states
  let pa ← inA (halfPops a)
  let pb ← inB (halfPops b)
  whenM first states
  inA (halfRoom a pa)
  inB (halfRoom b pb)
  return (pa, pb)

/-- Readies one instruction of a pair: its PC, its popped entries, the registers from before the pair. -/
def Ctx.inPair (pc : Pc) (pops : List Word) (w : View) (c : Ctx) : Ctx :=
  { c with pc, popped := pops, popIx := 0, view := some w }

def Ctx.snapshot (c : Ctx) : View := { s := c.s, v := c.v, b := c.b, flags := c.flags }

/-- What the instruction that ran first leaves of its course, over what the second has done to the context. -/
def Ctx.under (first c : Ctx) : Ctx :=
  { c with
    run := first.run, pc := first.pc, xfer := first.xfer, entry := first.entry, instr := first.instr, phase := first.phase
    popped := first.popped, popIx := first.popIx, waits := first.waits, held := first.held, view := first.view
    until_ := first.until_, lineBuf := first.lineBuf, pages := first.pages, expired := first.expired, badWalk := first.badWalk
    faults := first.faults }

/-- The engine class of an instruction (R69). -/
def Instr.engine (i : Instr) : BitVec 3 := bits (encode i) 93 3

/-- An instruction after which the context is no longer in its slot. -/
def leavesSlot : Instr → Bool
  | .quit | .migrate _ _ => true
  | _ => false

/-- The two halves of a pair, one after the other, each with its PC and its popped entries; the course of the context is
that of the half that is not of class 0. -/
def runHalves (w : View) (a b : Instr × Pc × List Word) (s : State) : Host.Outcome State Fault Refusal :=
  match runI (meaning a.1) a.1 (s.modMe (Ctx.inPair a.2.1 a.2.2 w)) with
  | .next t =>
    let first := t.me
    let t := t.modMe fun c => { c with run := .ready, instr := none, phase := 0, waits := [], held := [], pages := [] }
    match runI (meaning b.1) b.1 (t.modMe (Ctx.inPair b.2.1 b.2.2 w)) with
    | .next u => .next (if Instr.engine a.1 = 0 then u else u.modMe first.under)
    | o => o
  | o => o

/-- The half of a pair whose other half an end token has ended (R349). -/
def runHalf (a : Instr × Pc × List Word) (s : State) : Host.Outcome State Fault Refusal :=
  runI (meaning a.1) a.1 (s.modMe (Ctx.inPair a.2.1 a.2.2 s.me.snapshot))

/-- A pair after its checks: both run, with the operands from before the pair; a fault or a park of one concerns it alone.
A half that an end token has ended does not run. A first half that takes the context away runs last.
(DEDUCED, log entry 59.) (DEDUCED, log entry 93.) -/
def runPair (a b : Instr) (pa pb : Option (List Word)) (s : State) : Host.Outcome State Fault Refusal :=
  let c := s.me
  match pa, pb with
  | some pa, some pb =>
    let first := (a, c.head, pa)
    let second := (b, c.head + 1, pb)
    if leavesSlot a then runHalves c.snapshot second first s else runHalves c.snapshot first second s
  | some pa, none => runHalf (a, c.head, pa) s
  | none, some pb => runHalf (b, c.head + 1, pb) s
  | none, none => .next (s.modMe Ctx.settle)

/-! ### Issuing a unit (R72, R147, R176) -/

/-- The outcome of a fetched unit; `one` runs a unit of one instruction. (DEDUCED, log entry 59.) -/
def issueUnit (one : Instr → State → Host.Outcome State Fault Refusal) (is : List Instr) (s : State) :
    Host.Outcome State Fault Refusal :=
  match is with
  | [a, b] => match (pairChecks a b).run s with
    | .ok (pa, pb) t => retired (runPair a b pa pb t)
    | .error e t => early e t
  | i :: _ => retired (one i s)
  | [] => .next s

/-- A unit that takes more positions than it has had keeps its position and waits for the next; it reads its rows where it
completes (R176). (DESIGN CHOICE, log entry 108.) -/
def forfeit (is : List Instr) (s : State) : Option State :=
  let c := s.me
  let had := (s.core c.coreNo).forfeits.getD c.slotNo 0
  if had + 1 < unitPositions s c is then
    some (s.modCore c.coreNo fun k => { k with forfeits := k.forfeits.put c.slotNo (had + 1) })
  else none

/-- The wave slot reads rows in this cycle: a stream with WMMA steps is active on the core (R176, R259). -/
def waveReads (s : State) (k : Nat) : Bool := s.streams.any fun t => t.2.has k && t.2.wmma && t.2.phase == .active

/-- The row of a core that a message of the network interface reads or writes as it lands (R176). -/
def Packet.rowRequest (p : Packet) : Option (Nat × Bool) :=
  match p.kind, p.words with
  | .row, o :: _ | .tdec, o :: _ => some (o.toNat / 128, true)
  | .synld, o :: _ => some (o.toNat / 128, false)
  | .mcast, [_, off] => some (off.toNat / 128, true)
  | _, _ => none

/-- An engine or the network interface may ask for a port of a bank of the core in this cycle: the engines through the
marks of their operations, the network interface by its landings and reads, the matrix engine for its latch and its tiles,
the wave slot for the chunks of WMMA (R176). -/
def bankBusy (s : State) (k bank : Nat) (write : Bool) : Bool :=
  (s.marks.any fun m => m.path != 0 && m.write == write && match m.unit_ with
      | .row c r => c == k && r % 3 == bank
      | .line _ => false)
    || (s.net.any fun p => p.2.dst == k && p.2.arrived && match p.2.rowRequest with
      | some (r, w) => w == write && r % 3 == bank
      | none => false)
    || (!(s.core k).taskRows.isEmpty && (s.core k).taskRows.any fun t => t.1 % 3 == bank)
    || !(s.core k).matrix.queue.isEmpty || (waveReads s k && !write)

/-- The unit may lose the arbitration of a bank: a requester that is served before the slots asks for a port of the same
bank, unless the slot has forfeited three positions in a row and the wave slot does not read (R149, R176). -/
def mayLose (is : List Instr) (s : State) : Bool :=
  let c := s.me
  (is.any fun i => (padRequests s c i).any fun r => bankBusy s c.coreNo (r.1 % 3) r.2)
    && (decide ((s.core c.coreNo).losses.getD c.slotNo 0 < 3) || waveReads s c.coreNo)

/-- The unit has lost once more. -/
def countLoss (s : State) : State :=
  let c := s.me
  s.modCore c.coreNo fun k => { k with losses := k.losses.put c.slotNo (k.losses.getD c.slotNo 0 + 1) }

def clearForfeit (s : State) : State :=
  let c := s.me
  s.modCore c.coreNo fun k => { k with forfeits := k.forfeits.del c.slotNo, losses := k.losses.del c.slotNo }

/-- The next unit of the current context issues. Whether it loses its banks to an engine is a free choice, as the cycles
of the engines are (DESIGN CHOICE, log entry 36). -/
def issueNext (one : Instr → State → Host.Outcome State Fault Refusal) (s : State) : Host.Outcome State Fault Refusal :=
  match fetchUnit.run s with
  | .error e t => early e t
  | .ok is t =>
    let may := mayLose is t
    let u := if may then { t with draws := t.draws + 1 } else t
    if may && Config.freeBool t.draws then .next (countLoss u)
    else match forfeit is u with
      | some v => .next v
      | none => issueUnit one is (clearForfeit u)

/-! ### ANNUL_UNIT (R67, R147) -/

def mAnnulUnit : M Unit := do
  let c ← me
  if c.flags.ann ≠ 0 && (c.run = .ready || c.run = .parked) && c.instr.isNone then
    let l ← fetchLine
    let _ ← openUnit l
    modFlags fun f => { f with ann := f.ann - 1 }
    modify retire

def execAnnulUnit (cx : Nat) (s : State) : Host.Outcome State Fault Refusal :=
  let s := { s with cur := cx }
  match mAnnulUnit.run s with
  | .ok _ t => .next t
  | .error e t => early e t

/-! ### PARK_RESUME (R8, R151) -/

def execParkResume (cx : Nat) (s : State) : Host.Outcome State Fault Refusal :=
  let s := { s with cur := cx }
  match s.me.instr with
  | none => .next s
  | some i => retired (runI (meaning i) i s)

/-! ### WAVE_STEP (R209 to R228) -/

/-- The instructions of a wave unit, with the stream PC of each. (DEDUCED, log entry 52.) -/
def runWave (pc : Pc) (is : List Instr) : M Unit := do
  modMe fun c => { c with pc, head := pc }
  match is with
  | [a, b] =>
    checkRegs a
    checkRegs b
    let w := (← me).snapshot
    modMe (Ctx.inPair pc [] w)
    meaning a
    modMe (Ctx.inPair (pc + 1) [] w)
    meaning b
  | is => is.forM meaning

/-- The code of a step's fault: anything that would park is wave-illegal (R211, R222). -/
def waveCode : Exc → BitVec 8
  | .fault (f :: _) => f.code
  | _ => 0x20

/-- Runs a step at the current wave context: the code of its fault, or none when it completes. A unit that would take
more than its one position faults when nothing else stops it (R211). -/
def stepBody (u : WStep) : M (Option (BitVec 8)) := do
  let s ← get
  let c := s.me
  if c.flags.ann ≠ 0 then
    modFlags fun f => { f with ann := f.ann - 1 }
    return none
  else
    let r ← tryCatch (do runWave u.pc u.instrs; return none) fun e => do
      match e with
      | .refuse r => throw (.refuse r)
      | e => return some (waveCode e)
    if r.isNone && decide (1 < unitPositions s c u.instrs) then
      set s
      return some 0x20
    modMe Ctx.settle
    return r

/-- The step is completed at a core (R225). -/
def stepDone (id k j : Nat) : M Unit := do
  let t := (← get).stream id
  let n : BitVec 32 := BitVec.ofNat 32 j
  modStream id fun t => { t with progress := t.progress.put k (j + 1) }
  modify fun s => s.modCtx (t.key k) fun c => { c with wave := c.wave.map fun w => { w with done := j + 1 } }
  modCore k fun c => if t.s = 0 then { c with wstepA := n } else { c with wstepB := n }

/-- The sequencers deliver step j for the first time: votes that follow it, and the fault of a sequence that has run past
its code (R216, R220). -/
def deliver (id j : Nat) : M Unit := do
  let s ← get
  let t := s.stream id
  if j = t.emitted && !t.finished then
    let t1 := Stream.advance (t.code.length + 1) t
    modStream id fun _ => t1
    if t1.voteAt = some j then addTimer (rotationCycle s t.die (t.start + t.voteStep j)) (.voteResult id)
    if t1.pastAt = some j then
      waveFault id { rot := t.rot j t.first, core := t.first, step := j, code := 0x20, past := true }

def mWaveStep (id k : Nat) : M Unit := do
  let s ← get
  let t := s.stream id
  let j := t.progress.getD k 0
  if t.phase == .active && t.has k && !t.ended.contains k && s.rotation k == t.rot j k then
    deliver id j
    let s ← get
    let t := s.stream id
    if t.executes j k then
      let bad (code : BitVec 8) : M Unit := waveFault id { rot := t.rot j k, core := k, step := j, code }
      if unitFenced s (dieOfCore k) (coreUnit s k) then bad 0x41
      else match t.steps.find j with
        | none => pure ()
        | some 0 => stepDone id k j
        | some (n + 1) => match t.code[n]? with
          | none => pure ()
          | some u =>
            modify fun s => { s with cur := t.key k }
            modMe fun c => { c with wave := c.wave.map fun w => { w with step := j } }
            match ← stepBody u with
            | none => stepDone id k j
            | some code =>
              if code = 0x40 then
                modify fun s => postUnit (dieOfCore k) k { code, info := [coreUnit s k] } s
              bad code
      let t := (← get).stream id
      if t.atCheckpoint then saveStream id
      if t.ended.length = t.cores.length then
        modStream id fun t => { t with phase := .closing }
        addTimer (rotationCycle s t.die (t.rot j k + 2)) (.waveTokenLanding id)

def execWaveStep (st core : Nat) (s : State) := runE (mWaveStep st core) s

/-! ### Positions of a core (R147, R149, R151) -/

/-- Position of the current cycle at a core (R146). -/
def position (s : State) (k : Nat) : Nat := (s.cycle - (s.die (dieOfCore k)).resetAt) % 16

/-- The die of the core is booted, not away, and not halted but for its supervisor core. -/
def coreRuns (s : State) (k : Nat) : Bool :=
  let d := s.die (dieOfCore k)
  d.booted && !d.down && (!d.halted || isSupervisor k)

/-- The core is fenced: its slots do not issue. -/
def coreFenced (s : State) (k : Nat) : Bool := unitFenced s (dieOfCore k) (coreUnit s k)

/-- What the context of a slot can do with a position. -/
inductive Turn
  | nothing
  /-- gives the position up (R164) -/
  | skip
  | annul
  | resume
  | issue
  deriving DecidableEq, Repr

/-- A context that waits for tiles to restore its images takes them first (R237). -/
def tilesBack (s : State) (key : Nat) : Bool :=
  let c := s.ctx key
  decide ((s.core c.coreNo).tiles.length + c.savedTiles.length ≤ 4)

def restoreTiles (key : Nat) (s : State) : State :=
  let c := s.ctx key
  if c.savedTiles.isEmpty then s
  else (s.modCore c.coreNo fun k => { k with tiles := k.tiles ++ c.savedTiles }).modCtx key fun c => { c with savedTiles := [] }

/-- DEDUCED, log entry 70: after SLEEP 0 a context may still use positions lent to it before its next own position.
-/
def turnOf (s : State) (key : Nat) (own : Bool) : Turn :=
  let c := s.ctx key
  if !c.live || !tilesBack s key then .nothing
  else
    let next : Turn :=
      if c.preempt || c.kill.isSome then .nothing
      else if own && c.skipOwn then .skip
      else if c.flags.ann ≠ 0 then .annul
      else .issue
    match c.run with
    | .ready => next
    | .parked | .sleeping =>
      if c.instr.isNone then next else if (c.preempt || c.kill.isSome) && !c.completing then .nothing else .resume
    | _ => .nothing

end Sys2Proof.Machine
end

