-- ==== Sys2Proof/Machine/Dispatch.lean ====
section
/-!
DEFINITION. The dispatch: one direct call of a meaning for each constructor of Instr.
-/

namespace Sys2Proof.Machine

def exec (i : Instr) (s : State) : Host.Outcome State Fault Refusal :=
  match i with
  | .add m o => Sys2Proof.Machine.execAdd m o s
  | .sub m o => Sys2Proof.Machine.execSub m o s
  | .mul o => Sys2Proof.Machine.execMul o s
  | .mulh u o => Sys2Proof.Machine.execMulh u o s
  | .div u o => Sys2Proof.Machine.execDiv u o s
  | .rem u o => Sys2Proof.Machine.execRem u o s
  | .and o => Sys2Proof.Machine.execAnd o s
  | .or o => Sys2Proof.Machine.execOr o s
  | .xor o => Sys2Proof.Machine.execXor o s
  | .andn o => Sys2Proof.Machine.execAndn o s
  | .shl o => Sys2Proof.Machine.execShl o s
  | .shr o => Sys2Proof.Machine.execShr o s
  | .sar o => Sys2Proof.Machine.execSar o s
  | .rotl o => Sys2Proof.Machine.execRotl o s
  | .min u o => Sys2Proof.Machine.execMin u o s
  | .max u o => Sys2Proof.Machine.execMax u o s
  | .clz d a => Sys2Proof.Machine.execClz d a s
  | .popc d a => Sys2Proof.Machine.execPopc d a s
  | .bfx sx d a wm1 lo => Sys2Proof.Machine.execBfx sx d a wm1 lo s
  | .bfi d a wm1 lo => Sys2Proof.Machine.execBfi d a wm1 lo s
  | .li d imm => Sys2Proof.Machine.execLi d imm s
  | .lea sh d a b x => Sys2Proof.Machine.execLea sh d a b x s
  | .sel d a b => Sys2Proof.Machine.execSel d a b s
  | .cmp cc skip a b => Sys2Proof.Machine.execCmp cc skip a b s
  | .cmpi cc skip a x => Sys2Proof.Machine.execCmpi cc skip a x s
  | .test z skip a src => Sys2Proof.Machine.execTest z skip a src s
  | .crand d a b => Sys2Proof.Machine.execCrand d a b s
  | .sext w d a => Sys2Proof.Machine.execSext w d a s
  | .zext w d a => Sys2Proof.Machine.execZext w d a s
  | .br t => Sys2Proof.Machine.execBr t s
  | .brc cc t => Sys2Proof.Machine.execBrc cc t s
  | .jmp a => Sys2Proof.Machine.execJmp a s
  | .call k d => Sys2Proof.Machine.execCall k d s
  | .ret a => Sys2Proof.Machine.execRet a s
  | .loop l1 a t => Sys2Proof.Machine.execLoop l1 a t s
  | .loopq l1 q t => Sys2Proof.Machine.execLoopq l1 q t s
  | .align n => Sys2Proof.Machine.execAlign n s
  | .mfc d r => Sys2Proof.Machine.execMfc d r s
  | .mtc r a => Sys2Proof.Machine.execMtc r a s
  | .flagsWrite a => Sys2Proof.Machine.execFlagsWrite a s
  | .loopCounterWrite l1 a => Sys2Proof.Machine.execLoopCounterWrite l1 a s
  | .regionWrite g a => Sys2Proof.Machine.execRegionWrite g a s
  | .linkStatusClear r a => Sys2Proof.Machine.execLinkStatusClear r a s
  | .alarmWrite a => Sys2Proof.Machine.execAlarmWrite a s
  | .holdtr a => Sys2Proof.Machine.execHoldtr a s
  | .rsv d a => Sys2Proof.Machine.execRsv d a s
  | .dead m => Sys2Proof.Machine.execDead m s
  | .trap a n => Sys2Proof.Machine.execTrap a n s
  | .sleep n => Sys2Proof.Machine.execSleep n s
  | .fenceX to_ from_ => Sys2Proof.Machine.execFenceX to_ from_ s
  | .ld w sx d a x => Sys2Proof.Machine.execLd w sx d a x s
  | .st w a b x => Sys2Proof.Machine.execSt w a b x s
  | .ldv o => Sys2Proof.Machine.execLdv o s
  | .stv o => Sys2Proof.Machine.execStv o s
  | .spld w sx d a x => Sys2Proof.Machine.execSpld w sx d a x s
  | .spst w a b x => Sys2Proof.Machine.execSpst w a b x s
  | .drain rel a x => Sys2Proof.Machine.execDrain rel a x s
  | .jst jt wait a b x => Sys2Proof.Machine.execJst jt wait a b x s
  | .jstv jt wait a b c x => Sys2Proof.Machine.execJstv jt wait a b c x s
  | .tfill wait a b tg fmt => Sys2Proof.Machine.execTfill wait a b tg fmt s
  | .bump cntl wait a b x => Sys2Proof.Machine.execBump cntl wait a b x s
  | .trd w trig d a x => Sys2Proof.Machine.execTrd w trig d a x s
  | .xrd sx d a x => Sys2Proof.Machine.execXrd sx d a x s
  | .xrdv o => Sys2Proof.Machine.execXrdv o s
  | .xrdt fmt sat d a rm => Sys2Proof.Machine.execXrdt fmt sat d a rm s
  | .fix a x => Sys2Proof.Machine.execFix a x s
  | .fixr a b => Sys2Proof.Machine.execFixr a b s
  | .pub a b => Sys2Proof.Machine.execPub a b s
  | .xfer a b c => Sys2Proof.Machine.execXfer a b c s
  | .vadd o => Sys2Proof.Machine.execVadd o s
  | .vsub o => Sys2Proof.Machine.execVsub o s
  | .vmul o => Sys2Proof.Machine.execVmul o s
  | .vfma o => Sys2Proof.Machine.execVfma o s
  | .vfms o => Sys2Proof.Machine.execVfms o s
  | .vmin o => Sys2Proof.Machine.execVmin o s
  | .vmax o => Sys2Proof.Machine.execVmax o s
  | .vabs o => Sys2Proof.Machine.execVabs o s
  | .vneg o => Sys2Proof.Machine.execVneg o s
  | .vcmp cc o => Sys2Proof.Machine.execVcmp cc o s
  | .vsel o => Sys2Proof.Machine.execVsel o s
  | .vand o => Sys2Proof.Machine.execVand o s
  | .vor o => Sys2Proof.Machine.execVor o s
  | .vxor o => Sys2Proof.Machine.execVxor o s
  | .vshl o => Sys2Proof.Machine.execVshl o s
  | .vshr o => Sys2Proof.Machine.execVshr o s
  | .vcvt src h o => Sys2Proof.Machine.execVcvt src h o s
  | .vrcp o => Sys2Proof.Machine.execVrcp o s
  | .vrsq o => Sys2Proof.Machine.execVrsq o s
  | .vsqrt o => Sys2Proof.Machine.execVsqrt o s
  | .vexp2 o => Sys2Proof.Machine.execVexp2 o s
  | .vlog2 o => Sys2Proof.Machine.execVlog2 o s
  | .vred t op d a c => Sys2Proof.Machine.execVred t op d a c s
  | .vscan t sat op d a c => Sys2Proof.Machine.execVscan t sat op d a c s
  | .vperm o => Sys2Proof.Machine.execVperm o s
  | .vbcast t d a c lane => Sys2Proof.Machine.execVbcast t d a c lane s
  | .vext t d a el => Sys2Proof.Machine.execVext t d a el s
  | .vld t d a c x => Sys2Proof.Machine.execVld t d a c x s
  | .vst t a b c x => Sys2Proof.Machine.execVst t a b c x s
  | .vgath o => Sys2Proof.Machine.execVgath o s
  | .vscat o => Sys2Proof.Machine.execVscat o s
  | .vcrand hi o => Sys2Proof.Machine.execVcrand hi o s
  | .mma o => Sys2Proof.Machine.execMma o s
  | .mmag o => Sys2Proof.Machine.execMmag o s
  | .wmma e5 ia ib nl wl d a b => Sys2Proof.Machine.execWmma e5 ia ib nl wl d a b s
  | .tclaim w tile => Sys2Proof.Machine.execTclaim w tile s
  | .trel w tile => Sys2Proof.Machine.execTrel w tile s
  | .tzero w tile => Sys2Proof.Machine.execTzero w tile s
  | .tst sat rm d o => Sys2Proof.Machine.execTst sat rm d o s
  | .tld o => Sys2Proof.Machine.execTld o s
  | .mhint n => Sys2Proof.Machine.execMhint n s
  | .awr a b rows arr => Sys2Proof.Machine.execAwr a b rows arr s
  | .avfy a b c rows arr => Sys2Proof.Machine.execAvfy a b c rows arr s
  | .amvm d a arr => Sys2Proof.Machine.execAmvm d a arr s
  | .acal glim scale arr => Sys2Proof.Machine.execAcal glim scale arr s
  | .astat d arr => Sys2Proof.Machine.execAstat d arr s
  | .aclaim arr => Sys2Proof.Machine.execAclaim arr s
  | .arel arr => Sys2Proof.Machine.execArel arr s
  | .bld d a x => Sys2Proof.Machine.execBld d a x s
  | .bldBuf d grp arr => Sys2Proof.Machine.execBldBuf d grp arr s
  | .bst a b x => Sys2Proof.Machine.execBst a b x s
  | .badd d a b => Sys2Proof.Machine.execBadd d a b s
  | .baddSub d a b => Sys2Proof.Machine.execBaddSub d a b s
  | .bmul d a b => Sys2Proof.Machine.execBmul d a b s
  | .bfma d a b => Sys2Proof.Machine.execBfma d a b s
  | .bminmaxMin d a b => Sys2Proof.Machine.execBminmaxMin d a b s
  | .bminmaxMax d a b => Sys2Proof.Machine.execBminmaxMax d a b s
  | .bactRelu d a => Sys2Proof.Machine.execBactRelu d a s
  | .bactClamp d a b => Sys2Proof.Machine.execBactClamp d a b s
  | .acceptGrid i32 d a e => Sys2Proof.Machine.execAcceptGrid i32 d a e s
  | .acceptRaw d a => Sys2Proof.Machine.execAcceptRaw d a s
  | .bcvtF32 d a => Sys2Proof.Machine.execBcvtF32 d a s
  | .bcvtI32 d a => Sys2Proof.Machine.execBcvtI32 d a s
  | .bcvtBf16 d a => Sys2Proof.Machine.execBcvtBf16 d a s
  | .send a b c q w => Sys2Proof.Machine.execSend a b c q w s
  | .dep d a b c w => Sys2Proof.Machine.execDep d a b c w s
  | .synst a b c w => Sys2Proof.Machine.execSynst a b c w s
  | .synld d a c w => Sys2Proof.Machine.execSynld d a c w s
  | .mcastRow a b c off w => Sys2Proof.Machine.execMcastRow a b c off w s
  | .mcastQ a b c q w => Sys2Proof.Machine.execMcastQ a b c q w s
  | .bara d => Sys2Proof.Machine.execBara d s
  | .barw a => Sys2Proof.Machine.execBarw a s
  | .barq d a => Sys2Proof.Machine.execBarq d a s
  | .copy o => Sys2Proof.Machine.execCopy o s
  | .copy2 o => Sys2Proof.Machine.execCopy2 o s
  | .dcopy d a b => Sys2Proof.Machine.execDcopy d a b s
  | .dzero d a => Sys2Proof.Machine.execDzero d a s
  | .spawn d a b c child => Sys2Proof.Machine.execSpawn d a b c child s
  | .migrate a mask => Sys2Proof.Machine.execMigrate a mask s
  | .tdef d a b c child tag count => Sys2Proof.Machine.execTdef d a b c child tag count s
  | .tdec a => Sys2Proof.Machine.execTdec a s
  | .launch a => Sys2Proof.Machine.execLaunch a s
  | .qcfg a q depth prod cons => Sys2Proof.Machine.execQcfg a q depth prod cons s
  | .stage inq inp outq outp rep => Sys2Proof.Machine.execStage inq inp outq outp rep s
  | .qeos a q => Sys2Proof.Machine.execQeos a q s
  | .ldbal margin => Sys2Proof.Machine.execLdbal margin s
  | .wbegin sg streamB diag d a b lines g => Sys2Proof.Machine.execWbegin sg streamB diag d a b lines g s
  | .wloop l1 n t => Sys2Proof.Machine.execWloop l1 n t s
  | .wjmp t => Sys2Proof.Machine.execWjmp t s
  | .wbrvT t => Sys2Proof.Machine.execWbrvT t s
  | .wbrvF t => Sys2Proof.Machine.execWbrvF t s
  | .mbox d => Sys2Proof.Machine.execMbox d s
  | .mboxNb d => Sys2Proof.Machine.execMboxNb d s
  | .fenceu a => Sys2Proof.Machine.execFenceu a s
  | .fenceuUn a => Sys2Proof.Machine.execFenceuUn a s
  | .stest d a => Sys2Proof.Machine.execStest d a s
  | .preempt a => Sys2Proof.Machine.execPreempt a s
  | .resume skip wr a b c => Sys2Proof.Machine.execResume skip wr a b c s
  | .kill a => Sys2Proof.Machine.execKill a s
  | .ckpt d a b => Sys2Proof.Machine.execCkpt d a b s
  | .keyz m => Sys2Proof.Machine.execKeyz m s
  | .mapw a b c => Sys2Proof.Machine.execMapw a b c s
  | .tlbi a b => Sys2Proof.Machine.execTlbi a b s
  | .tlbiAs a b => Sys2Proof.Machine.execTlbiAs a b s
  | .tlbiAll a b => Sys2Proof.Machine.execTlbiAll a b s
  | .annulUnit cx => Sys2Proof.Machine.execAnnulUnit cx s
  | .parkResume cx => Sys2Proof.Machine.execParkResume cx s
  | .mailboxRecordAccept die => Sys2Proof.Machine.execMailboxRecordAccept die s
  | .sleepExpiry cx => Sys2Proof.Machine.execSleepExpiry cx s
  | .alignTimeout cx => Sys2Proof.Machine.execAlignTimeout cx s
  | .waitLimitExpiry cx => Sys2Proof.Machine.execWaitLimitExpiry cx s
  | .barqTimeout cx => Sys2Proof.Machine.execBarqTimeout cx s
  | .transcendentalComplete cx => Sys2Proof.Machine.execTranscendentalComplete cx s
  | .pageWalkComplete walk => Sys2Proof.Machine.execPageWalkComplete walk s
  | .lineRequest pkt => Sys2Proof.Machine.execLineRequest pkt s
  | .lineResponse pkt => Sys2Proof.Machine.execLineResponse pkt s
  | .joinApply pkt => Sys2Proof.Machine.execJoinApply pkt s
  | .thresholdRegister pkt => Sys2Proof.Machine.execThresholdRegister pkt s
  | .waiterRetry pkt => Sys2Proof.Machine.execWaiterRetry pkt s
  | .freezeApply pkt => Sys2Proof.Machine.execFreezeApply pkt s
  | .exactRead pkt => Sys2Proof.Machine.execExactRead pkt s
  | .stqAcknowledge pkt => Sys2Proof.Machine.execStqAcknowledge pkt s
  | .depositArrival pkt => Sys2Proof.Machine.execDepositArrival pkt s
  | .directoryForward pkt => Sys2Proof.Machine.execDirectoryForward pkt s
  | .forwardExpiry core cx => Sys2Proof.Machine.execForwardExpiry core cx s
  | .queueEntryArrival pkt => Sys2Proof.Machine.execQueueEntryArrival pkt s
  | .rowLanding pkt => Sys2Proof.Machine.execRowLanding pkt s
  | .deferredLanding pkt => Sys2Proof.Machine.execDeferredLanding pkt s
  | .synldRequest pkt => Sys2Proof.Machine.execSynldRequest pkt s
  | .mcastDelivery pkt => Sys2Proof.Machine.execMcastDelivery pkt s
  | .copyComplete op => Sys2Proof.Machine.execCopyComplete op s
  | .pageOperationComplete op => Sys2Proof.Machine.execPageOperationComplete op s
  | .xrdtLanding op => Sys2Proof.Machine.execXrdtLanding op s
  | .bstComplete op => Sys2Proof.Machine.execBstComplete op s
  | .tfillSent op => Sys2Proof.Machine.execTfillSent op s
  | .matrixOpComplete core => Sys2Proof.Machine.execMatrixOpComplete core s
  | .rampLevelStep core => Sys2Proof.Machine.execRampLevelStep core s
  | .rampIdleDescent core => Sys2Proof.Machine.execRampIdleDescent core s
  | .hintLapse core => Sys2Proof.Machine.execHintLapse core s
  | .awrComplete arr => Sys2Proof.Machine.execAwrComplete arr s
  | .avfyComplete arr => Sys2Proof.Machine.execAvfyComplete arr s
  | .acalComplete arr => Sys2Proof.Machine.execAcalComplete arr s
  | .amvmComplete arr => Sys2Proof.Machine.execAmvmComplete arr s
  | .waveStreamStart st => Sys2Proof.Machine.execWaveStreamStart st s
  | .waveStep st core => Sys2Proof.Machine.execWaveStep st core s
  | .voteResult st => Sys2Proof.Machine.execVoteResult st s
  | .waveBreak st => Sys2Proof.Machine.execWaveBreak st s
  | .waveTokenLanding st => Sys2Proof.Machine.execWaveTokenLanding st s
  | .streamResume st => Sys2Proof.Machine.execStreamResume st s
  | .launchRecordTake die => Sys2Proof.Machine.execLaunchRecordTake die s
  | .contextArrival pkt => Sys2Proof.Machine.execContextArrival pkt s
  | .spillReturn core => Sys2Proof.Machine.execSpillReturn core s
  | .dispatch core => Sys2Proof.Machine.execDispatch core s
  | .taskRowDecrement pkt => Sys2Proof.Machine.execTaskRowDecrement pkt s
  | .replicaAdd core q => Sys2Proof.Machine.execReplicaAdd core q s
  | .replicaDiscard core q => Sys2Proof.Machine.execReplicaDiscard core q s
  | .contextSave cx => Sys2Proof.Machine.execContextSave cx s
  | .killCleanup cx => Sys2Proof.Machine.execKillCleanup cx s
  | .packetForward pkt => Sys2Proof.Machine.execPacketForward pkt s
  | .linkFlitReceive link => Sys2Proof.Machine.execLinkFlitReceive link s
  | .retrain link => Sys2Proof.Machine.execRetrain link s
  | .llmonWindow die => Sys2Proof.Machine.execLlmonWindow die s
  | .transitDrainEnd die => Sys2Proof.Machine.execTransitDrainEnd die s
  | .unitErrorDetect unit => Sys2Proof.Machine.execUnitErrorDetect unit s
  | .selfTestComplete unit => Sys2Proof.Machine.execSelfTestComplete unit s
  | .securityAlarm die src => Sys2Proof.Machine.execSecurityAlarm die src s
  | .thermalThrottle die temp => Sys2Proof.Machine.execThermalThrottle die temp s
  | .throttleRelease die temp => Sys2Proof.Machine.execThrottleRelease die temp s
  | .dieReset die => Sys2Proof.Machine.execDieReset die s
  | .boot die => Sys2Proof.Machine.execBoot die s
  | .linkTrainingComplete link rev => Sys2Proof.Machine.execLinkTrainingComplete link rev s
  | .nop => Sys2Proof.Machine.execNop s
  | .rte => Sys2Proof.Machine.execRte s
  | .barj => Sys2Proof.Machine.execBarj s
  | .barjLeave => Sys2Proof.Machine.execBarjLeave s
  | .quit => Sys2Proof.Machine.execQuit s
  | .wend => Sys2Proof.Machine.execWend s
  | .wvoteAnd => Sys2Proof.Machine.execWvoteAnd s
  | .wvoteOr => Sys2Proof.Machine.execWvoteOr s
  | .wckpt => Sys2Proof.Machine.execWckpt s

end Sys2Proof.Machine
end

