-- ==== Sys2Proof/Machine/Sched.lean ====
section
/-!
DEFINITION. What acts next: the cycle, its timers, the positions of the cores, events and inputs (R3, R31, R146, R147).
-/

namespace Sys2Proof.Machine

/-! ### The clock (R3, R146, R361) -/

/-- The cores that have something to issue. -/
def busyCores (s : State) : List Nat := (s.cores.filter fun k => !k.2.slots.isEmpty || !k.2.waveSlots.isEmpty).map (·.1)

/-- The dies whose load monitor ends a window at a cycle. -/
def windowsAt (s : State) (now : Nat) : List Instr :=
  (List.range 4).filterMap fun d =>
    if (s.die d).booted ∧ (now - (s.die d).resetAt) % 1024 = 0 then some (.llmonWindow d) else none

/-- In every cycle ALIGN looks at the siblings of its context (R161). -/
def alignWatch (s : State) : State :=
  let looks (key : Nat) (c : Ctx) : Bool := c.run == .sleeping && c.phase != 0 && match c.instr with
    | some (.align n) => alignFree s key n.toNat
    | _ => false
  { s with ctxs := s.ctxs.map fun p => if looks p.1 p.2 then (p.1, { p.2 with expired := true }) else p }

/-- The next cycle: the timers that fall due in it, and a position at every core. -/
def tick (s : State) : State :=
  let now := s.cycle + 1
  { alignWatch s with
    cycle := now, due := (s.timers.filter fun t => decide (t.1 ≤ now)).map (·.2) ++ windowsAt s now
    timers := s.timers.filter fun t => !decide (t.1 ≤ now), todo := busyCores s }

/-! ### Agents (R31) -/

/-- Who may act: an event, the outside world, a packet at a port, the next core of the cycle, or the clock. -/
inductive Agent
  | event (n : Nat)
  | input
  | port (l : Nat)
  | core
  | clock
  deriving DecidableEq, Repr

/-- The steps of the outside world (R365, R376, R378, R379, R381). (DESIGN CHOICE, log entry 9.) -/
def fromOutside : Instr → Bool
  | .unitErrorDetect _ | .securityAlarm _ _ | .thermalThrottle _ _ | .throttleRelease _ _ | .dieReset _ | .boot _
  | .retrain _ => true
  | _ => false

/-- DESIGN CHOICE, log entry 9: the outside world is data in State: events (alarm, heat, unit errors, resets, boot)
in `inputs`, boot images in `images`, packets of other chips and the host in `portIn`.
(DESIGN CHOICE, log entry 10.) (DESIGN CHOICE, log entry 62.) -/
def agents (s : State) : List Agent :=
  (List.range s.pending.length).map .event
    ++ (if s.inputs.isEmpty then [] else [.input])
    ++ ((s.portIn.filterMap (·.link)).eraseDups.map .port)
    ++ [if s.todo.isEmpty then .clock else .core]

/-- The agent that acts: the only one, or one that the arbiter picks. (DESIGN CHOICE, log entry 10.)
(DESIGN CHOICE, log entry 62.) -/
def pick (s : State) : Agent × State :=
  match agents s with
  | [a] => (a, s)
  | as => (as.getD (Config.arbiter s.draws % as.length) .clock, { s with draws := s.draws + 1 })

/-! ### The turn of a core (R147) -/

/-- A core that lends its position is entered again with this added. -/
def lentCore : Nat := 4096

/-- The slot that may use the position, and whether it is its own. -/
def slotNow (s : State) (t : Nat) : Nat × Bool :=
  let p := position s (t % lentCore)
  if t < lentCore then (p, true) else ((p + 8) % 16, false)

/-- The position goes to the opposite slot, or is spent. (DESIGN CHOICE, log entry 62.) -/
def lendOn (t : Nat) (rest : List Nat) : List Nat := if t < lentCore then (t + lentCore) :: rest else rest

/-- The current context has changed in an outcome: its unit has gone on from its Park (R8, R151). -/
def wentOn (before : Ctx) (o : Host.Outcome State Fault Refusal) : Bool :=
  match o with
  | .next u => u.me != before
  | _ => false

/-- A context whose condition does not hold lends the position (R147). -/
def stillParked (t : Nat) (rest : List Nat) (o : Host.Outcome State Fault Refusal) : Host.Outcome State Fault Refusal :=
  match o with
  | .next u => .next { u with todo := lendOn t rest }
  | o => o

/-- A unit that has had its ports ends the count of the losses of its slot (R149). -/
def endLosses (k slot : Nat) (o : Host.Outcome State Fault Refusal) : Host.Outcome State Fault Refusal :=
  match o with
  | .next u => .next (u.modCore k fun c => { c with losses := c.losses.del slot })
  | o => o

/-- The resumption of the current context: a unit of its own, which uses the position also when it parks again further on,
and asks for its ports as an issued one does (R147, R151, R176).
(DESIGN CHOICE, log entry 36.) -/
def resumeTurn (run : Instr → State → Host.Outcome State Fault Refusal) (t : Nat) (rest : List Nat) (s : State) :
    Host.Outcome State Fault Refusal :=
  let c := s.me
  let may := mayLose c.instr.toList s
  let lost := ((s.core c.coreNo).losses.find c.slotNo).isSome
  let u := if may then { s with draws := s.draws + 1 } else s
  let o := run (.parkResume s.cur) u
  if !wentOn c o then stillParked t rest o
  else if may && Config.freeBool s.draws then .next (countLoss u)
  else if lost then endLosses c.coreNo c.slotNo o
  else o

/-- After the issue of a unit at which the context was parked: while it is, it lends the position (R146, R147). -/
def afterUnitPark (t : Nat) (rest : List Nat) (o : Host.Outcome State Fault Refusal) : Host.Outcome State Fault Refusal :=
  match o with
  | .next u => if u.me.waitsForUnit then .next { u with todo := lendOn t rest } else .next u
  | o => o

/-- The turn of the first core of the cycle, with `run` for whole instructions. (DESIGN CHOICE, log entry 62.) -/
def coreTurn (run : Instr → State → Host.Outcome State Fault Refusal) (s : State) : Host.Outcome State Fault Refusal :=
  match s.todo with
  | [] => .next s
  | t :: rest =>
    let k := t % lentCore
    let (slot, own) := slotNow s t
    let core := s.core k
    let spent := { s with todo := rest }
    let lent := { s with todo := lendOn t rest }
    if !coreRuns s k then .next spent
    else match core.waveSlots.find slot with
      | some id => if own then run (.waveStep id k) spent else .next spent
      | none => match if coreFenced s k then none else core.slots.find slot with
        | none => .next lent
        | some key =>
          let cur (s : State) : State := restoreTiles key { s with cur := key }
          match turnOf s key own with
          | .nothing => .next lent
          | .skip => .next (lent.modCtx key fun c => { c with skipOwn := false })
          | .annul => run (.annulUnit key) (cur lent)
          | .resume => resumeTurn run t rest (cur spent)
          | .issue =>
            let u := deliverNotice (cur spent)
            -- a report that goes by record has made the context faulted
            if u.me.run = .faulted then .next { u with todo := lendOn t rest }
            else
              let o := issueNext run u
              if (s.ctx key).waitsForUnit then afterUnitPark t rest o else o

end Sys2Proof.Machine
end

