-- ==== Sys2Proof/Machine/Step.lean ====
section
/-!
DEFINITION. One step of the device, and the placing of one instruction where it fetches next.
-/

namespace Sys2Proof.Machine

/-- One step: an event that has fallen due, or the turn of one agent. -/
def step (s : State) : Host.Outcome State Fault Refusal :=
  match s.due with
  | i :: rest => exec i { s with due := rest }
  | [] => match pick s with
    | (.event n, t) => match t.pending[n]? with
      | some i => exec i { t with pending := t.pending.eraseIdx n }
      | none => .next t
    | (.input, t) => match t.inputs with
      | i :: rest => if fromOutside i then exec i { t with inputs := rest } else .next { t with inputs := rest }
      | [] => .next t
    | (.port l, t) => exec (.linkFlitReceive l) t
    | (.core, t) => coreTurn exec t
    | (.clock, t) => .next (tick t)

/-! ### Placing one instruction -/

/-- The core that is to run a word: the supervisor core of die 0 for a privileged instruction, or core 0. -/
def fetchCore (w : Nat) : Nat :=
  match decodeTableWord 96 w with
  | some i => if (Instr.privInfo i).isSome then 1023 else 0
  | none => 0

/-- Address, physical and virtual, of the line that holds the word. (DESIGN CHOICE, log entry 7.) -/
def fetchAt : Nat := 0x10000

/-- A line with the word in slot 0, NOPs behind it, and its parity (R51, R52). -/
def fetchLineOf (w : Nat) : Line :=
  let l : Line := (BitVec.ofNat 96 w).setWidth 512
  setBits l 480 (LineWord.parity l)

/-- An executable user page at that address. -/
def fetchTlb : Tlb :=
  { asid := 0, base := BitVec.ofNat 56 fetchAt, size := 16
    -- V, LEAF, JT PUBL, FROZENPAGE, EXEC, USER, DAM 1, PA
    e := BitVec.ofNat 128 (1 + 2 + 1 * 2 ^ 3 + 2 ^ 17 + 2 ^ 19 + 2 ^ 20 + 2 ^ 24 + 1 * 2 ^ 28) }

/-- The context that runs the word. (DESIGN CHOICE, log entry 7.) -/
def fetchCtx (k slot : Nat) : Ctx :=
  { live := true, cxid := 1, priv := isSupervisor k, pc := BitVec.ofNat 56 fetchAt, place := .slot k slot
    ident := { identOf {} k slot 0 1 with chip := 0 } }

/-- `s` with one resident context whose next unit is the word, and nothing else that could act before it.
(DESIGN CHOICE, log entry 7.) -/
def State.withFetchWord (s : State) (_nbits w : Nat) : State :=
  let k := fetchCore w
  let slot := position s k
  let t := s.writeLine fetchAt (fetchLineOf w)
  let t := t.setCtx 1 (fetchCtx k slot)
  let t := t.modCore k fun c =>
    { c with
      slots := c.slots.put slot 1, waveSlots := c.waveSlots.del slot, forfeits := c.forfeits.del slot, tlb := [fetchTlb]
      l1 := [] }
  let t := t.modDie 0 fun d => { d with booted := true, down := false, halted := false, fenced := [], dramLost := false }
  { t with due := [], pending := [], inputs := [], portIn := [], todo := [k], bad := [], cur := 1 }

end Sys2Proof.Machine
end

