-- ==== Sys2Proof/Safety.lean ====
section
/-!
DEFINITION. The terms in which claims about the machine are written: when an instruction may start, what its operands
hold, what a completed instruction leaves, and what stays as it was.
-/

namespace Sys2Proof.Machine

/-! ### Operands (R62, R63, R72) -/

def Spec.isQueue : Spec → Bool
  | .q _ => true
  | _ => false

/-- The instruction may start without a wait: it is not parked, it names no stage queue, every register that it reads is
full, and every register that it writes is full or dead (R63). Inside a pair the unit has made these checks (R57). -/
def starts (i : Instr) (s : State) : Bool :=
  let c := s.me
  c.phase == 0 && c.popped.isEmpty && i.srcs.all (fun r => !Spec.isQueue r) && i.dsts.all (fun r => !Spec.isQueue r)
    && (c.view.isSome
      || (i.srcs.all (fun r => c.regSt r == .full) && i.dsts.all fun r => c.regSt r == .full || c.regSt r == .dead))

/-- The instruction is parked, and goes on. -/
def goesOn (s : State) : Bool := s.me.phase != 0

/-- The instruction starts, or goes on after it has parked; it names no stage queue. -/
def runs (i : Instr) (s : State) : Bool :=
  i.srcs.all (fun r => !Spec.isQueue r) && i.dsts.all (fun r => !Spec.isQueue r) && (goesOn s || starts i s)

/-- Every operation that the parked instruction waits for has its answer, and none brings a fault. -/
def answered (s : State) : Bool :=
  let c := s.me
  c.waits.all (fun w => (c.opens.find w).isNone) &&
    ((c.waits.filterMap fun w => c.answers.find w).all fun a => a.faults.isEmpty)

/-- The n-th answer of those operations. -/
def State.answer (s : State) (n : Nat) : Ans := (s.me.waits.filterMap fun w => s.me.answers.find w).getD n {}

/-- A wait for STQ = 0 holds, and no earlier fault is charged to it (R75, R127). -/
def settledStores (s : State) : Bool := s.me.ctl.stq == 0 && s.me.owed.isEmpty

/-- The value of a scalar source that is no stage queue (R62). -/
def State.val (s : State) : Spec → Word
  | .s n => s.me.seen.getS n
  | .id d => s.me.ident.get d
  | .lw => (linkRead s false).setWidth 64
  | .ln => (linkRead s true).setWidth 64
  | _ => 0

/-- The value of the second source of the binary form (R60). -/
def State.srcVal (s : State) : Src → Word
  | .reg r => s.val r
  | .imm x => x.signExtend 64

/-- The lane mask that a field names: s0 means all lanes (R181). -/
def State.mask (s : State) (r : Spec) : BitVec 32 :=
  if r = .s 0 then BitVec.allOnes 32 else (s.val r).setWidth 32

/-- A link register of a wave context takes a value in its step (R212). -/
def Ctx.putLink (c : Ctx) (south : Bool) (x : Row) : Ctx :=
  { c with wave := c.wave.map fun w =>
      let put (l : List (LinkVal 1024)) : List (LinkVal 1024) :=
        ({ step := w.step, val := x } :: l.filter fun y => y.step != w.step).take 8
      if south then { w with ls := put w.ls } else { w with le := put w.le } }

/-- A scalar destination that is no stage queue takes a value: an s-register becomes full, s0 discards (R62, R63). -/
def Ctx.put (c : Ctx) (r : Spec) (x : Word) : Ctx :=
  match r with
  | .s n => c.putS n x
  | .le => c.putLink false (x.setWidth 1024)
  | .ls => c.putLink true (x.setWidth 1024)
  | _ => c

/-! ### Outcomes -/

/-- The instruction completes: it changes only the current context, by `f`, and leaves no wait behind. -/
def State.ends (s : State) (f : Ctx → Ctx) : State := s.modMe fun c => (f c).settle

/-- The network of `t` is that of `s` with one packet more. -/
def Sends (s t : State) (p : Packet → Prop) : Prop := ∃ k q, t.net = s.net.put k q ∧ p q
/-- The network of `t` holds such a packet. -/
def Holds (t : State) (p : Packet → Prop) : Prop := ∃ k q, t.net.find k = some q ∧ p q

/-- The registers of two contexts agree. -/
def SameRegs (c d : Ctx) : Prop := c.s = d.s ∧ c.v = d.v ∧ c.b = d.b

/-- A byte of memory (R112). -/
def State.byte (s : State) (a : Nat) : Byte := Memory.get s.mem a

/-- Every byte of memory and every scratchpad row, L1 line and translation of every core is as it was. -/
def SameStores (s t : State) : Prop := t.mem = s.mem ∧ t.cores = s.cores ∧ t.clusters = s.clusters ∧ t.dies = s.dies

/-- The registers, flags, control registers and loop levels of a context agree. -/
def SameArch (c d : Ctx) : Prop :=
  SameRegs c d ∧ c.flags = d.flags ∧ c.ctl = d.ctl ∧ c.loop0 = d.loop0 ∧ c.loop1 = d.loop1 ∧ c.pc = d.pc

/-- Every context but one is as it was. -/
def OthersSame (k : Nat) (s t : State) : Prop := ∀ j, j ≠ k → t.ctx j = s.ctx j

/-! ### Translations and lines (R117, R134, R169) -/

/-- A translation that the instruction in progress has kept, or else the L1 TLB of its core, serves an address for a kind
of access (R8, R117). -/
def State.maps (s : State) (k : AccKind) (va : Pc) (t : Tlb) : Bool :=
  (tlbFind s.me.pages s.me.asid va).or (tlbFind (s.core s.me.coreNo).tlb s.me.asid va) == some t && permitted s.me.priv k t.e

/-- The instruction in progress keeps the translation that served an address (R8, R151). -/
def State.keeps (s : State) (k : AccKind) (va : Pc) (t : Tlb) : State :=
  if (tlbFind s.me.pages s.me.asid va).isSome || k == .fetch then s else s.modMe fun c => { c with pages := t :: c.pages }

/-- R135 lets an access of the current context go on at once. -/
def State.pageLets (s : State) (a : PageAcc) (t : Tlb) : Bool :=
  pageRule (pageKind t.e s.me.cxid (ownerLive s (Leaf.owner t.e))) a == .yes

/-- The address lies in no metadata region (R124). -/
def State.plain (s : State) (t : Tlb) (va : Pc) : Bool := Leaf.const t.e || !inMeta s (t.pa va)

/-! ### The scratchpad (R171 to R174, R208) -/

/-- The region of an access that passes the checks of R173: `n` bytes at offset `o`, aligned to `al`. -/
def State.padRegion (s : State) (o n al : Nat) : Option Region :=
  if o % al ≠ 0 then none
  else match Machine.padRegion s s.me (o / 128) with
    | some r =>
      if r.covers ((o + (n - 1)) / 128) && (s.me.wave.isSome || r.shared || r.cxid == s.me.cxid) then some r else none
    | none => none

/-- No mark of another path and no active wave region holds the access (R36, R208). -/
def State.padOpen (s : State) (path o n : Nat) (write : Bool) : Bool :=
  (rowsOf o n).all fun r =>
    !markBlocks s (.row s.me.coreNo r) path write && (s.me.wave.isSome || !inWaveRegion s s.me.coreNo r)

/-- A shared region's rows of the access are filled (R174), and no row has an uncorrectable error. -/
def State.padFull (s : State) (g : Region) (o n : Nat) : Bool :=
  (!g.shared || (rowsOf o n).all fun r => ((s.core s.me.coreNo).fillOf r).full)
    && !(rowsOf o n).any (s.core s.me.coreNo).badRows.contains

/-! ### Code (R54, R376) -/

/-- A line of code lies in this package, its home and its channel are neither fenced nor lasting, and it is not spoilt. -/
def State.codeReady (s : State) (t : Tlb) (va : Pc) : Bool :=
  let us := lineUnits s (homeOfVa t va) (t.pa va) (Leaf.const t.e)
  s.here (t.pa va) && (firstLasting s us).isNone && !anyFenced s us && !(lineSpoilt s (t.pa va) && !Leaf.const t.e)

/-! ### Vector operands (R181 to R184, R212) -/

/-- The 32 lanes of a vector source: a register, a broadcast, a scratchpad row, or a link register. -/
def State.vec (s : State) (t : LaneT) (r : Spec) : Row :=
  match r with
  | .v n => s.me.seen.getV n
  | .s n => Row.splat (laneOf t fun _ => (s.me.seen.getS n).toNat)
  | .sp n | .spi n => (s.core s.me.coreNo).row ((s.me.seen.getS n).toNat / 128)
  | .lw => linkRead s false
  | .ln => linkRead s true
  | _ => 0

/-- What a destination that is read holds; a dead register as 0. -/
def State.vecOld (s : State) (r : Spec) : Row :=
  match r with
  | .v n => if s.me.regSt (.v n) = .dead then 0 else s.me.seen.getV n
  | .sp n | .spi n => (s.core s.me.coreNo).row ((s.me.seen.getS n).toNat / 128)
  | .le => linkOld s.me false
  | .ls => linkOld s.me true
  | _ => 0

/-- Every scratchpad operand of an instruction passes the checks of R173, R174 and R184 and waits for nothing. -/
def State.rowsReady (s : State) (mask : BitVec 32) (ops : List VOpd) : Bool :=
  ops.all fun o => match Spec.base? o.r with
    | none => true
    | some n =>
      let off := s.me.seen.getS n
      let shared (g : Region) : Bool :=
        mask == BitVec.allOnes 32
          && !ops.any (fun q => q.rd && (Spec.base? q.r).any fun m => s.me.seen.getS m == off)
          && match (s.core s.me.coreNo).fill (off.toNat / 128) 0 s.me.thread with
            | .ok _ => g.shared
            | _ => false
      match s.padRegion off.toNat 128 128 with
      | none => false
      | some g =>
        s.padOpen 0 off.toNat 128 o.wr && (!o.rd || s.padFull g off.toNat 128) && (!o.wr || !g.shared || shared g)

/-- A vector destination takes the masked lanes of `x`: a register, a link register, or a row, which a shared region takes
as a fill. -/
def State.vecPut (s : State) (d : Spec) (mask : BitVec 32) (x : Row) : State :=
  match d with
  | .v n => s.modMe fun c => c.putV n (Row.merge mask (if c.regSt (.v n) = .dead then 0 else c.getV n) x)
  | .le => s.modMe fun c => c.putLink false (Row.merge mask (linkOld c false) x)
  | .ls => s.modMe fun c => c.putLink true (Row.merge mask (linkOld c true) x)
  | .sp n | .spi n =>
    let k := s.me.coreNo
    let r := (s.me.seen.getS n).toNat / 128
    match Machine.padRegion s s.me r with
    | none => s
    | some g =>
      if g.shared then match (s.core k).fill r x s.me.thread with
        | .ok c => s.setCore k c
        | _ => s
      else s.modCore k fun c => c.setRow r (Row.merge mask (c.row r) x)
  | _ => s

/-- The post-increments of `[sN]+` operands, in order (R183). -/
def Ctx.bumped (ops : List Spec) (c : Ctx) : Ctx :=
  ops.foldl (fun c r => match r with
    | .spi n => c.putS n (c.getS n + 128)
    | _ => c) c

/-- The state after a vector instruction: its destination, then its post-increments. -/
def State.vecEnds (s : State) (d : Spec) (mask : BitVec 32) (x : Row) (ops : List Spec) : State :=
  (s.vecPut d mask x).ends (Ctx.bumped ops)

/-! ### Units of a core -/

/-- The supervisor core has no such unit. -/
def State.ordinary (s : State) : Bool := !isSupervisor s.me.coreNo

end Sys2Proof.Machine
end

