-- ==== Sys2Proof/Certificates/Slice0/Obligations.lean ====
section
/-!
DEFINITION. The statements about the model: what each instruction and each step of the device does, the exceptions, the
encodings, the whole step and its invariants. Where a clause rests on a value or behaviour that the model chose, its
docstring names the log entry.
-/

namespace Sys2Proof.Claims

open Sys2Proof.Machine

/-! ### Class 0 (R153, R154) -/

/-- Result, C and V of a class-0 instruction, from exact integers. -/
structure Alu where
  r : Word
  c : Bool := false
  v : Bool := false

/-- Outside the signed range of 64 bits. -/
def outS (x : Int) : Bool := decide (x < -2 ^ 63) || decide (2 ^ 63 ≤ x)

/-- An exact sum or difference under a mode; `u` is the unsigned one. -/
def saturated (m : SatMode) (x u : Int) (c : Bool) : Alu :=
  match m with
  | .wrap => { r := BitVec.ofInt 64 x, c, v := outS x }
  | .ss => { r := BitVec.ofInt 64 (max (-2 ^ 63) (min (2 ^ 63 - 1) x)), c, v := outS x }
  | .us => { r := BitVec.ofInt 64 (max 0 (min (2 ^ 64 - 1) u)), c, v := decide (u < 0) || decide (2 ^ 64 ≤ u) }

def add (m : SatMode) (a v : Word) : Alu :=
  saturated m (a.toInt + v.toInt) (a.toNat + v.toNat) (decide (2 ^ 64 ≤ a.toNat + v.toNat))
def sub (m : SatMode) (a v : Word) : Alu :=
  saturated m (a.toInt - v.toInt) ((a.toNat : Int) - v.toNat) (decide (a.toNat < v.toNat))
def mul (a v : Word) : Alu := { r := BitVec.ofNat 64 (a.toNat * v.toNat), v := outS (a.toInt * v.toInt) }
def mulh (u : Bool) (a v : Word) : Alu :=
  { r := if u then BitVec.ofNat 64 (a.toNat * v.toNat / 2 ^ 64) else BitVec.ofInt 64 (a.toInt * v.toInt / 2 ^ 64) }
def div (u : Bool) (a v : Word) : Alu :=
  if v = 0 then { r := BitVec.allOnes 64, v := true }
  else if u then { r := BitVec.ofNat 64 (a.toNat / v.toNat) }
  else { r := BitVec.ofInt 64 (a.toInt.tdiv v.toInt), v := outS (a.toInt.tdiv v.toInt) }
def rem (u : Bool) (a v : Word) : Alu :=
  if v = 0 then { r := a, v := true }
  else if u then { r := BitVec.ofNat 64 (a.toNat % v.toNat) }
  else { r := BitVec.ofInt 64 (a.toInt - a.toInt.tdiv v.toInt * v.toInt), v := outS (a.toInt.tdiv v.toInt) }
def min (u : Bool) (a v : Word) : Alu :=
  { r := if (if u then decide (a.toNat ≤ v.toNat) else decide (a.toInt ≤ v.toInt)) then a else v }
def max (u : Bool) (a v : Word) : Alu :=
  { r := if (if u then decide (v.toNat ≤ a.toNat) else decide (v.toInt ≤ a.toInt)) then a else v }
/-- A shift by V mod 64. -/
def shifted (f : Word → Nat → Word) (a v : Word) : Alu := { r := f a (v.toNat % 64) }

/-- The state after a binary instruction: D has the result and, with .f, Z, N, C and V are set; nothing else changes. -/
def binEnds (s : State) (o : Bin) (f : Word → Word → Alu) : State :=
  let x := f (s.val o.a) (s.srcVal o.src)
  s.ends fun c =>
    let c := c.put o.d x.r
    if o.f then { c with flags := { c.flags with z := decide (x.r = 0), n := bitAt x.r 63, c := x.c, v := x.v } } else c

/-- The binary instructions, with their results. -/
def binaries : List ((Bin → Instr) × (Word → Word → Alu)) :=
  [SatMode.wrap, .ss, .us].flatMap (fun m => [((Instr.add m ·), add m), ((Instr.sub m ·), sub m)])
    ++ [false, true].flatMap (fun u => [((Instr.mulh u ·), mulh u), ((Instr.div u ·), div u), ((Instr.rem u ·), rem u),
        ((Instr.min u ·), min u), ((Instr.max u ·), max u)])
    ++ [((Instr.mul ·), mul), ((Instr.and ·), fun a v => { r := a &&& v }), ((Instr.or ·), fun a v => { r := a ||| v }),
        ((Instr.xor ·), fun a v => { r := a ^^^ v }), ((Instr.andn ·), fun a v => { r := a &&& ~~~v }),
        ((Instr.shl ·), shifted fun a n => BitVec.ofNat 64 (a.toNat * 2 ^ n)),
        ((Instr.shr ·), shifted fun a n => BitVec.ofNat 64 (a.toNat / 2 ^ n)),
        ((Instr.sar ·), shifted fun a n => BitVec.ofInt 64 (a.toInt / 2 ^ n)),
        ((Instr.rotl ·), shifted fun a n => a <<< n ||| a >>> (64 - n))]

/-- The state after an instruction whose one effect is a value in D. -/
def wrote (s : State) (d : Spec) (x : Word) : State := s.ends fun c => c.put d x

def clz (a : Word) : Nat := ((List.range 64).find? fun k => a.getLsbD (63 - k)).getD 64
def popc (a : Word) : Nat := ((List.range 64).filter fun k => a.getLsbD k).length
/-- `w` bits of a word from bit `lo` as a signed or unsigned number. -/
def field (sx : Bool) (w lo : Nat) (a : Word) : Word :=
  let x := a.toNat / 2 ^ lo % 2 ^ w
  if sx && decide (2 ^ (w - 1) ≤ x) then BitVec.ofInt 64 ((x : Int) - 2 ^ w) else BitVec.ofNat 64 x
/-- The word `old` with `w` bits from bit `lo` replaced by the low bits of `a`. -/
def inserted (w lo : Nat) (old a : Word) : Word :=
  BitVec.ofNat 64
    (old.toNat / 2 ^ (lo + w) * 2 ^ (lo + w) + a.toNat % 2 ^ w * 2 ^ lo + old.toNat % 2 ^ lo)
def bitsOf : XWidth → Nat
  | .w8 => 8 | .w16 => 16 | .w32 => 32

/-- FLAGS after a binary instruction. -/
def flagged (f : Bool) (x : Alu) (g : Flags) : Flags :=
  if f then { g with z := decide (x.r = 0), n := bitAt x.r 63, c := x.c, v := x.v } else g

/-- The class-0 instructions that read one register and write D: their results, and whether they write flags. -/
def oneSource (a d : Spec) (f sx : Bool) (x : BitVec 48) (wm1 lo : BitVec 6) (xw : XWidth) : List (Instr × (Word → Alu) × Bool) :=
  binaries.map (fun p => (p.1 { f, d, a, src := .imm x }, fun v => p.2 v (x.signExtend 64), f))
    ++ [(.clz d a, fun v => { r := BitVec.ofNat 64 (clz v) }, false), (.popc d a, fun v => { r := BitVec.ofNat 64 (popc v) }, false),
        (.bfx sx d a wm1 lo, fun v => { r := field sx (wm1.toNat + 1) lo.toNat v }, false),
        (.sext xw d a, fun v => { r := field true (bitsOf xw) 0 v }, false),
        (.zext xw d a, fun v => { r := field false (bitsOf xw) 0 v }, false)]

def compares (cc : Cond) (a b : Word) : Bool :=
  match cc with
  | .eq => decide (a = b)
  | .ne => decide (a ≠ b)
  | .lt => decide (a.toInt < b.toInt)
  | .le => decide (a.toInt ≤ b.toInt)
  | .gt => decide (b.toInt < a.toInt)
  | .ge => decide (b.toInt ≤ a.toInt)
  | .ltu => decide (a.toNat < b.toNat)
  | .leu => decide (a.toNat ≤ b.toNat)
  | .gtu => decide (b.toNat < a.toNat)
  | .geu => decide (b.toNat ≤ a.toNat)

/-- The state after a comparison: T and ANN, and no other flag (R67). -/
def compared (s : State) (t : Bool) (skip : BitVec 2) : State :=
  s.ends fun c => { c with flags := { c.flags with t, ann := if t then 0 else skip } }

/-! ### Class 1 -/

/-- Control goes to a target, which is an entry to its line (R54, R156). -/
def goes (tgt : Pc) (c : Ctx) : Ctx := { c with pc := tgt, xfer := true, entry := true }

/-- The target passes the checks of R56 under a translation that the core holds; its line lies in this package. -/
def targetOk (s : State) (tgt : Pc) (t : Tlb) : Prop :=
  pcShape tgt = true ∧ s.maps .fetch tgt t = true ∧ s.codeReady t tgt = true ∧
    tgtBit (homeLine s t.e (t.pa tgt)) (bits tgt 0 3).toNat = true

/-- The target fails a check of R56: its shape, or under a translation that the core holds its TGT bit. -/
def targetBad (s : State) (tgt : Pc) : Prop :=
  pcShape tgt = false ∨ ∃ t, s.maps .fetch tgt t = true ∧ s.codeReady t tgt = true ∧
    tgtBit (homeLine s t.e (t.pa tgt)) (bits tgt 0 3).toNat = false

/-- The core holds the translation of the target, which does not permit a fetch (R116). -/
def targetDenied (s : State) (tgt : Pc) : Prop :=
  pcShape tgt = true ∧ ∃ t, (tlbFind s.me.pages s.me.asid tgt).or (tlbFind (s.core s.me.coreNo).tlb s.me.asid tgt) = some t ∧
    permitted s.me.priv .fetch t.e = false

/-- The convention rule (R157): what a register's state becomes under mask bits x and y. -/
def underMask (x y : Bool) (st : RegSt) : RegSt := if x && !y && st == .full then .dead else st

/-- A fault of the current context that goes to the supervisor's mailbox: one record, the context is faulted, and neither
its registers nor memory nor any core changes (R74 to R76). -/
def Records (s t : State) (f : FaultRec) : Prop :=
  let c := s.me
  let d := dieOfCore c.coreNo
  t.me.run = .faulted ∧ SameArch t.me c ∧
    (t.die d).heldRecs = (s.die d).heldRecs ++ [recordOf (recordCxid s c) c.thread (f.pc.getD c.pc) f] ∧
    t.mem = s.mem ∧ t.cores = s.cores ∧ t.net = s.net

/-- The position of a loop counter in a context. -/
def loopOf (c : Ctx) (l1 : Bool) : LoopLv := if l1 then c.loop1 else c.loop0
def withLoop (c : Ctx) (l1 : Bool) (l : LoopLv) : Ctx := if l1 then { c with loop1 := l } else { c with loop0 := l }

/-- A privileged control register needs privileged mode (R71). -/
def mayUse (s : State) (r : CReg) : Prop := s.me.priv = true ∨ CReg.access r = .rw ∨ CReg.access r = .ro

/-- The die of the current context. -/
def myDie (s : State) : Nat := dieOfCore s.me.coreNo

end Sys2Proof.Claims

open Sys2Proof Sys2Proof.Machine

/-! ## Class 0 -/

/-- R153: the sixteen binary instructions write their results to D and, with .f, Z, N, C and V; nothing else changes. -/
def Sys2Proof.Claims.ScalarBinary : Prop :=
  ∀ (w : Bool) (s : State) (o : Bin), o.wf w = true →
    (∀ m, starts (.add m o) s = true → exec (.add m o) s = .next (Claims.binEnds s o (Claims.add m))) ∧
    (∀ m, starts (.sub m o) s = true → exec (.sub m o) s = .next (Claims.binEnds s o (Claims.sub m))) ∧
    (starts (.mul o) s = true → exec (.mul o) s = .next (Claims.binEnds s o Claims.mul)) ∧
    (∀ u, starts (.mulh u o) s = true → exec (.mulh u o) s = .next (Claims.binEnds s o (Claims.mulh u))) ∧
    (∀ u, starts (.div u o) s = true → exec (.div u o) s = .next (Claims.binEnds s o (Claims.div u))) ∧
    (∀ u, starts (.rem u o) s = true → exec (.rem u o) s = .next (Claims.binEnds s o (Claims.rem u))) ∧
    (starts (.and o) s = true → exec (.and o) s = .next (Claims.binEnds s o fun a v => { r := a &&& v })) ∧
    (starts (.or o) s = true → exec (.or o) s = .next (Claims.binEnds s o fun a v => { r := a ||| v })) ∧
    (starts (.xor o) s = true → exec (.xor o) s = .next (Claims.binEnds s o fun a v => { r := a ^^^ v })) ∧
    (starts (.andn o) s = true → exec (.andn o) s = .next (Claims.binEnds s o fun a v => { r := a &&& ~~~v })) ∧
    (∀ u, starts (.min u o) s = true → exec (.min u o) s = .next (Claims.binEnds s o (Claims.min u))) ∧
    (∀ u, starts (.max u o) s = true → exec (.max u o) s = .next (Claims.binEnds s o (Claims.max u)))

/-- R153: the shifts, by V mod 64, in register and immediate form. -/
def Sys2Proof.Claims.ScalarShifts : Prop :=
  ∀ (w : Bool) (s : State) (o : Bin), o.wfShift w = true →
    (starts (.shl o) s = true →
      exec (.shl o) s = .next (Claims.binEnds s o (Claims.shifted fun a n => BitVec.ofNat 64 (a.toNat * 2 ^ n)))) ∧
    (starts (.shr o) s = true →
      exec (.shr o) s = .next (Claims.binEnds s o (Claims.shifted fun a n => BitVec.ofNat 64 (a.toNat / 2 ^ n)))) ∧
    (starts (.sar o) s = true →
      exec (.sar o) s = .next (Claims.binEnds s o (Claims.shifted fun a n => BitVec.ofInt 64 (a.toInt / 2 ^ n)))) ∧
    (starts (.rotl o) s = true →
      exec (.rotl o) s = .next (Claims.binEnds s o (Claims.shifted fun a n => a <<< n ||| a >>> (64 - n))))

/-- R153: the sixteen binary instructions write their results to D and, with .f, Z, N, C and V; nothing else changes.
R153: the shifts, by V mod 64, in register and immediate form. -/
def Obligations.ScalarBinary : Prop := Sys2Proof.Claims.ScalarBinary ∧ Sys2Proof.Claims.ScalarShifts

/-- R153: the instructions of one or two operands that write D and no flag; NOP only completes. -/
def Sys2Proof.Claims.ScalarUnary : Prop :=
  ∀ (w : Bool) (s : State),
    (exec .nop s = .next (s.ends id)) ∧
    (∀ d a, Instr.wf w (.clz d a) = true → starts (.clz d a) s = true →
      exec (.clz d a) s = .next (Claims.wrote s d (BitVec.ofNat 64 (Claims.clz (s.val a))))) ∧
    (∀ d a, Instr.wf w (.popc d a) = true → starts (.popc d a) s = true →
      exec (.popc d a) s = .next (Claims.wrote s d (BitVec.ofNat 64 (Claims.popc (s.val a))))) ∧
    (∀ sx d a wm1 lo, Instr.wf w (.bfx sx d a wm1 lo) = true → starts (.bfx sx d a wm1 lo) s = true →
      exec (.bfx sx d a wm1 lo) s =
        .next (Claims.wrote s d (Claims.field sx (wm1.toNat + 1) lo.toNat (s.val a)))) ∧
    (∀ d a wm1 lo, Instr.wf w (.bfi d a wm1 lo) = true → starts (.bfi d a wm1 lo) s = true →
      exec (.bfi d a wm1 lo) s =
        .next (Claims.wrote s d (Claims.inserted (wm1.toNat + 1) lo.toNat (s.val d) (s.val a)))) ∧
    (∀ d x, Instr.wf w (.li d x) = true → starts (.li d x) s = true → exec (.li d x) s = .next (Claims.wrote s d x)) ∧
    (∀ sh d a b x, Instr.wf w (.lea sh d a b x) = true → starts (.lea sh d a b x) s = true →
      exec (.lea sh d a b x) s =
        .next (Claims.wrote s d
          (BitVec.ofInt 64 ((s.val a).toInt + (s.val b).toInt * 2 ^ sh.toNat + x.toInt)))) ∧
    (∀ d a b, Instr.wf w (.sel d a b) = true → starts (.sel d a b) s = true →
      exec (.sel d a b) s = .next (Claims.wrote s d (if s.me.seen.flags.t then s.val a else s.val b))) ∧
    (∀ d a b, Instr.wf w (.crand d a b) = true → starts (.crand d a b) s = true →
      exec (.crand d a b) s = .next (Claims.wrote s d (km10 (s.val a) (s.val b)))) ∧
    (∀ x d a, Instr.wf w (.sext x d a) = true → starts (.sext x d a) s = true →
      exec (.sext x d a) s = .next (Claims.wrote s d (Claims.field true (Claims.bitsOf x) 0 (s.val a)))) ∧
    (∀ x d a, Instr.wf w (.zext x d a) = true → starts (.zext x d a) s = true →
      exec (.zext x d a) s = .next (Claims.wrote s d (Claims.field false (Claims.bitsOf x) 0 (s.val a))))

/-- R154, R67: CMP, CMPI and TEST write T and ANN and nothing else; condition codes 10 to 15 are reserved encodings. -/
def Sys2Proof.Claims.ScalarCompare : Prop :=
  ∀ (s : State) (skip : BitVec 2) (a : Spec),
    (∀ cc b, starts (.cmp cc skip a b) s = true →
      exec (.cmp cc skip a b) s = .next (Claims.compared s (Claims.compares cc (s.val a) (s.val b)) skip)) ∧
    (∀ cc x, starts (.cmpi cc skip a x) s = true →
      exec (.cmpi cc skip a x) s = .next (Claims.compared s (Claims.compares cc (s.val a) (x.signExtend 64)) skip)) ∧
    (∀ src, starts (.test false skip a src) s = true →
      exec (.test false skip a src) s = .next (Claims.compared s (decide (s.val a &&& s.srcVal src ≠ 0)) skip)) ∧
    (∀ src, starts (.test true skip a src) s = true →
      exec (.test true skip a src) s = .next (Claims.compared s (decide (s.val a &&& s.srcVal src = 0)) skip)) ∧
    (∀ w (g : Fields), (g.opc = 0x18 ∨ g.opc = 0x19) → 10 ≤ g.var.toNat → (decode w g.pack).toOption = none) ∧
    (decode false 0x1A1000100E00000000000000).toOption = some (.test true 0 (.s 16) (.reg (.s 14))) ∧
    (decode false 0x1890000A0F00000000000000).toOption = some (.cmp .geu 0 (.s 10) (.s 15))

/-- R153: the instructions of one or two operands that write D and no flag; NOP only completes. R154, R67: CMP, CMPI
and TEST write T and ANN and nothing else; condition codes 10 to 15 are reserved encodings. -/
def Obligations.ScalarUnary : Prop := Sys2Proof.Claims.ScalarUnary ∧ Sys2Proof.Claims.ScalarCompare

/-- R347, R349, R351: the class-0 instructions of one source pop the queue that they read and push the one that they write.
A pop of a replicable stage first restores the context to its STAGE. An end token leaves D and the queue as they are. A
pop without its entry, a replica that comes to the end token, and a push to a queue at its depth park. -/
def Sys2Proof.Claims.ScalarQueues : Prop :=
  ∀ (s : State) (j : BitVec 2) (q : StageQ) (n : BitVec 5) (f sx : Bool) (x : BitVec 48) (wm1 lo : BitVec 6) (xw : XWidth)
    (i : Instr) (res : Word → Claims.Alu) (fl : Bool),
    s.me.phase = 0 → s.me.view = none → s.me.popped = [] → s.me.popIx = 0 → Instr.wf false i = true →
    (s.core s.me.coreNo).queues.find j.toNat = some q →
    ((i, res, fl) ∈ Claims.oneSource (.q j) (.s n) f sx x wm1 lo xw →
      s.me.stage.all (fun g => !(g.rep && g.popped && !g.pushed)) = true → s.me.ofStage q q.cons = true →
      (∀ e, q.entries.find? (fun e => e.tag == q.expect && decide (e.ready ≤ s.cycle)) = some e → e.eos = false →
        ((s.me.popsTag e.tag).regSt (.s n) = .full ∨ (s.me.popsTag e.tag).regSt (.s n) = .dead) →
        ∃ t, exec i s = .next t ∧ SameRegs t.me ((s.me.popsTag e.tag).putS n (res e.val).r) ∧
          t.me.flags = Claims.flagged fl (res e.val) (s.me.popsTag e.tag).flags ∧ t.mem = s.mem ∧
          ∃ r, (t.core s.me.coreNo).queues.find j.toNat = some r ∧ r.expect = q.expect + 1 ∧
            r.entries = q.entries.filter fun x => x.tag != e.tag) ∧
      (∀ e, q.entries.find? (fun e => e.tag == q.expect && decide (e.ready ≤ s.cycle)) = some e → e.eos = true →
        s.me.ident.replica = 0 → (s.me.replicable = true ∨ s.me.regSt (.s n) = .full ∨ s.me.regSt (.s n) = .dead) →
        ∃ t, exec i s = .next t ∧ SameRegs t.me (s.me.popsTag e.tag) ∧
          t.me.flags = { (s.me.popsTag e.tag).flags with e := true } ∧ SameStores s t) ∧
      (s.me.replicable = true ∨ s.me.regSt (.s n) = .full ∨ s.me.regSt (.s n) = .dead →
        (q.entries.find? (fun e => e.tag == q.expect && decide (e.ready ≤ s.cycle)) = none ∨
          ∃ e, q.entries.find? (fun e => e.tag == q.expect && decide (e.ready ≤ s.cycle)) = some e ∧ e.eos = true ∧
            s.me.ident.replica ≠ 0) →
        exec i s = .next (s.modMe (Ctx.parkIn i)))) ∧
    ((i, res, fl) ∈ Claims.oneSource (.s n) (.q j) f sx x wm1 lo xw →
      s.me.regSt (.s n) = .full → q.sender = none → s.me.ofStage q q.prod = true →
      s.me.stage.all (fun g => !(g.rep && g.pushed)) = true →
      let key := s.me.coreNo * 4 + j.toNat
      let tag := match s.me.stage with
        | some g => if g.rep then g.tag else s.me.pushes.getD key 0
        | none => s.me.pushes.getD key 0
      ((tag - q.expect).toNat < q.depth →
        ∃ t, exec i s = .next t ∧ SameRegs t.me s.me ∧
          t.me.flags = Claims.flagged fl (res (s.me.getS n)) s.me.flags ∧ t.mem = s.mem ∧
          t.me.pushes.getD key 0 = s.me.pushes.getD key 0 + 1 ∧
          ∃ r, (t.core s.me.coreNo).queues.find j.toNat = some r ∧
            r.entries = q.entries ++ [{ tag, val := (res (s.me.getS n)).r, eos := false, ready := s.cycle + 8 }]) ∧
      (q.depth ≤ (tag - q.expect).toNat → exec i s = .next (s.modMe (Ctx.parkIn i))))

/-- R63: a read of a dead register faults with 0x05, and a write of a reserved, broken or write-protected one with 0x06; the
record is charged to the instruction, which has no effect. The instructions are those of class 0 with one source, and LI. -/
def Sys2Proof.Claims.RegisterFaults : Prop :=
  ∀ (s : State) (n m : BitVec 5) (f sx : Bool) (x : BitVec 48) (wm1 lo : BitVec 6) (xw : XWidth) (i : Instr)
    (res : Word → Claims.Alu) (fl : Bool), s.me.phase = 0 → s.me.view = none → s.me.popped = [] →
    (i, res, fl) ∈ Claims.oneSource (.s n) (.s m) f sx x wm1 lo xw →
    (s.me.regSt (.s n) = .dead →
      ∃ t, exec i s = .next t ∧ Claims.Records s t { code := 0x05, info := [n.setWidth 64], taddr := 0 }) ∧
    (s.me.regSt (.s n) = .full → ¬ (s.me.regSt (.s m) = .full ∨ s.me.regSt (.s m) = .dead) →
      ∃ t, exec i s = .next t ∧ Claims.Records s t { code := 0x06, info := [m.setWidth 64], taddr := 0 }) ∧
    (¬ (s.me.regSt (.s m) = .full ∨ s.me.regSt (.s m) = .dead) →
      ∀ x, ∃ t, exec (.li (.s m) x) s = .next t ∧ Claims.Records s t { code := 0x06, info := [m.setWidth 64], taddr := 0 })

/-- R347, R349, R351: the class-0 instructions of one source pop the queue that they read and push the one that they
write. A pop of a replicable stage first restores the context to its STAGE. An end token leaves D and the queue as they
are. A pop without its entry, a replica that comes to the end token, and a push to a queue at its depth park. R63: a
read of a dead register faults with 0x05, and a write of a reserved, broken or write-protected one with 0x06; the
record is charged to the instruction, which has no effect. That the pop of an end token counts as a pop of a replicable
stage is DEDUCED, log entry 48. -/
def Obligations.ScalarQueues : Prop := Sys2Proof.Claims.ScalarQueues ∧ Sys2Proof.Claims.RegisterFaults

/-! ## Class 1 -/

/-- R156: BR, BRC and JMP. A taken branch goes to its target once the core holds the target's translation; a condition
that does not hold falls through. Nothing else changes. -/
def Sys2Proof.Claims.Branches : Prop :=
  ∀ (s : State) (t : Tlb),
    (∀ g, Claims.targetOk s (branchTarget s.me.pc g) t →
      exec (.br g) s = .next (s.ends (Claims.goes (branchTarget s.me.pc g)))) ∧
    (∀ cc g, s.me.seen.flags.holds cc = true → Claims.targetOk s (branchTarget s.me.pc g) t →
      exec (.brc cc g) s = .next (s.ends (Claims.goes (branchTarget s.me.pc g)))) ∧
    (∀ cc g, s.me.seen.flags.holds cc = false → exec (.brc cc g) s = .next (s.ends id)) ∧
    (∀ a, starts (.jmp a) s = true → Claims.targetOk s ((s.val a).setWidth 56) t →
      exec (.jmp a) s = .next (s.ends (Claims.goes ((s.val a).setWidth 56))))

/-- R56, R116, R156: a branch to a slot of 5 to 7, to bits [5:3] that are not zero, or to an instruction without its TGT bit
faults with 0x03, and one to a page without the right to fetch with 0x10 and kind 0; neither has an effect. -/
def Sys2Proof.Claims.BranchRefused : Prop :=
  ∀ (s : State) (i : Instr) (tgt : Pc),
    ((∃ g, i = .br g ∧ tgt = branchTarget s.me.pc g) ∨
      (∃ cc g, i = .brc cc g ∧ s.me.seen.flags.holds cc = true ∧ tgt = branchTarget s.me.pc g) ∨
      (∃ a, i = .jmp a ∧ starts i s = true ∧ tgt = (s.val a).setWidth 56)) →
    (Claims.targetBad s tgt →
      ∃ u, exec i s = .next u ∧ Claims.Records s u { code := 0x03, info := [tgt.setWidth 64], taddr := tgt }) ∧
    (Claims.targetDenied s tgt →
      ∃ u, exec i s = .next u ∧ Claims.Records s u { code := 0x10, info := [tgt.setWidth 64, 0], taddr := tgt })

/-- R156: BR, BRC and JMP. A taken branch goes to its target once the core holds the target's translation; a condition
that does not hold falls through. Nothing else changes. JMP takes its target from the low 56 bits of sA (DEDUCED, log
entry 21). R56, R116, R156: a branch to a slot of 5 to 7, to bits [5:3] that are not zero, or to an instruction without its
TGT bit faults with 0x03, and one to a page without the right to fetch with 0x10; neither has an effect. -/
def Obligations.Branches : Prop := Sys2Proof.Claims.Branches ∧ Sys2Proof.Claims.BranchRefused

/-- R157: CALL and RET apply the convention masks to every full s-register and v-register; CALL writes the link register,
and both transfer control. A CALL whose target R56 refuses, and a RET to a slot of 5 to 7 or to bits [5:3] that are not
zero, fault with 0x03 and change no register. RET and the indirect CALL take their target from the low 56 bits of sA
(DEDUCED, log entry 21). -/
def Obligations.CallReturn : Prop :=
  ∀ (s : State) (t : Tlb),
    (∀ k d tgt, d ≠ 0 → starts (.call k d) s = true →
      tgt = (match k with | .direct g => branchTarget s.me.pc g | .indirect a => (s.val a).setWidth 56) →
      Claims.targetOk s tgt t →
      ∃ u, exec (.call k d) s = .next u ∧ u.me.pc = tgt ∧ u.me.xfer = true ∧
        u.me.getS d = s.me.npc.setWidth 64 ∧ u.me.regSt (.s d) = .full ∧
        (∀ n : BitVec 5, n ≠ 0 → n ≠ d → u.me.getS n = s.me.getS n ∧
          u.me.regSt (.s n) =
            Claims.underMask (bitAt s.me.ctl.cvmt n.toNat) (bitAt s.me.ctl.cvma n.toNat) (s.me.regSt (.s n))) ∧
        (∀ n : BitVec 4, u.me.getV n = s.me.getV n ∧ u.me.regSt (.v n) =
          Claims.underMask (bitAt s.me.ctl.cvmt (32 + n.toNat)) (bitAt s.me.ctl.cvma (32 + n.toNat)) (s.me.regSt (.v n))) ∧
        u.me.b = s.me.b ∧ u.me.flags = s.me.flags ∧ u.me.ctl = s.me.ctl ∧ SameStores s u) ∧
    (∀ a, starts (.ret a) s = true → pcShape ((s.val a).setWidth 56) = true →
      ∃ u, exec (.ret a) s = .next u ∧ u.me.pc = (s.val a).setWidth 56 ∧ u.me.xfer = true ∧
        (∀ n : BitVec 5, n ≠ 0 → u.me.getS n = s.me.getS n ∧
          u.me.regSt (.s n) =
            Claims.underMask (bitAt s.me.ctl.cvmt n.toNat) (bitAt s.me.ctl.cvmr n.toNat) (s.me.regSt (.s n))) ∧
        (∀ n : BitVec 4, u.me.getV n = s.me.getV n ∧ u.me.regSt (.v n) =
          Claims.underMask (bitAt s.me.ctl.cvmt (32 + n.toNat)) (bitAt s.me.ctl.cvmr (32 + n.toNat)) (s.me.regSt (.v n))) ∧
        u.me.b = s.me.b ∧ u.me.flags = s.me.flags ∧ u.me.ctl = s.me.ctl ∧ SameStores s u) ∧
    (∀ k d tgt, starts (.call k d) s = true →
      tgt = (match k with | .direct g => branchTarget s.me.pc g | .indirect a => (s.val a).setWidth 56) →
      Claims.targetBad s tgt →
      ∃ u, exec (.call k d) s = .next u ∧ Claims.Records s u { code := 0x03, info := [tgt.setWidth 64], taddr := tgt }) ∧
    (∀ a, starts (.ret a) s = true → pcShape ((s.val a).setWidth 56) = false →
      ∃ u, exec (.ret a) s = .next u ∧
        Claims.Records s u { code := 0x03, info := [((s.val a).setWidth 56).setWidth 64], taddr := (s.val a).setWidth 56 })

/-- R158, R55: LOOP and LOOPQ set their level; LOOP with a count of 0 goes to the slot after the unit at the end, which is
an entry unless it is the next slot of the line. -/
def Sys2Proof.Claims.LoopStart : Prop :=
  ∀ (s : State) (l1 : Bool) (g : Tgt),
    (∀ a, starts (.loop l1 a g) s = true → s.val a ≠ 0 →
      exec (.loop l1 a g) s = .next (s.ends fun c => Claims.withLoop c l1
        { count := s.val a, start := c.npc, stop := branchTarget c.pc g, active := true, queue := none })) ∧
    (∀ a, starts (.loop l1 a g) s = true → s.val a = 0 →
      ∃ t, exec (.loop l1 a g) s = .next t ∧ t.me.pc = afterUnit s (branchTarget s.me.pc g) ∧ t.me.xfer = true ∧
        t.me.entry = (s.me.entry || t.me.pc != s.me.npc || bits t.me.pc 0 3 == 0) ∧
        (Claims.loopOf t.me l1).active = false ∧ SameRegs t.me s.me ∧ t.me.flags = s.me.flags ∧ SameStores s t) ∧
    (∀ q, exec (.loopq l1 q g) s = .next (s.ends fun c => { Claims.withLoop c l1
        { count := 0, start := c.npc, stop := branchTarget c.pc g, active := true, queue := some q } with
        flags := { c.flags with e := false } }))

/-- What the end of a unit makes of a loop level that ends there: LOOP counts down and ends at 1, LOOPQ counts up and goes
on; none when the level does not end at the unit. -/
def Sys2Proof.Claims.turned (l : LoopLv) (pc : Pc) : Option (LoopLv × Bool) :=
  if !l.active || l.stop != pc then none
  else if l.queue.isSome then some ({ l with count := l.count + 1 }, true)
  else if l.count = 1 then some ({ l with count := 0, active := false }, false)
  else some ({ l with count := l.count - 1 }, true)

/-- R159: the back edges at the end of a unit that has not transferred control, level 1 before level 0: of either level alone,
of level 0 after level 1 has ended, and the last iterations; a unit that ends no level goes on in sequential order, and one
that has transferred control stays where it went. -/
def Sys2Proof.Claims.BackEdge : Prop :=
  ∀ c : Ctx, c.leave = none →
    (c.xfer = true → c.goOn = { c with xfer := false }) ∧
    (c.xfer = false → ∀ l, Claims.turned c.loop1 c.head = some (l, true) →
      c.goOn = { c with loop1 := l, pc := c.loop1.start, entry := true }) ∧
    (c.xfer = false → Claims.turned c.loop1 c.head = none → ∀ l, Claims.turned c.loop0 c.head = some (l, true) →
      c.goOn = { c with loop0 := l, pc := c.loop0.start, entry := true }) ∧
    (c.xfer = false → ∀ l m, Claims.turned c.loop1 c.head = some (l, false) → Claims.turned c.loop0 c.head = some (m, true) →
      c.goOn = { c with loop1 := l, loop0 := m, pc := c.loop0.start, entry := true }) ∧
    (c.xfer = false → (∀ l, Claims.turned c.loop1 c.head ≠ some (l, true)) → (∀ m, Claims.turned c.loop0 c.head ≠ some (m, true)) →
      c.goOn = { c with
        loop1 := ((Claims.turned c.loop1 c.head).map (·.1)).getD c.loop1
        loop0 := ((Claims.turned c.loop0 c.head).map (·.1)).getD c.loop0
        pc := c.npc, entry := c.entry || bits c.npc 0 3 == 0 })

/-- R160, R349: an instruction that pops the end token of the queue of an active LOOPQ level, level 1 before level 0, ends the
level and goes to the slot after the unit at its end; with no such level it goes on. FLAGS.E is set. -/
def Sys2Proof.Claims.EndToken : Prop :=
  ∀ (s : State) (j : BitVec 2) (q : StageQ) (n : BitVec 5) (e : QEntry) (f sx : Bool) (x : BitVec 48) (wm1 lo : BitVec 6)
    (xw : XWidth) (i : Instr) (res : Word → Claims.Alu) (fl : Bool),
    s.me.phase = 0 → s.me.view = none → s.me.popped = [] → s.me.popIx = 0 → s.me.replicable = false →
    (s.me.regSt (.s n) = .full ∨ s.me.regSt (.s n) = .dead) →
    (s.core s.me.coreNo).queues.find j.toNat = some q → s.me.ofStage q q.cons = true → s.me.ident.replica = 0 →
    q.entries.find? (fun e => e.tag == q.expect && decide (e.ready ≤ s.cycle)) = some e → e.eos = true →
    (i, res, fl) ∈ Claims.oneSource (.q j) (.s n) f sx x wm1 lo xw →
    ∃ t, exec i s = .next t ∧ t.me.flags = { s.me.flags with e := true } ∧ SameRegs t.me s.me ∧
      let goes (l : LoopLv) : Prop := t.me.pc = afterUnit s l.stop ∧ t.me.xfer = true
      ((s.me.loop1.active = true ∧ s.me.loop1.queue = some j) →
        goes s.me.loop1 ∧ t.me.loop1 = { s.me.loop1 with active := false } ∧ t.me.loop0 = s.me.loop0) ∧
      (¬ (s.me.loop1.active = true ∧ s.me.loop1.queue = some j) → s.me.loop0.active = true ∧ s.me.loop0.queue = some j →
        goes s.me.loop0 ∧ t.me.loop0 = { s.me.loop0 with active := false } ∧ t.me.loop1 = s.me.loop1) ∧
      (¬ (s.me.loop1.active = true ∧ s.me.loop1.queue = some j) → ¬ (s.me.loop0.active = true ∧ s.me.loop0.queue = some j) →
        t.me.pc = s.me.pc ∧ t.me.xfer = s.me.xfer ∧ t.me.loop0 = s.me.loop0 ∧ t.me.loop1 = s.me.loop1)

/-- R158, R55: LOOP and LOOPQ set their level; LOOP with a count of 0 goes to the slot after the unit at the end,
which is an entry unless it is the next slot of the line; that unit's line is looked up without a wait (DEDUCED, log entry
23). R159: the back edges at the end of a unit that has not transferred control, level 1 before level 0: of either level
alone, of level 0 after level 1 has ended, and the last iterations; a unit that ends no level goes on in sequential order,
and one that has transferred control stays where it went. R160, R349: an instruction that pops the end token of the queue
of an active LOOPQ level ends the level and goes to the slot after the unit at its end. -/
def Obligations.BackEdge : Prop := Sys2Proof.Claims.LoopStart ∧ Sys2Proof.Claims.BackEdge ∧ Sys2Proof.Claims.EndToken

/-- R161, R164: ALIGN goes on at once with no sibling behind it; SLEEP 0 gives up the next own position; SLEEP n parks
until the first cycle of rotation t + n; the two expiries let their context go on, which then completes. -/
def Sys2Proof.Claims.Spacing : Prop :=
  ∀ s : State,
    (∀ n, s.me.phase = 1 → (s.me.expired = true ∨ alignFree s s.cur n.toNat = true) →
      ∃ t, exec (.align n) s = .next t ∧ t.me = s.me.settle ∧ SameStores s t) ∧
    (∀ n, s.me.phase = 0 → (∀ p ∈ s.ctxs, p.1 ≠ s.cur →
        p.2.group ≠ s.me.group ∨ p.2.group = none ∨ p.2.alignPc ≠ some s.me.pc) →
      ∃ t, exec (.align n) s = .next t ∧ SameArch t.me s.me ∧ t.me.instr = none ∧ SameStores s t) ∧
    (exec (.sleep 0) s = .next (s.ends fun c => { c with skipOwn := true })) ∧
    (∀ n, n ≠ 0 → s.me.phase = 0 → s.me.remain = 0 →
      ∃ t at_, exec (.sleep n) s = .next t ∧ t.me.run = .sleeping ∧ t.me.instr = some (.sleep n) ∧
        at_ = (s.die (Claims.myDie s)).resetAt + (s.rotation s.me.coreNo + n.toNat) * 16 ∧
        t.me.until_ = some at_ ∧ t.timers = s.timers ++ [(at_, .sleepExpiry s.cur)] ∧ SameArch t.me s.me ∧ SameStores s t) ∧
    (∀ n, n ≠ 0 → s.me.phase = 1 → s.me.expired = true → exec (.sleep n) s = .next (s.ends id)) ∧
    (∀ cx n at_, (s.ctx cx).instr = some (.sleep n) → (s.ctx cx).until_ = some at_ → at_ ≤ s.cycle →
      exec (.sleepExpiry cx) s = .next (s.modCtx cx fun c => { c with expired := true })) ∧
    (∀ cx n at_, (s.ctx cx).instr = some (.align n) → (s.ctx cx).until_ = some at_ → at_ ≤ s.cycle →
      exec (.alignTimeout cx) s = .next (s.modCtx cx fun c => { c with expired := true }))

/-- R65, R66, R162: MFC writes D with the control register; a read of STQ or LOADR also sets FLAGS.O. -/
def Obligations.ControlReads : Prop :=
  ∀ (w : Bool) (s : State) (d : Spec) (r : CReg), Instr.wf w (.mfc d r) = true → starts (.mfc d r) s = true →
    Claims.mayUse s r → (r = .wstep → s.me.wave = none → streamActive s s.me.coreNo = false) →
    (r ≠ .stq → r ≠ .loadr → exec (.mfc d r) s = .next (Claims.wrote s d (cregRead s r))) ∧
    (r = .stq ∨ r = .loadr →
      exec (.mfc d r) s =
        .next (s.ends fun c => ({ c with flags := { c.flags with o := true } } : Ctx).put d (cregRead s r))) ∧
    cregRead s .pc = s.me.pc.setWidth 64 ∧ cregRead s .thnd = s.me.ctl.thnd.setWidth 64 ∧
    cregRead s .tcause = s.me.ctl.tcause.setWidth 64 ∧ cregRead s .tpc = s.me.ctl.tpc.setWidth 64 ∧
    cregRead s .taddr = s.me.ctl.taddr.setWidth 64 ∧ cregRead s .tinfo = s.me.ctl.tinfo ∧
    cregRead s .cvmt = s.me.ctl.cvmt.setWidth 64 ∧ cregRead s .cvma = s.me.ctl.cvma.setWidth 64 ∧
    cregRead s .cvmr = s.me.ctl.cvmr.setWidth 64 ∧ cregRead s .lc0 = s.me.loop0.count ∧
    cregRead s .lc1 = s.me.loop1.count ∧ cregRead s .waitlim = s.me.ctl.waitlim.setWidth 64 ∧
    cregRead s .srk = s.me.ctl.srk ∧ cregRead s .prov = s.me.ctl.prov ∧ cregRead s .stq = s.me.ctl.stq ∧
    (∀ k, bitAt (cregRead s .flags) k =
      match k with
      | 0 => s.me.seen.flags.z | 1 => s.me.seen.flags.n | 2 => s.me.seen.flags.c | 3 => s.me.seen.flags.v
      | 4 => s.me.seen.flags.t | 5 => s.me.seen.flags.o | 6 => bitAt s.me.seen.flags.ann 0
      | 7 => bitAt s.me.seen.flags.ann 1 | 8 => s.me.seen.flags.b | 9 => s.me.seen.flags.e | _ => false)

/-- R65, R66, R162: MTC writes the bits of its register and no reserved bit; FLAGS.B and FLAGS.O are only ever set; a
count of 0 makes its loop level inactive; an RO register ignores the write. -/
def Sys2Proof.Claims.ControlWrites : Prop :=
  ∀ (s : State) (a : Spec),
    (starts (.mtc .thnd a) s = true →
      exec (.mtc .thnd a) s = .next (s.ends fun c => { c with ctl := { c.ctl with thnd := (s.val a).setWidth 56 } })) ∧
    (starts (.mtc .tcause a) s = true →
      exec (.mtc .tcause a) s = .next (s.ends fun c => { c with ctl := { c.ctl with tcause := (s.val a).setWidth 8 } })) ∧
    (starts (.mtc .tpc a) s = true →
      exec (.mtc .tpc a) s = .next (s.ends fun c => { c with ctl := { c.ctl with tpc := (s.val a).setWidth 56 } })) ∧
    (starts (.mtc .taddr a) s = true →
      exec (.mtc .taddr a) s = .next (s.ends fun c => { c with ctl := { c.ctl with taddr := (s.val a).setWidth 56 } })) ∧
    (starts (.mtc .tinfo a) s = true →
      exec (.mtc .tinfo a) s = .next (s.ends fun c => { c with ctl := { c.ctl with tinfo := s.val a } })) ∧
    (starts (.mtc .cvmt a) s = true → exec (.mtc .cvmt a) s =
      .next (s.ends fun c => { c with ctl := { c.ctl with cvmt := bits (s.val a) 1 47 ++ (0 : BitVec 1) } })) ∧
    (starts (.mtc .cvma a) s = true → exec (.mtc .cvma a) s =
      .next (s.ends fun c => { c with ctl := { c.ctl with cvma := bits (s.val a) 1 47 ++ (0 : BitVec 1) } })) ∧
    (starts (.mtc .cvmr a) s = true → exec (.mtc .cvmr a) s =
      .next (s.ends fun c => { c with ctl := { c.ctl with cvmr := bits (s.val a) 1 47 ++ (0 : BitVec 1) } })) ∧
    (starts (.mtc .waitlim a) s = true → exec (.mtc .waitlim a) s =
      .next (s.ends fun c => { c with ctl := { c.ctl with waitlim := (s.val a).setWidth 32 } })) ∧
    (starts (.mtc .srk a) s = true →
      exec (.mtc .srk a) s = .next (s.ends fun c => { c with ctl := { c.ctl with srk := s.val a } })) ∧
    (∀ r, r = .pc ∨ r = .prov ∨ r = .stq ∨ r = .wstep ∨ r = .orient ∨ r = .loadr → starts (.mtc r a) s = true →
      exec (.mtc r a) s = .next (s.ends id)) ∧
    (starts (.flagsWrite a) s = true → exec (.flagsWrite a) s =
      .next (s.ends fun c => { c with flags :=
        { e := bitAt (s.val a) 9, b := c.flags.b || bitAt (s.val a) 8, ann := c.flags.ann
          o := c.flags.o || bitAt (s.val a) 5, t := bitAt (s.val a) 4, v := bitAt (s.val a) 3, c := bitAt (s.val a) 2
          n := bitAt (s.val a) 1, z := bitAt (s.val a) 0 } })) ∧
    (∀ l1, starts (.loopCounterWrite l1 a) s = true → exec (.loopCounterWrite l1 a) s =
      .next (s.ends fun c => Claims.withLoop c l1 { Claims.loopOf c l1 with
        count := s.val a, active := (Claims.loopOf c l1).active && decide (s.val a ≠ 0) }))

/-- R65, R171, R360, R371: the privileged registers of a core and of a die, written in privileged mode. -/
def Sys2Proof.Claims.PrivilegedWrites : Prop :=
  ∀ (s : State) (a : Spec), s.me.priv = true →
    (starts (.mtc .qcap a) s = true → exec (.mtc .qcap a) s =
      .next ((s.modCore s.me.coreNo fun c => { c with qcap := if 48 < (bits (s.val a) 0 6).toNat then 48 else bits (s.val a) 0 6 }).ends id)) ∧
    (starts (.mtc .tlim a) s = true → exec (.mtc .tlim a) s =
      .next ({ s.modDie (Claims.myDie s) (fun d => { d with tlim := (s.val a).setWidth 16 }) with
        pending := s.pending ++ [Instr.thermalThrottle (Claims.myDie s) (s.die (Claims.myDie s)).dtemp.toNat] }.ends id)) ∧
    (starts (.mtc .sptb a) s = true → exec (.mtc .sptb a) s =
      .next ((s.modDie (Claims.myDie s) fun d => { d with sptb := (bits (s.val a) 0 52).setWidth 64 }).ends id)) ∧
    (starts (.mtc .astb a) s = true → exec (.mtc .astb a) s =
      .next ((s.modDie (Claims.myDie s) fun d => { d with astb := (bits (s.val a) 0 52).setWidth 64 }).ends id)) ∧
    (starts (.mtc .crtb a) s = true → exec (.mtc .crtb a) s =
      .next ((s.modDie (Claims.myDie s) fun d =>
        { d with crtb := (bits (s.val a) 8 44 ++ (0 : BitVec 7) ++ bits (s.val a) 0 1).setWidth 64 }).ends id)) ∧
    (starts (.mtc .lqbase a) s = true → ∃ t, exec (.mtc .lqbase a) s = .next t ∧ SameArch t.me s.me ∧ t.mem = s.mem ∧
      t.cores = s.cores ∧ (t.die (Claims.myDie s)).lqbase = bits (s.val a) 8 48 ++ (0 : BitVec 8)) ∧
    (starts (.mtc .lqasid a) s = true → ∃ t, exec (.mtc .lqasid a) s = .next t ∧ SameArch t.me s.me ∧ t.mem = s.mem ∧
      t.cores = s.cores ∧ (t.die (Claims.myDie s)).lqasid = (s.val a).setWidth 16) ∧
    (∀ g, starts (.regionWrite g a) s = true →
      (bits (s.val a) 42 2 = 3 ∨ 2047 < (bits (s.val a) 0 12).toNat + (bits (s.val a) 16 12).toNat) →
      exec (.regionWrite g a) s = .next (s.ends id)) ∧
    (∀ g, starts (.regionWrite g a) s = true → bits (s.val a) 42 2 ≠ 3 →
      (bits (s.val a) 0 12).toNat + (bits (s.val a) 16 12).toNat ≤ 2047 →
      ∃ t, exec (.regionWrite g a) s = .next t ∧ SameArch t.me s.me ∧
        (t.core s.me.coreNo).region g.toNat =
          { cxid := bits (s.val a) 44 20, kind := bits (s.val a) 42 2, rowsM1 := bits (s.val a) 16 12
            base := bits (s.val a) 0 12 } ∧
        (∀ h, h ≠ g.toNat → (t.core s.me.coreNo).region h = (s.core s.me.coreNo).region h) ∧
        (∀ k, k ≠ s.me.coreNo → t.core k = s.core k)) ∧
    (∀ r, r.isLinkStatus = true → starts (.linkStatusClear r a) s = true →
      ∃ t, exec (.linkStatusClear r a) s = .next t ∧ SameArch t.me s.me ∧ t.mem = s.mem ∧ t.cores = s.cores ∧
        let l := (s.die (Claims.myDie s)).links.getD (CReg.linkIx r) {}
        (t.die (Claims.myDie s)).links.getD (CReg.linkIx r) {} = { l with crce := 0, lrtc := 0 }) ∧
    (starts (.alarmWrite a) s = true →
      ∃ t, exec (.alarmWrite a) s = .next t ∧ SameArch t.me s.me ∧ t.mem = s.mem ∧ t.cores = s.cores ∧
        let old := (s.die (Claims.myDie s)).alarm
        let new := (t.die (Claims.myDie s)).alarm
        (∀ k, 8 ≤ k → k < 13 → bitAt new k = (bitAt old k && !bitAt (s.val a) k)) ∧
        bits new 0 2 = (if bits (s.val a) 0 2 = 3 then 2 else bits (s.val a) 0 2)) ∧
    (starts (.holdtr a) s = true →
      ∃ t, exec (.holdtr a) s = .next t ∧ SameArch t.me s.me ∧ t.mem = s.mem ∧ t.cores = s.cores ∧
        (t.die (Claims.myDie s)).balth = bits (s.val a) 8 8 ∧ (t.die (Claims.myDie s)).holdtr = bitAt (s.val a) 1 ∧
        (t.die (Claims.myDie s)).bulken = bitAt (s.val a) 0)

/-- R65, R66, R162: MTC writes the bits of its register and no reserved bit; FLAGS.B and FLAGS.O are only ever set; a
count of 0 makes its loop level inactive; an RO register ignores the write. R65, R171, R360, R371: the privileged
registers of a core and of a die, written in privileged mode. A region write completes at once, also when it shrinks the
L1 (DESIGN CHOICE, log entries 10 and 16); a write to an RO register changes nothing (DESIGN CHOICE, log entry 76). -/
def Obligations.ControlWrites : Prop := Sys2Proof.Claims.ControlWrites ∧ Sys2Proof.Claims.PrivilegedWrites

/-- R45, R48, R63, R163: RSV makes D empty-reserved with the next ordinal of its source, or takes the deposit that waits for
it; DEAD kills the registers of its mask. A register that is reserved, write-protected or broken makes either fault with
0x06, and a source with bits above chip:CXID makes RSV fault with 0x08, whose info words are the operand and the register
(DEDUCED, log entry 27). -/
def Obligations.Reservations : Prop :=
  ∀ s : State,
    (∀ d a, d.isDeposit = true → starts (.rsv d a) s = true → s.me.view = none → bits (s.val a) 28 36 = 0 →
      (s.me.regSt d = .full ∨ s.me.regSt d = .dead) → (∀ p ∈ (s.core s.me.coreNo).deposits, p.cx ≠ s.cur) →
      ∃ t, exec (.rsv d a) s = .next t ∧
        t.me.regSt d = .reserved (.dep (bits (s.val a) 20 8) (bits (s.val a) 0 20)) (s.me.rsvNext.getD (s.val a).toNat 0) ∧
        t.me.rsvNext.getD (s.val a).toNat 0 = s.me.rsvNext.getD (s.val a).toNat 0 + 1 ∧
        (∀ r, r ≠ d → t.me.regSt r = s.me.regSt r) ∧ t.me.flags = s.me.flags ∧ SameStores s t) ∧
    (∀ d a p, d.isDeposit = true → starts (.rsv d a) s = true → s.me.view = none → bits (s.val a) 28 36 = 0 →
      (s.me.regSt d = .full ∨ s.me.regSt d = .dead) → p.reg = d →
      (s.core s.me.coreNo).deposits.find? (fun p => p.cx == s.cur && p.source == (s.val a).toNat &&
        p.ord == s.me.rsvNext.getD (s.val a).toNat 0) = some p →
      ∃ t, exec (.rsv d a) s = .next t ∧ t.me.regSt d = .prot (.dep (bits (s.val a) 20 8) (bits (s.val a) 0 20)) none ∧
        SameRegs t.me (s.me.deposit d p.val (.dep (bits (s.val a) 20 8) (bits (s.val a) 0 20)) none) ∧
        t.me.flags = s.me.flags ∧ t.mem = s.mem) ∧
    (∀ d a, d.isDeposit = true → starts (.rsv d a) s = true → s.me.view = none → bits (s.val a) 28 36 ≠ 0 →
      (s.me.regSt d = .full ∨ s.me.regSt d = .dead) →
      ∃ t, exec (.rsv d a) s = .next t ∧ Claims.Records s t { code := 0x08, info := [s.val a, d.code.setWidth 64], taddr := 0 }) ∧
    (∀ d a, d.isDeposit = true → starts (.rsv d a) s = true → s.me.view = none →
      ¬ (s.me.regSt d = .full ∨ s.me.regSt d = .dead) →
      ∃ t, exec (.rsv d a) s = .next t ∧ Claims.Records s t { code := 0x06, info := [d.code.setWidth 64], taddr := 0 }) ∧
    (∀ m r, (DeadMask.regs m).find? (fun r => !(s.me.regSt r == .full || s.me.regSt r == .dead)) = some r →
      ∃ t, exec (.dead m) s = .next t ∧ Claims.Records s t { code := 0x06, info := [r.code.setWidth 64], taddr := 0 }) ∧
    (∀ m, (∀ r ∈ DeadMask.regs m, s.me.regSt r = .full ∨ s.me.regSt r = .dead) →
      ∃ t, exec (.dead m) s = .next t ∧ (∀ r ∈ DeadMask.regs m, t.me.regSt r = .dead) ∧
        (∀ r, r ∉ DeadMask.regs m → t.me.regSt r = s.me.regSt r) ∧ t.me.flags = s.me.flags ∧ SameStores s t)

/-- R165, R166: TRAP posts its record and stops its context; RTE resumes at TPC with TCAUSE := 0. -/
def Obligations.TrapReturn : Prop :=
  ∀ s : State,
    (∀ a n, starts (.trap a n) s = true →
      ∃ t, exec (.trap a n) s = .next t ∧ Claims.Records s t { code := 0x07, info := [0x2C, n.setWidth 64, s.val a], taddr := 0 }) ∧
    (pcShape s.me.ctl.tpc = true →
      exec .rte s = .next (s.ends fun c =>
        { c with pc := c.ctl.tpc, xfer := true, entry := true, ctl := { c.ctl with tcause := 0 } })) ∧
    (pcShape s.me.ctl.tpc = false →
      ∃ t, exec .rte s = .next t ∧ Claims.Records s t { code := 0x03, info := [s.me.ctl.tpc.setWidth 64], taddr := s.me.ctl.tpc })

/-- R40: FENCE.X waits for no mark of its context on the paths of FROM with another path in TO, then clears their UNF
bits and ranges. -/
def Sys2Proof.Claims.Fence : Prop :=
  ∀ (s : State) (to_ from_ : BitVec 5),
    let waited (q : Nat) : Bool := bitAt from_ q && (List.range 5).any fun p => p != q && bitAt to_ p
    s.marks.all (fun m => !(m.cx == s.cur && decide (m.path < 5) && waited m.path)) = true →
    ∃ t, exec (.fenceX to_ from_) s = .next t ∧
      (∀ q, q < 5 → bitAt t.me.unf q = (bitAt s.me.unf q && !waited q)) ∧
      (∀ q, q < 5 → t.me.env.find q = if waited q then none else s.me.env.find q) ∧
      SameArch t.me s.me ∧ SameStores s t ∧ t.marks = s.marks

/-- R161, R164: ALIGN goes on at once with no sibling behind it; SLEEP 0 gives up the next own position; SLEEP n parks
until the first cycle of rotation t + n; the two expiries let their context go on, which then completes. R40: FENCE.X
waits for no mark of its context on the paths of FROM with another path in TO, then clears their UNF bits and ranges.
-/
def Obligations.Spacing : Prop := Sys2Proof.Claims.Spacing ∧ Sys2Proof.Claims.Fence

/-- R76, R166: a fault of the class that R76 delivers in-context enters the handler when one is set, none is active and
its first instruction passes R56: TCAUSE, TPC, TADDR, TINFO and PC are written, ANN is 0, and no register is saved or
killed. A handler whose first instruction fails R56 makes a record of 0x03 or 0x10 instead, with the PC of the fault;
the check looks the line up without a wait (DEDUCED, log entry 23). A fault outside that class, or with no handler set,
or inside a handler, is a record, and the context is faulted. -/
def Obligations.TakeException : Prop :=
  ∀ (s : State) (f : FaultRec),
    (handlerClass f = true → s.me.ctl.thnd ≠ 0 → s.me.ctl.tcause = 0 →
      checkTarget s s.me.priv (peek s s.me.coreNo s.me.asid s.me.ctl.thnd) s.me.ctl.thnd = .ok →
      takeException [f] s = s.modMe fun c =>
        { c with
          ctl := { c.ctl with tcause := f.code, tpc := f.pc.getD c.pc, taddr := f.taddr, tinfo := f.info.getD 0 0 }
          pc := c.ctl.thnd, xfer := true, leave := none, entry := true, run := .ready
          flags := { c.flags with ann := 0 } }) ∧
    (handlerClass f = true → s.me.ctl.thnd ≠ 0 → s.me.ctl.tcause = 0 → pcShape s.me.ctl.thnd = true →
      ∀ t, peek s s.me.coreNo s.me.asid s.me.ctl.thnd = some t → permitted s.me.priv .fetch t.e = true →
      tgtBit (homeLine s t.e (t.pa s.me.ctl.thnd)) (bits s.me.ctl.thnd 0 3).toNat = false →
      Claims.Records s (takeException [f] s)
        { code := 0x03, info := [s.me.ctl.thnd.setWidth 64], taddr := s.me.ctl.thnd, pc := f.pc }) ∧
    (handlerClass f = true → s.me.ctl.thnd ≠ 0 → s.me.ctl.tcause = 0 → pcShape s.me.ctl.thnd = false →
      Claims.Records s (takeException [f] s)
        { code := 0x03, info := [s.me.ctl.thnd.setWidth 64], taddr := s.me.ctl.thnd, pc := f.pc }) ∧
    (handlerClass f = true → s.me.ctl.thnd ≠ 0 → s.me.ctl.tcause = 0 → pcShape s.me.ctl.thnd = true →
      (∀ t, peek s s.me.coreNo s.me.asid s.me.ctl.thnd = some t → permitted s.me.priv .fetch t.e = false) →
      Claims.Records s (takeException [f] s)
        { code := 0x10, info := [s.me.ctl.thnd.setWidth 64, 0], taddr := s.me.ctl.thnd, pc := f.pc }) ∧
    ((handlerClass f = false ∨ s.me.ctl.thnd = 0 ∨ s.me.ctl.tcause ≠ 0) → Claims.Records s (takeException [f] s) f)

/-! ## Class 2: the core path -/

namespace Sys2Proof.Claims

open Sys2Proof.Machine

/-- The instruction parks for its data: the registers, the flags, memory and the scratchpads are as they were (R150, R168). -/
def ParksForData (i : Instr) (s u : State) : Prop :=
  u.me.instr = some i ∧ u.me.run ≠ .ready ∧ u.me.phase = 1 ∧ SameRegs u.me s.me ∧ u.me.flags = s.me.flags ∧
    u.mem = s.mem ∧ ∀ k, (u.core k).rows = (s.core k).rows

/-- The instruction has parked for its data and every answer is there. -/
def hasData (s : State) : Prop := s.me.phase = 1 ∧ answered s = true

/-- The answers that the instruction waited for are taken from the context. -/
def taken (s : State) : State :=
  s.modMe fun c => { c with answers := c.answers.filter fun a => !c.waits.contains a.1 }

/-- A request for the line of an address, at its home. -/
def AsksLine (s u : State) (t : Tlb) (va : Pc) (write : Bool) : Prop :=
  Holds u fun p => p.kind = .lineReq ∧ p.va = lineVa va ∧ p.pa = t.pa va / 64 * 64 ∧ p.cx = s.cur ∧ p.flag = write ∧
    p.dst = homeDst s t va

/-- A request to write bytes of the line of an address at its home: `new j` is what byte j of the line becomes, none for a
byte that keeps its value. -/
def AsksWrite (s u : State) (t : Tlb) (va : Pc) (new : Nat → Option Byte) : Prop :=
  Holds u fun p => p.kind = .lineReq ∧ p.va = lineVa va ∧ p.pa = t.pa va / 64 * 64 ∧ p.cx = s.cur ∧ p.flag = true ∧
    p.dst = homeDst s t va ∧ ∃ m, p.words = [m] ∧
      ∀ j, j < 64 → bitAt m j = (new j).isSome ∧ ∀ y, new j = some y → p.data.getD j 0 = y

/-- The line of an address that a store changes: the L1's, or the one received. -/
def lineHad (s : State) (va : Pc) : Option Line :=
  ((l1Find s s.me va).map (·.data)).or (s.me.lineBuf.find (lineVa va).toNat)

/-- What the L1 holds of the line of an address for the current context. -/
def cached (s : State) (va : Pc) : Option Line := (l1Find s s.me va).map (·.data)

/-- No two of the translations of some addresses differ where both serve an address. -/
def agree (s : State) (τ : Pc → Tlb) (as : List Pc) : Prop :=
  ∀ a ∈ as, ∀ b ∈ as, tlbFind [τ a] s.me.asid b = some (τ a) → τ a = τ b

/-- The line may be read, or written, at once: its page lets the access, and no mark of another path holds it. -/
def lineOpen (s : State) (a : PageAcc) (t : Tlb) (va : Pc) (write : Bool) : Prop :=
  s.pageLets a t = true ∧ s.plain t va = true ∧ markBlocks s (.line (t.pa va / 64 * 64)) 0 write = false

end Sys2Proof.Claims

/-- R150, R168: LD parks for its line, on an L1 hit as well as on a miss, where it asks the home; with the line it writes
D with the zero- or sign-extended bytes. -/
def Sys2Proof.Claims.ScalarLoad : Prop :=
  ∀ (w : Width) (sx : Bool) (d a : Spec) (x : BitVec 48) (s : State) (t : Tlb),
    let ea := effAddr (s.val a) x
    let n := Width.bytes w
    let i : Instr := .ld w sx d a x
    Instr.wf false i = true → s.maps .load ea t = true → ea.toNat % n = 0 →
    (starts i s = true → Claims.lineOpen s .load t ea false →
      ∃ u, exec i s = .next u ∧ Claims.ParksForData i s u ∧ u.me.ctl = s.me.ctl ∧
        (∀ l, Claims.cached s ea = some l → u.me.lineBuf.find (lineVa ea).toNat = some l ∧ u.net = s.net) ∧
        (Claims.cached s ea = none → Claims.AsksLine s u t ea false)) ∧
    (runs i s = true → Claims.hasData s → ∀ l, s.me.lineBuf.find (lineVa ea).toNat = some l →
      exec i s = .next (Claims.wrote (Claims.taken s) d
        (Claims.field sx (8 * n) 0 (BitVec.ofNat 64 (l.toNat / 2 ^ (8 * (ea.toNat % 64)) % 2 ^ (8 * n))))))

/-- R116, R117, R135, R168: a load whose page the context may not read faults: an address that is not mapped with 0x10,
a misaligned one with 0x19, a private page of a context that has quit with 0x11, a bounded page with 0x18. -/
def Sys2Proof.Claims.LoadFaults : Prop :=
  ∀ (w : Width) (sx : Bool) (d a : Spec) (x : BitVec 48) (s : State) (t : Tlb),
    let ea := effAddr (s.val a) x
    let n := Width.bytes w
    let i : Instr := .ld w sx d a x
    starts i s = true → s.me.ctl.thnd = 0 →
    ((tlbFind s.me.pages s.me.asid ea).or (tlbFind (s.core s.me.coreNo).tlb s.me.asid ea) = some t →
      permitted s.me.priv .load t.e = false →
      ∃ u, exec i s = .next u ∧
        Claims.Records s u { code := 0x10, info := [ea.setWidth 64, 1], taddr := ea }) ∧
    (s.maps .load ea t = true → ea.toNat % n ≠ 0 →
      ∃ u, exec i s = .next u ∧
        Claims.Records s u { code := 0x19, info := [ea.setWidth 64, BitVec.ofNat 64 n], taddr := ea }) ∧
    (s.maps .load ea t = true → ea.toNat % n = 0 →
      pageKind t.e s.me.cxid (ownerLive s (Leaf.owner t.e)) = .privQuit →
      ∃ u, exec i s = .next u ∧ Claims.Records s u
        { code := 0x11, info := [ea.setWidth 64, (Leaf.owner t.e).setWidth 64], taddr := ea }) ∧
    (s.maps .load ea t = true → ea.toNat % n = 0 →
      (Leaf.jt t.e = .bpriv ∨ (Leaf.jt t.e = .publ ∧ Leaf.bounded t.e = true)) →
      ∃ u, exec i s = .next u ∧
        Claims.Records s u { code := 0x18, info := [ea.setWidth 64], taddr := ea })

/-- R150, R168: LD parks for its line, on an L1 hit as well as on a miss, where it asks the home; with the line it
writes D with the zero- or sign-extended bytes. R116, R117, R135, R168: a load whose page the context may not read
faults: an address that is not mapped with 0x10, a misaligned one with 0x19, a private page of a context that has quit
with 0x11, a bounded page with 0x18. -/
def Obligations.ScalarLoad : Prop := Sys2Proof.Claims.ScalarLoad ∧ Sys2Proof.Claims.LoadFaults

/-- R150, R168: LDV parks for the lines of its masked lanes, and with them merges the decoded lanes into its register;
under an empty mask it reads nothing. The scales of group-scaled weights are free (DESIGN CHOICE, log entry 12); under
an empty mask a dead destination becomes full of zeros (DEDUCED, log entry 73). -/
def Obligations.VectorLoad : Prop :=
  ∀ (o : LvOp) (s : State) (τ : Pc → Tlb) (f : Fmt),
    let ea := effAddr (s.val o.a) o.x
    let t := τ ea
    let mask := s.mask o.c
    let ew := Leaf.ew t.e
    let old := if s.me.regSt (.v o.r) = .dead then 0 else s.me.getV o.r
    let ls := laneLines o.t f ew mask ea
    Instr.wf false (.ldv o) = true → s.maps .load ea t = true → ea.toNat % (ew / 8) = 0 → s.pageLets .load t = true →
    Leaf.fmt? t.e = some f → loadOk o.t f ew = true → (∀ l ∈ ls, s.maps .load l (τ l) = true) →
    Claims.agree s τ (ea :: ls) →
    (starts (.ldv o) s = true → mask = 0 →
      ∃ u, exec (.ldv o) s = .next u ∧ SameStores s u ∧ u.me = (s.me.putV o.r old).settle) ∧
    (starts (.ldv o) s = true → mask ≠ 0 → (∀ l ∈ ls, Claims.lineOpen s .load (τ l) l false) →
      ∃ u, exec (.ldv o) s = .next u ∧ Claims.ParksForData (.ldv o) s u ∧ u.me.ctl = s.me.ctl ∧
        ∀ l ∈ ls, (∀ y, Claims.cached s l = some y → u.me.lineBuf.find l.toNat = some y) ∧
          (Claims.cached s l = none → Claims.AsksLine s u (τ l) l false)) ∧
    (runs (.ldv o) s = true → Claims.hasData s → mask ≠ 0 →
      ∃ u sc, exec (.ldv o) s = .next u ∧ SameStores s u ∧
        u.me = ((Claims.taken s).me.putV o.r (Row.merge mask old
          (loadLanes o f ew s.me.ctl.srk ea mask (bytesAtHand s ea (elemBits f ew * 32 * o.t.elems / 8))
            (firstWeight t (elemBits f ew) ea) sc))).settle ∧
        (o.t = .i32 → f = .int32 → ∀ l, l < 32 → bitAt mask l = true → ((u.me.getV o.r).lane l).toNat =
          natOfBytes ((List.range 4).map fun k =>
            (bytesAtHand s ea 128).getD (4 * l + k) 0)))

/-- R150, R168, R169: ST counts in STQ and parks for its line. With the line it replaces its bytes in the L1; every other
line of the context, memory and the registers are as they were. Where the L1 has no rows its bytes go to the home with the
request, and the answer completes it. -/
def Obligations.ScalarStore : Prop :=
  ∀ (w : Width) (a b : Spec) (x : BitVec 48) (s : State) (t : Tlb),
    let ea := effAddr (s.val a) x
    let n := Width.bytes w
    let i : Instr := .st w a b x
    let k := s.me.coreNo
    Instr.wf false i = true → s.maps .store ea t = true → ea.toNat % n = 0 →
    (starts i s = true → Claims.lineOpen s .store t ea true →
      ∃ u, exec i s = .next u ∧ Claims.ParksForData i s u ∧ u.me.ctl.stq = s.me.ctl.stq + 1 ∧
        (l1Share k (s.core k) ≠ 0 → u.me.held = [0] ∧
          (∀ l, Claims.cached s ea = some l → u.me.lineBuf.find (lineVa ea).toNat = some l) ∧
          (Claims.cached s ea = none → Claims.AsksLine s u t ea false)) ∧
        (l1Share k (s.core k) = 0 → u.me.held = [1] ∧ Claims.AsksWrite s u t ea fun j =>
          if ea.toNat % 64 ≤ j ∧ j < ea.toNat % 64 + n then some (byteOf (s.val b) (j - ea.toNat % 64)) else none)) ∧
    (runs i s = true → Claims.hasData s → s.me.held = [0] → ∀ l, Claims.lineHad s ea = some l →
      (s.core k).l1.length < l1Share k (s.core k) →
      ∃ u m, exec i s = .next u ∧ SameRegs u.me s.me ∧ u.me.flags = s.me.flags ∧ u.me.ctl.stq = s.me.ctl.stq - 1 ∧
        u.mem = s.mem ∧ u.dies = s.dies ∧ (∀ j, j ≠ k → u.core j = s.core j) ∧ (u.core k).rows = (s.core k).rows ∧
        Claims.cached u ea = some m ∧
        (∀ j, j < 64 → byteOf m j =
          if ea.toNat % 64 ≤ j ∧ j < ea.toNat % 64 + n then byteOf (s.val b) (j - ea.toNat % 64) else byteOf l j) ∧
        (∀ va, lineVa va ≠ lineVa ea → Claims.cached u va = Claims.cached s va)) ∧
    (runs i s = true → Claims.hasData s → s.me.held = [1] →
      ∃ u, exec i s = .next u ∧ SameRegs u.me s.me ∧ u.me.flags = s.me.flags ∧ u.me.ctl.stq = s.me.ctl.stq - 1 ∧
        SameStores s u)

/-- The bytes that STV writes, each with its address: lane l element e has number l × elems + e (R105). -/
def Sys2Proof.Claims.stvWrites (s : State) (o : LvOp) (f : Fmt) (ew : Nat) (ea : Pc) : List (Pc × Byte) :=
  (List.range 32).flatMap fun l =>
    if bitAt (s.mask o.c) l then (List.range o.t.elems).flatMap fun e =>
      let n := l * o.t.elems + e
      (bytesOf (ew / 8) (BitVec.ofNat 64 ((storeElem o.t f ew o.rm o.sat (BitVec.ofNat 64 (ea.toNat / (ew / 8) + n))
        s.me.ctl.srk (laneElem o.t (Row.lane (s.me.seen.getV o.r) l) e)).getD 0))).mapIdx
          fun k y => (ea + BitVec.ofNat 56 (n * (ew / 8) + k), y)
    else []

/-- R150, R168: STV counts in STQ and parks for the lines of its mask. With them it stores the encoded lanes into the L1;
other lines, memory and the registers are as they were; under an empty mask it stores nothing. Where the L1 has no rows each
line's bytes go to its home with a request, and the answers complete it. -/
def Obligations.VectorStore : Prop :=
  ∀ (o : LvOp) (s : State) (τ : Pc → Tlb) (f : Fmt),
    let ea := effAddr (s.val o.a) o.x
    let t := τ ea
    let mask := s.mask o.c
    let ew := Leaf.ew t.e
    let k := s.me.coreNo
    let ls := laneLines o.t f ew mask ea
    Instr.wf false (.stv o) = true → s.maps .store ea t = true → ea.toNat % (ew / 8) = 0 → s.pageLets .store t = true →
    Leaf.fmt? t.e = some f → storeOk o.t f ew = true → (∀ l ∈ ls, s.maps .store l (τ l) = true) →
    Claims.agree s τ (ea :: ls) →
    (starts (.stv o) s = true → mask = 0 → exec (.stv o) s = .next (s.ends id)) ∧
    (starts (.stv o) s = true → mask ≠ 0 → l1Share k (s.core k) ≠ 0 → (∀ l ∈ ls, Claims.lineOpen s .store (τ l) l true) →
      ∃ u, exec (.stv o) s = .next u ∧ Claims.ParksForData (.stv o) s u ∧ u.me.ctl.stq = s.me.ctl.stq + 1 ∧
        u.me.held = [0] ∧ ∀ l ∈ ls, (∀ y, Claims.cached s l = some y → u.me.lineBuf.find l.toNat = some y) ∧
          (Claims.cached s l = none → Claims.AsksLine s u (τ l) l false)) ∧
    (starts (.stv o) s = true → mask ≠ 0 → l1Share k (s.core k) = 0 → (∀ l ∈ ls, Claims.lineOpen s .store (τ l) l true) →
      ∃ u, exec (.stv o) s = .next u ∧ Claims.ParksForData (.stv o) s u ∧ u.me.ctl.stq = s.me.ctl.stq + 1 ∧
        u.me.held = [1] ∧ ∀ l ∈ ls, Claims.AsksWrite s u (τ l) l fun j =>
          ((Claims.stvWrites s o f ew ea).find? fun w => w.1 == l + BitVec.ofNat 56 j).map (·.2)) ∧
    (runs (.stv o) s = true → Claims.hasData s → mask ≠ 0 → s.me.held = [1] →
      ∃ u, exec (.stv o) s = .next u ∧ SameRegs u.me s.me ∧ u.me.flags = s.me.flags ∧
        u.me.ctl.stq = s.me.ctl.stq - 1 ∧ SameStores s u) ∧
    (runs (.stv o) s = true → Claims.hasData s → mask ≠ 0 → s.me.held = [0] →
      (∀ l ∈ ls, (Claims.lineHad s l).isSome = true) → (s.core k).l1.length + ls.length < l1Share k (s.core k) →
      ∃ u, exec (.stv o) s = .next u ∧ SameRegs u.me s.me ∧ u.me.flags = s.me.flags ∧
        u.me.ctl.stq = s.me.ctl.stq - 1 ∧ u.mem = s.mem ∧ (u.core k).rows = (s.core k).rows ∧
        (∀ va, lineVa va ∉ ls → Claims.cached u va = Claims.cached s va) ∧
        (∀ va ∈ ls, Claims.cached u va = (Claims.lineHad s va).map (patchLine va (Claims.stvWrites s o f ew ea))))

/-- R36, R173 to R175, R243: SPLD, SPST and DRAIN on the scratchpad. SPST changes only its bytes of its row; DRAIN only the
fill bit, and with .rel the bound writer; it parks under a read mark of another path and on an empty row. The offset is EA
modulo 2^56 (DEDUCED, log entry 20); a write mark delays no DRAIN (DEDUCED, log entry 95). -/
def Obligations.Scratchpad : Prop :=
  ∀ (s : State) (a : Spec) (x : BitVec 48) (g : Region),
    let o : Word := (effAddr (s.val a) x).setWidth 64
    let k := s.me.coreNo
    let r := o.toNat / 128
    (∀ w sx d, Instr.wf true (.spld w sx d a x) = true → starts (.spld w sx d a x) s = true →
      s.padRegion o.toNat (Width.bytes w) (Width.bytes w) = some g → s.padOpen 0 o.toNat (Width.bytes w) false = true →
      s.padFull g o.toNat (Width.bytes w) = true →
      exec (.spld w sx d a x) s = .next (Claims.wrote s d (Claims.field sx (8 * Width.bytes w) 0 (BitVec.ofNat 64
        (((s.core k).row r).toNat / 2 ^ (8 * (o.toNat % 128)) % 2 ^ (8 * Width.bytes w)))))) ∧
    (∀ w b, starts (.spst w a b x) s = true → s.padRegion o.toNat (Width.bytes w) (Width.bytes w) = some g →
      g.shared = false → s.padOpen 0 o.toNat (Width.bytes w) true = true →
      ∃ new, exec (.spst w a b x) s = .next ((s.modCore k fun c => c.setRow r new).ends id) ∧
        ∀ j, j < 128 → byteOf new j =
          if o.toNat % 128 ≤ j ∧ j < o.toNat % 128 + Width.bytes w then byteOf (s.val b) (j - o.toNat % 128)
          else byteOf ((s.core k).row r) j) ∧
    (∀ rel, starts (.drain rel a x) s = true → (s.core k).regionOf r = some g → g.shared = true →
      g.cxid = s.me.cxid →
      let held := s.marks.any fun m => m.unit_ == .row k r && m.path != 0 && !m.write
      (held = false → ((s.core k).fillOf r).full = true →
        exec (.drain rel a x) s = .next ((s.modCore k fun c => c.setFill r
          { full := false, bound := if rel then none else (c.fillOf r).bound }).ends id)) ∧
      (held = true ∨ ((s.core k).fillOf r).full = false →
        exec (.drain rel a x) s = .next (s.modMe (Ctx.parkIn (.drain rel a x)))))

/-- R174: the rules of a fill: an empty row takes all 128 bytes and its first writer becomes its bound writer, another
writer is refused, and a full row waits. -/
def Obligations.FillRules : Prop :=
  ∀ (c : Core) (r : Nat) (x : Row) (t : BitVec 24),
    ((c.fillOf r).full = false → (c.fillOf r).bound = none →
      ∃ d, c.fill r x t = .ok d ∧ d.row r = x ∧ d.fillOf r = { full := true, bound := some t } ∧
        (∀ q, q ≠ r → d.row q = c.row q ∧ d.fillOf q = c.fillOf q)) ∧
    ((c.fillOf r).full = false → (c.fillOf r).bound = some t →
      ∃ d, c.fill r x t = .ok d ∧ d.row r = x ∧ (d.fillOf r).full = true) ∧
    (∀ b, (c.fillOf r).bound = some b → b ≠ t → c.fill r x t = .second b) ∧
    ((c.fillOf r).full = true → ((c.fillOf r).bound = none ∨ (c.fillOf r).bound = some t) → c.fill r x t = .full)

/-- R117, R134, R168, R169: a home serves a request for a line with its latest contents, and a request that carries
bytes by writing them and no other byte of memory; the line reaches its context, and a full L1 share gives up its least
recently used line, whose dirty bytes go to memory; a walk that ends in a leaf refills both translation caches of those
that wait. The L1 is one set of the whole share and its write-backs reach memory at once (DESIGN CHOICE, log entry 16);
a home holds nothing apart from memory (DESIGN CHOICE, log entry 92). -/
def Obligations.LineEvents : Prop :=
  ∀ (s : State) (id : Nat),
    (∀ p, s.net.find id = some p → p.arrived = true → flowBlocked s id p = false → p.flag = false → p.cx ≠ nobody →
      s.here p.pa = true →
      firstLasting s (lineUnits s (p.dst - 4096) p.pa (Leaf.const p.e)) = none →
      anyFenced s (lineUnits s (p.dst - 4096) p.pa (Leaf.const p.e)) = false →
      markBlocks s (.line p.pa) p.ord false = false → heldBehind s (.line p.pa) p.ord p.cx p.op false = false →
      lineSpoilt s p.pa = false → Leaf.const p.e = false →
      ∃ t, exec (.lineRequest id) s = .next t ∧ SameRegs (t.ctx p.cx) (s.ctx p.cx) ∧
        Holds t fun q => q.kind = .lineResp ∧ q.op = p.op ∧ q.cx = p.cx ∧ q.faults = [] ∧
          q.data = bytesOf 64 (coherentLine (pullLine p.pa s) p.pa)) ∧
    (∀ p, s.net.find id = some p → p.arrived = true → flowBlocked s id p = false → p.flag = true → p.cx ≠ nobody →
      s.here p.pa = true → Memory.wf s.mem = true →
      firstLasting s (lineUnits s (p.dst - 4096) p.pa (Leaf.const p.e)) = none →
      anyFenced s (lineUnits s (p.dst - 4096) p.pa (Leaf.const p.e)) = false → Leaf.const p.e = false →
      markBlocks s (.line p.pa) p.ord true = false → heldBehind s (.line p.pa) p.ord p.cx p.op true = false →
      ∃ t, exec (.lineRequest id) s = .next t ∧ SameRegs (t.ctx p.cx) (s.ctx p.cx) ∧
        (∀ j, j < 64 → t.byte (dramOf (p.pa / 64 * 64) + j) =
          if bitAt (p.words.getD 0 0) j then p.data.getD j 0 else byteOf (coherentLine s p.pa) j) ∧
        (∀ a, (∀ j, j < 64 → a ≠ dramOf (p.pa / 64 * 64) + j) → t.byte a = s.byte a) ∧
        Holds t fun q => q.kind = .lineResp ∧ q.op = p.op ∧ q.cx = p.cx ∧ q.faults = [] ∧ q.flag = true) ∧
    (∀ p l1 y, s.net.find id = some p → p.arrived = true → p.flag = false → p.faults = [] → cacheable p.e = true →
      (s.ctx p.cx).waits.contains p.op = true → (s.core p.dst).l1 = l1 ++ [y] →
      let k := p.dst
      let x : L1Line :=
        { va := p.va, asid := (s.ctx p.cx).asid, cxid := (s.ctx p.cx).cxid, own := Leaf.jt p.e == .priv, pa := p.pa
          data := BitVec.ofNat 512 (natOfBytes p.data) }
      l1Share k (s.core k) = l1.length + 1 → (∀ z ∈ l1 ++ [y], z.same x = false) → s.here y.pa = true →
      ∃ t, exec (.lineResponse id) s = .next t ∧ (t.core k).l1 = x :: l1 ∧
        t.mem = (if y.dirty then (s.writeLine y.pa y.data).mem else s.mem)) ∧
    (∀ p, s.net.find id = some p → p.arrived = true → p.flag = false → p.faults = [] →
      ((s.ctx p.cx).opens.find p.op).isSome = true → (s.ctx p.cx).waits.contains p.op = true →
      ∃ t, exec (.lineResponse id) s = .next t ∧ ((t.ctx p.cx).opens.find p.op) = none ∧
        (t.ctx p.cx).lineBuf.find p.va.toNat = some (BitVec.ofNat 512 (natOfBytes p.data)) ∧
        SameRegs (t.ctx p.cx) (s.ctx p.cx)) ∧
    (∀ (w : Walk) (u : Tlb) (k : Nat) (page : Pc), (s.die 0).walks = [w] → w.id = id → w.cxs = [(k, page)] → w.fault = none →
      (∀ d, d = 1 ∨ d = 2 ∨ d = 3 → (s.die d).walks = []) → walkWith s w.far 0 w.asid w.va = .found u →
      ∃ t, exec (.pageWalkComplete id) s = .next t ∧ (t.die 0).walks = [] ∧
        (t.core (s.ctx k).coreNo).tlb.head? = some u ∧ (t.cluster (clusterOf (s.ctx k).coreNo)).tlb.head? = some u ∧
        t.mem = s.mem ∧ ∀ j, t.ctx j = s.ctx j)

/-! ## Class 2: the join engine -/

namespace Sys2Proof.Claims

open Sys2Proof.Machine

/-- One more operation that STQ counts; the registers, flags and stores are as they were. -/
def CountsOne (s t : State) : Prop :=
  t.me.ctl.stq = s.me.ctl.stq + 1 ∧ SameRegs t.me s.me ∧ t.me.flags = s.me.flags ∧ SameStores s t

/-- The instruction has completed and changed nothing but what it waited for. -/
def Completes (s t : State) : Prop :=
  SameArch t.me s.me ∧ t.me.instr = none ∧ t.me.phase = 0 ∧ SameStores s t ∧ t.net = s.net

/-- A page-table entry is rewritten in memory and leaves every translation cache of the package (R118, R331). -/
def rewritten (asid : BitVec 16) (t : Tlb) (e : Entry) (s : State) : State :=
  dropCached .page asid t.base (s.reclaimed.writeBytes t.at_ (bytesOf 16 e))

/-- The instruction has sent its requests and parks; nothing else has changed. -/
def ParksAsking (i : Instr) (n : Nat) (s u : State) : Prop :=
  u.me.instr = some i ∧ u.me.run ≠ .ready ∧ u.me.phase = n ∧ SameRegs u.me s.me ∧ u.me.flags = s.me.flags ∧ SameStores s u

/-- A request of the join path for an address of a page, at its home. -/
def AsksHome (s u : State) (kind : PKind) (t : Tlb) (va : Pc) (more : Packet → Prop) : Prop :=
  Holds u fun p => p.kind = kind ∧ p.va = va ∧ p.pa = t.pa va ∧ p.e = t.e ∧ p.cx = s.cur ∧ p.dst = homeDst s t va ∧ more p

/-- The answers that a parked instruction waits for, in the order of its requests. -/
def answersOf (s : State) : List Ans := s.me.waits.filterMap fun w => s.me.answers.find w

/-- The bytes that hold the elements of the masked lanes of a vector read (R104). -/
def laneBytes (t : LaneT) (f : Fmt) (ew : Nat) (mask : BitVec 32) (ea : Pc) : List Pc :=
  let eb := elemBits f ew
  (List.range (32 * t.elems)).flatMap fun k =>
    if bitAt mask (k / t.elems) then
      (List.range ((eb * (k + 1) - 1) / 8 - eb * k / 8 + 1)).map fun j => ea + BitVec.ofNat 56 (eb * k / 8 + j)
    else []

/-- A request at its home, with nothing before it in its flow and its units working (R127, R376). -/
def atHome (s : State) (id : Nat) (p : Packet) : Prop :=
  s.net.find id = some p ∧ p.arrived = true ∧ flowBlocked s id p = false ∧
    firstLasting s (lineUnits s (p.dst - 4096) p.pa (Leaf.const p.e)) = none ∧
    anyFenced s (lineUnits s (p.dst - 4096) p.pa (Leaf.const p.e)) = false

end Sys2Proof.Claims

/-- R138, R139: JST, JSTV, BUMP and TFILL send one request for each join and count it in STQ; a release waits for STQ = 0
first. The waiting form then parks for the answers; the other completes. -/
def Sys2Proof.Claims.JoinSend : Prop :=
  ∀ (wait : Bool) (s : State) (a : Spec) (x : BitVec 48) (t : Tlb),
    let ea := effAddr (s.val a) x
    let waits (i : Instr) (u : State) : Prop :=
      u.me.instr = (if wait then some i else none) ∧ (wait = true → u.me.run ≠ .ready ∧ u.me.phase = 1)
    (∀ jt b, let i : Instr := .jst jt wait a b x
      Instr.wf false i = true → starts i s = true →
      s.maps .join ea t = true → ea.toNat % (Leaf.ew t.e / 8) = 0 → (JT.release jt = true → settledStores s = true) →
      ∃ u, exec i s = .next u ∧ Claims.CountsOne s u ∧ waits i u ∧
        Sends s u fun p => p.kind = .join ∧ p.va = ea ∧ p.cx = s.cur ∧ p.thread = s.me.thread ∧
          p.dst = homeDst s t ea ∧ p.words = [(JT.code jt).setWidth 64, BitVec.ofNat 64 (Leaf.ew t.e), s.val b]) ∧
    (∀ cntl b, let i : Instr := .bump cntl wait a b x
      Instr.wf false i = true → starts i s = true →
      s.maps .join ea t = true → ea.toNat % 8 = 0 → settledStores s = true →
      ∃ u, exec i s = .next u ∧ Claims.CountsOne s u ∧ waits i u ∧
        Sends s u fun p => p.kind = .join ∧ p.va = ea ∧ p.cx = s.cur ∧ p.dst = homeDst s t ea ∧
          p.words = [(JT.code (if cntl then .cntl else .cnt)).setWidth 64, 64, s.val b]) ∧
    (∀ jt b c, let i : Instr := .jstv jt wait a b c x
      Instr.wf false i = true → starts i s = true →
      s.maps .join ea t = true → ea.toNat % 128 = 0 →
      let mask := s.mask c
      (mask ≠ 0 → JT.release jt = true → settledStores s = true) → (wait = true → mask = 0 → s.me.waits = []) →
      ∃ u, exec i s = .next u ∧ SameRegs u.me s.me ∧ SameStores s u ∧
        u.me.ctl.stq = s.me.ctl.stq + BitVec.ofNat 64 (Claims.popc (mask.setWidth 64)) ∧
        (mask ≠ 0 → waits i u) ∧ (mask = 0 → u.me.instr = none) ∧
        ∀ l, l < 32 → bitAt mask l = true → Holds u fun p => p.kind = .join ∧ p.ord = 4096 * l ∧
          p.va = ea + BitVec.ofNat 56 (4 * l) ∧
          p.words = [(JT.code jt).setWidth 64, 32, (((s.me.seen.getV b).lane l).setWidth 64)]) ∧
    (∀ b tg fmt g, let i : Instr := .tfill wait a b tg fmt
      let n := tileBytes fmt ((Fmt.ew? fmt).getD 8) (tgElems (TG.code' tg))
      let va : Pc := (s.val a).setWidth 56
      Instr.wf false i = true → starts i s = true →
      s.maps .join va t = true → va.toNat % n = 0 → s.padRegion (s.val b).toNat n ((Fmt.ew? fmt).getD 8 / 8) = some g →
      settledStores s = true → s.padOpen 1 (s.val b).toNat n false = true → s.padFull g (s.val b).toNat n = true →
      ∃ u op, exec i s = .next u ∧ Claims.CountsOne s u ∧ waits i u ∧
        u.pending = s.pending ++ [.tfillSent op] ∧
        (∀ r ∈ rowsOf (s.val b).toNat n,
          { unit_ := .row s.me.coreNo r, path := 1, write := false, cx := s.cur, op : Mark } ∈ u.marks))

/-- R138 to R140, R144: a waiting form completes once the home has answered it without a fault. -/
def Sys2Proof.Claims.JoinWait : Prop :=
  ∀ (s : State) (a b c : Spec) (x : BitVec 48), s.me.phase = 1 → answered s = true →
    (∀ jt, Instr.wf false (.jst jt true a b x) = true → ∃ t, exec (.jst jt true a b x) s = .next t ∧ Claims.Completes s t) ∧
    (∀ jt v, Instr.wf false (.jstv jt true a v c x) = true →
      ∃ t, exec (.jstv jt true a v c x) s = .next t ∧ Claims.Completes s t) ∧
    (∀ cntl, Instr.wf false (.bump cntl true a b x) = true →
      ∃ t, exec (.bump cntl true a b x) s = .next t ∧ Claims.Completes s t) ∧
    (∀ tg fmt, Instr.wf false (.tfill true a b tg fmt) = true →
      ∃ t, exec (.tfill true a b tg fmt) s = .next t ∧ Claims.Completes s t)

/-- R138, R139: JST, JSTV, BUMP and TFILL send one request for each join and count it in STQ; a release waits for STQ = 0
first. The waiting form then parks for the answers; the other completes. R138 to R140, R144: a waiting form completes once
the home has answered it without a fault. A tile operand is aligned to its tile size (DEDUCED, log entry 28). -/
def Obligations.JoinSend : Prop := Sys2Proof.Claims.JoinSend ∧ Sys2Proof.Claims.JoinWait

/-- R133, R140 to R143: TRD, XRD, XRDV and XRDT complete with the answers of their homes: the index of the trigger, or all
ones, in D; the value in D and T; the decoded lanes merged and T; the tile, its rows marked, given to the landing of the
scratchpad, and T. TRD whose limit has ended faults with 0x17. -/
def Sys2Proof.Claims.ExactReads : Prop :=
  ∀ s : State, s.me.phase = 1 →
    (answered s = true → ∀ w g d a x, Instr.wf false (.trd w g d a x) = true → runs (.trd w g d a x) s = true →
      s.me.expired = false →
      ∃ t, exec (.trd w g d a x) s = .next t ∧ SameStores s t ∧ t.me.flags = s.me.flags ∧
        SameRegs t.me (s.me.put d ((s.answer 0).words.getD 0 (BitVec.allOnes 64)))) ∧
    (∀ w g d a x, let ea := effAddr (s.val a) x
      Instr.wf false (.trd w g d a x) = true → runs (.trd w g d a x) s = true → s.me.expired = true → s.me.ctl.thnd = 0 →
      ∃ t, exec (.trd w g d a x) s = .next t ∧ Claims.Records s t
        { code := 0x17, info := [ea.setWidth 64, s.me.ctl.waitlim.setWidth 64], taddr := ea }) ∧
    (answered s = true → ∀ sx d a x, Instr.wf false (.xrd sx d a x) = true → runs (.xrd sx d a x) s = true →
      (let w := (s.me.held.getD 0 64).toNat
       1 ≤ w → w ≤ 64 →
       ∃ t, exec (.xrd sx d a x) s = .next t ∧ SameStores s t ∧ t.me.flags = { s.me.flags with t := (s.answer 0).flag } ∧
         SameRegs t.me (s.me.put d (Claims.field sx w 0 ((s.answer 0).words.getD 0 0))))) ∧
    (answered s = true → ∀ o f (ew w0 : Word), Instr.wf false (.xrdv o) = true → runs (.xrdv o) s = true →
      s.me.held = [ew, (Fmt.code f).setWidth 64, w0] → (∀ n, ∀ w ∈ (s.answer n).words.drop 1, w = 0) →
      let ea := effAddr (s.val o.a) o.x
      let mask := s.mask o.c
      let as := Claims.answersOf s
      let ls := laneLines o.t f ew.toNat mask ea
      let bs := (List.range (elemBits f ew.toNat * (32 * o.t.elems) / 8)).map fun k => exactByte ls as (ea + BitVec.ofNat 56 k)
      ∃ t sc, exec (.xrdv o) s = .next t ∧ SameStores s t ∧
        t.me.flags = { s.me.flags with t := (Claims.laneBytes o.t f ew.toNat mask ea).all (exactBit ls as 0) } ∧
        SameRegs t.me (s.me.putV o.r (Row.merge mask (if s.me.regSt (.v o.r) = .dead then 0 else s.me.getV o.r)
          (loadLanes o f ew.toNat s.me.ctl.srk ea mask bs w0.toNat sc))) ∧
        (o.t = .i32 → f = .int32 → ew = 32 → ∀ l, l < 32 → bitAt mask l = true → ((t.me.getV o.r).lane l).toNat =
          natOfBytes ((List.range 4).map fun k => exactByte ls as (ea + BitVec.ofNat 56 (4 * l + k))))) ∧
    (answered s = true → ∀ fmt sat d a rm (n sh lo hi : Word), Instr.wf false (.xrdt fmt sat d a rm) = true →
      runs (.xrdt fmt sat d a rm) s = true → s.me.held = [n, sh, lo, hi] →
      s.padOpen 1 (s.val d).toNat n.toNat true = true → (∀ n, ∀ w ∈ (s.answer n).words.drop 1, w = 0) →
      let ea : Pc := (s.val a).setWidth 56
      let e : Entry := hi ++ lo
      let size := Leaf.tileSize e
      let as := Claims.answersOf s
      let bs := (List.range size).map fun k => exactByte (linesOf ea size) as (ea + BitVec.ofNat 56 k)
      ∃ t op p, exec (.xrdt fmt sat d a rm) s = .next t ∧ SameStores s t ∧ SameRegs t.me s.me ∧
        t.me.flags = { s.me.flags with t := Leaf.jt e != .fillt || exactBit (linesOf ea size) as 0 ea } ∧
        t.me.ctl.stq = s.me.ctl.stq + (if sh = 1 then 1 else 0) ∧ t.pending = s.pending ++ [.xrdtLanding op] ∧
        (∀ r ∈ rowsOf (s.val d).toNat n.toNat,
          { unit_ := .row s.me.coreNo r, path := 1, write := true, cx := s.cur, op : Mark } ∈ t.marks) ∧
        t.net.find op = some p ∧ p.words = [BitVec.ofNat 64 s.me.coreNo, s.val d] ∧ p.flag = (sh == 1) ∧
        (fmt = .raw → p.data = bs) ∧ ∃ sc, p.data = xrdtData e fmt sat rm s.me.ctl.srk bs sc)

/-- R140: TRD registers a threshold request at the home of its location and parks; with .W and a limit it asks to be woken
at the end of its limit, which runs from the rotation in which it issued. -/
def Sys2Proof.Claims.ThresholdRequest : Prop :=
  ∀ (g : Trig) (w : Bool) (d a : Spec) (x : BitVec 48) (s : State) (t : Tlb),
    let ea := effAddr (s.val a) x
    let i : Instr := .trd w g d a x
    let ts : Option (List Word) := match g with
      | .filled => none
      | .vals b m => some ((List.range (m.toNat + 1)).map fun i => s.me.seen.getS (b + BitVec.ofNat 5 i))
    let asks (u : State) : Prop := Sends s u fun p => p.kind = .threshold ∧ p.va = ea ∧ p.cx = s.cur ∧ p.words = ts.getD [] ∧
      p.flag = ts.isNone ∧ p.dst = homeDst s t ea
    Instr.wf false i = true → starts i s = true → s.maps .wait ea t = true → s.pageLets .trd t = true →
    (triggersValid (Loc.ofTlb t ea) ts = true → (w = false ∨ s.me.ctl.waitlim = 0) →
      ∃ u, exec i s = .next u ∧ Claims.ParksAsking i 1 s u ∧ asks u) ∧
    (triggersValid (Loc.ofTlb t ea) ts = true → w = true → s.me.ctl.waitlim ≠ 0 →
      let at_ := s.me.until_.getD ((s.die (Claims.myDie s)).resetAt
        + (s.rotation s.me.coreNo + (if s.me.remain = 0 then s.me.ctl.waitlim.toNat else s.me.remain) + 1) * 16)
      ∃ u, exec i s = .next u ∧ Claims.ParksAsking i 1 s u ∧ asks u ∧ u.me.until_ = some at_ ∧
        u.timers = s.timers ++ [(at_, .waitLimitExpiry s.cur)]) ∧
    (triggersValid (Loc.ofTlb t ea) ts = false →
      ∃ u, exec i s = .next u ∧
        Claims.Records s u { code := 0x16, info := [ea.setWidth 64], taddr := ea })

/-- R133, R141 to R143: XRD, XRDV and XRDT send their requests to the homes of their location, of the lines of their masked
lanes, of the lines of their tile, each with the bytes that it reads, and park. -/
def Sys2Proof.Claims.ExactRequests : Prop :=
  ∀ (s : State) (t : Tlb) (τ : Pc → Tlb),
    (∀ sx d a x, let ea := effAddr (s.val a) x
      let i : Instr := .xrd sx d a x
      Instr.wf false i = true → starts i s = true → s.maps .wait ea t = true → s.pageLets .xrd t = true →
      ea.toNat % (Leaf.ew t.e / 8) = 0 →
      ∃ u, exec i s = .next u ∧ Claims.ParksAsking i 1 s u ∧
        u.me.held = [if Leaf.jt t.e = .fold ∧ Leaf.const t.e = false then 64 else BitVec.ofNat 64 (Leaf.ew t.e)] ∧
        Claims.AsksHome s u .exact t ea fun p => p.flag = false) ∧
    (∀ (o : LvOp) f, let ea := effAddr (s.val o.a) o.x
      let mask := s.mask o.c
      let ew := Leaf.ew (τ ea).e
      let ls := laneLines o.t f ew mask ea
      let i : Instr := .xrdv o
      Instr.wf false i = true → starts i s = true → (∀ l ∈ ea :: ls, s.maps .wait l (τ l) = true ∧ s.pageLets .xrd (τ l) = true) →
      Claims.agree s τ (ea :: ls) → ea.toNat % (ew / 8) = 0 → mask ≠ 0 → Leaf.fmt? (τ ea).e = some f → loadOk o.t f ew = true →
      ∃ u, exec i s = .next u ∧ Claims.ParksAsking i 1 s u ∧
        u.me.held = [BitVec.ofNat 64 ew, (Fmt.code f).setWidth 64, BitVec.ofNat 64 (firstWeight (τ ea) (elemBits f ew) ea)] ∧
        ∀ l ∈ ls, Claims.AsksHome s u .exact (τ l) l fun p => p.flag = true ∧ ∃ m, p.words = [m] ∧
          ∀ j, j < 64 → bitAt m j = (Claims.laneBytes o.t f ew mask ea).contains (l + BitVec.ofNat 56 j)) ∧
    (∀ fmt sat d a rm g, let ea : Pc := (s.val a).setWidth 56
      let e := (τ ea).e
      let src := (Fmt.ofCode (Leaf.fmtCode e)).getD .raw
      let size := Leaf.tileSize e
      let ew := xrdtWidth fmt (Leaf.ew e)
      let n := if fmt = .raw then size else tgElems (Leaf.tgCode e).toNat * ew / 8
      let i : Instr := .xrdt fmt sat d a rm
      Instr.wf false i = true → starts i s = true → (∀ l ∈ ea :: linesOf ea size, s.maps .wait l (τ l) = true) →
      Claims.agree s τ (ea :: linesOf ea size) → s.pageLets .xrd (τ ea) = true → Leaf.tgCode e ≠ 0 → size ≠ 0 →
      ea.toNat % size = 0 → src ≠ .bq16 → Leaf.bounded e = false →
      (fmt = .raw ∨ ((Leaf.fmt? e).isSome = true ∧ (xrdtElem src fmt (Leaf.ew e) ew rm sat 0 0 0 0).isSome = true)) →
      s.padRegion (s.val d).toNat n (ew / 8) = some g →
      (g.shared = true → (s.val d).toNat % 128 = 0 ∧ n % 128 = 0) →
      ∃ u, exec i s = .next u ∧ Claims.ParksAsking i 1 s u ∧
        u.me.held = [BitVec.ofNat 64 n, if g.shared then 1 else 0, bits e 0 64, bits e 64 64] ∧
        ∀ l ∈ linesOf ea size, Claims.AsksHome s u .exact (τ l) l fun p => p.flag = true ∧ ∃ m, p.words = [m] ∧
          ∀ j, j < 64 → bitAt m j =
            (decide (ea.toNat ≤ (l + BitVec.ofNat 56 j).toNat) && decide ((l + BitVec.ofNat 56 j).toNat < ea.toNat + size)))

/-- R133, R140 to R143: TRD, XRD, XRDV and XRDT send their requests to the homes of what they read, with the limit of TRD.W,
and park; they complete with the answers: the index or the value in D, T from the fill state, the lanes merged, the tile
given to the landing of the scratchpad. The scales of group-scaled weights are free (DESIGN CHOICE, log entry 12), a packed
weight's index is that of the weight that holds the address (DESIGN CHOICE, log entry 104), and a tile operand is aligned to
its tile size (DEDUCED, log entry 28). -/
def Obligations.ExactReads : Prop :=
  Sys2Proof.Claims.ExactReads ∧ Sys2Proof.Claims.ThresholdRequest ∧ Sys2Proof.Claims.ExactRequests

/-- R131, R144: FIX sends the freeze of its unit, FIXR those of the units of its range in one page, after a wait for
STQ = 0; both complete when the freezes are answered, and at once where there is nothing to do. -/
def Sys2Proof.Claims.Freeze : Prop :=
  ∀ s : State,
    (∀ a x t, Instr.wf false (.fix a x) = true → starts (.fix a x) s = true → s.maps .freeze (effAddr (s.val a) x) t = true →
      s.pageLets .fix t = true → settledStores s = true →
      ∃ u, exec (.fix a x) s = .next u ∧ Claims.ParksAsking (.fix a x) 2 s u ∧
        Claims.AsksHome s u .freeze t (effAddr (s.val a) x) fun _ => True) ∧
    (∀ a x, Instr.wf false (.fix a x) = true → s.me.phase = 2 → answered s = true →
      ∃ t, exec (.fix a x) s = .next t ∧ Claims.Completes s t) ∧
    (∀ a x t, Instr.wf false (.fix a x) = true → starts (.fix a x) s = true → s.me.waits = [] →
      s.maps .freeze (effAddr (s.val a) x) t = true →
      pageKind t.e s.me.cxid (ownerLive s (Leaf.owner t.e)) = .frozenLattice → settledStores s = true →
      ∃ u, exec (.fix a x) s = .next u ∧ Claims.Completes s u) ∧
    (∀ a b t, let ea : Pc := (s.val a).setWidth 56
      let n := (s.val b).toNat
      let z := (Loc.ofTlb t ea).unitBytes
      Instr.wf false (.fixr a b) = true → starts (.fixr a b) s = true → s.maps .freeze ea t = true → s.pageLets .fix t = true →
      settledStores s = true → n ≠ 0 → ea.toNat % 2 ^ t.size + n ≤ 2 ^ t.size → z ≠ 0 →
      ea.toNat % 2 ^ t.size % z = 0 → n % z = 0 →
      ∃ u, exec (.fixr a b) s = .next u ∧ Claims.ParksAsking (.fixr a b) 2 s u ∧
        ∀ k, k < n / z → Claims.AsksHome s u .freeze t (ea + BitVec.ofNat 56 (k * z)) fun _ => True) ∧
    (∀ a b, Instr.wf false (.fixr a b) = true → runs (.fixr a b) s = true → s.me.phase = 2 → answered s = true →
      ∃ t, exec (.fixr a b) s = .next t ∧ Claims.Completes s t) ∧
    (∀ a b, Instr.wf false (.fixr a b) = true → starts (.fixr a b) s = true → s.val b = 0 →
      exec (.fixr a b) s = .next (s.ends id))

/-- R118, R145: PUB and XFER of one page rewrite its entry, drop its translations here and ask every other chip to drop them;
they complete once those have answered, and at once where there is no other chip. Of no bytes they do nothing. -/
def Sys2Proof.Claims.HandOff : Prop :=
  ∀ s : State,
    (∀ a b, Instr.wf false (.pub a b) = true → starts (.pub a b) s = true → s.val b = 0 → s.me.waits = [] →
      exec (.pub a b) s = .next (s.ends id)) ∧
    (∀ a b c, Instr.wf false (.xfer a b c) = true → starts (.xfer a b c) s = true → s.val b = 0 → s.me.waits = [] →
      exec (.xfer a b c) s = .next (s.ends id)) ∧
    (∀ a b t, let ea : Pc := (s.val a).setWidth 56
      let done := Claims.rewritten s.me.asid t (pubEntry t.e) s
      Instr.wf false (.pub a b) = true → starts (.pub a b) s = true → s.maps .handoff ea t = true →
      s.pageLets .pub t = true → (t.size = 16 ∨ t.size = 26 ∨ t.size = 36) → (s.val b).toNat = 2 ^ t.size →
      ea.toNat % 2 ^ t.size = 0 → s.me.unf = 0 → settledStores s = true → s.me.waits = [] → (∀ u ∈ s.me.pages, u = t) →
      s.here t.at_ = true → writingBack s (fun _ => true) = false →
      (otherChips done = [] → exec (.pub a b) s = .next (done.ends id)) ∧
      (otherChips done ≠ [] → ∃ u, exec (.pub a b) s = .next u ∧ u.me.instr = some (.pub a b) ∧ u.me.phase = 2 ∧
        u.me.run ≠ .ready ∧ SameRegs u.me s.me ∧ SameStores done u ∧
        ∀ ch ∈ otherChips done, Holds u fun p => p.kind = .inval ∧ p.va = t.base ∧ p.dst = 8192 + ch ∧ p.cx = s.cur)) ∧
    (∀ a b c t, let ea : Pc := (s.val a).setWidth 56
      let mine (l : L1Line) : Bool := l.asid == s.me.asid && l.va.toNat / 2 ^ t.size == t.base.toNat / 2 ^ t.size
      let done := Claims.rewritten s.me.asid t (xferEntry t.e ((s.val c).setWidth 20)) (flushL1 s.me.coreNo mine s)
      Instr.wf false (.xfer a b c) = true → starts (.xfer a b c) s = true → s.maps .handoff ea t = true →
      s.pageLets .xfer t = true → (t.size = 16 ∨ t.size = 26 ∨ t.size = 36) → (s.val b).toNat = 2 ^ t.size →
      ea.toNat % 2 ^ t.size = 0 → s.me.unf = 0 → settledStores s = true → s.me.waits = [] → (∀ u ∈ s.me.pages, u = t) →
      s.here t.at_ = true → writingBack s (fun _ => true) = false → (s.val c).toNat ≤ 0xFFFFE →
      (∀ l ∈ (s.core s.me.coreNo).l1, mine l = true → l.dirty = true → s.here l.pa = true) →
      (otherChips done = [] → exec (.xfer a b c) s = .next (done.ends id)) ∧
      (otherChips done ≠ [] → ∃ u, exec (.xfer a b c) s = .next u ∧ u.me.instr = some (.xfer a b c) ∧ u.me.phase = 2 ∧
        u.me.run ≠ .ready ∧ SameRegs u.me s.me ∧ SameStores done u ∧
        ∀ ch ∈ otherChips done, Holds u fun p => p.kind = .inval ∧ p.va = t.base ∧ p.dst = 8192 + ch ∧ p.cx = s.cur)) ∧
    (∀ a b, Instr.wf false (.pub a b) = true → runs (.pub a b) s = true → s.me.phase = 2 → answered s = true →
      ∃ t, exec (.pub a b) s = .next t ∧ Claims.Completes s t) ∧
    (∀ a b c, Instr.wf false (.xfer a b c) = true → runs (.xfer a b c) s = true → s.me.phase = 2 → answered s = true →
      ∃ t, exec (.xfer a b c) s = .next t ∧ Claims.Completes s t) ∧
    (∀ e : Entry, Leaf.jtCode (pubEntry e) = 1 ∧ Leaf.frozen (pubEntry e) = true ∧ Leaf.owner (pubEntry e) = 0 ∧
      Leaf.pa (pubEntry e) = Leaf.pa e ∧ ∀ o, Leaf.owner (xferEntry e o) = o ∧ Leaf.jtCode (xferEntry e o) = Leaf.jtCode e)

/-- R43: a hand-off of a range that an unfenced path has marked faults with 0x1B and does nothing. R135: PUB and XFER of a
page that is not the context's own private one fault with 0x11, FIX and FIXR of a page that is no lattice page with 0x12, and
XFER to no CXID with 0x11. -/
def Sys2Proof.Claims.HandOffRefused : Prop :=
  ∀ (s : State) (a b : Spec),
    let ea : Pc := (s.val a).setWidth 56
    let n := (s.val b).toNat
    (∀ (q : Nat) (lo hi : Pc), Instr.wf false (.pub a b) = true → starts (.pub a b) s = true →
      n ≠ 0 → q < 5 → bitAt s.me.unf q = true → (∀ p, p < q → bitAt s.me.unf p = false) →
      s.me.env.find q = some (lo, hi) → lo.toNat ≤ ea.toNat + n - 1 → ea.toNat ≤ hi.toNat →
      ∃ t, exec (.pub a b) s = .next t ∧ Claims.Records s t
        { code := 0x1B, info := [BitVec.ofNat 64 q, ea.setWidth 64, BitVec.ofNat 64 (ea.toNat + n - 1)], taddr := ea }) ∧
    (∀ t i, (i = .pub a b ∨ ∃ c, i = .xfer a b c) → Instr.wf false i = true → starts i s = true → n ≠ 0 → s.me.unf = 0 →
      s.maps .handoff ea t = true →
      ¬ ((Leaf.jt t.e = .priv ∨ Leaf.jt t.e = .bpriv) ∧ Leaf.owner t.e = s.me.cxid) →
      ∃ u, exec i s = .next u ∧ Claims.Records s u
        { code := 0x11, info := [ea.setWidth 64, (Leaf.owner t.e).setWidth 64], taddr := ea }) ∧
    (∀ c t, Instr.wf false (.xfer a b c) = true → starts (.xfer a b c) s = true → s.maps .handoff ea t = true →
      s.pageLets .xfer t = true → n = 2 ^ t.size → 16 ≤ t.size → t.size ≤ 36 → ea.toNat % 2 ^ t.size = 0 → s.me.unf = 0 →
      0xFFFFE < (s.val c).toNat →
      ∃ u, exec (.xfer a b c) s = .next u ∧ Claims.Records s u { code := 0x11, info := [ea.setWidth 64, s.val c], taddr := ea }) ∧
    (∀ x t, let va := effAddr (s.val a) x
      Instr.wf false (.fix a x) = true → starts (.fix a x) s = true → s.maps .freeze va t = true →
      (Leaf.jt t.e = .priv ∨ Leaf.jt t.e = .bpriv ∨ Leaf.jt t.e = .publ ∨ Leaf.const t.e = true) →
      ∃ u, exec (.fix a x) s = .next u ∧ Claims.Records s u
        { code := 0x12, info := [va.setWidth 64, (Leaf.jtCode t.e).setWidth 64], taddr := va, src := 1 }) ∧
    (∀ t, Instr.wf false (.fixr a b) = true → starts (.fixr a b) s = true → n ≠ 0 → s.maps .freeze ea t = true →
      (Leaf.jt t.e = .priv ∨ Leaf.jt t.e = .bpriv ∨ Leaf.jt t.e = .publ ∨ Leaf.const t.e = true) →
      ∃ u, exec (.fixr a b) s = .next u ∧ Claims.Records s u
        { code := 0x12, info := [ea.setWidth 64, (Leaf.jtCode t.e).setWidth 64], taddr := ea, src := 1 })

/-- R131, R144: FIX and FIXR send the freezes of their units after a wait for STQ = 0, complete when those are answered, and
at once where there is nothing to do. R118, R145: PUB and XFER of one page rewrite its entry, drop its translations here and
ask every other chip to; they complete once those have answered. R43, R135: the hand-offs refused with 0x1B and 0x11, and the
freezes refused with 0x12. The translations of this package go in one step, and the other chips asked are those of the chip
route table (DESIGN CHOICE, log entry 17); FIX waits for STQ = 0 also with nothing to freeze (DEDUCED, log entry 30); a 0x12
has no third INFO word (DESIGN CHOICE, log entry 90). -/
def Obligations.FreezeHandOff : Prop :=
  Sys2Proof.Claims.Freeze ∧ Sys2Proof.Claims.HandOff ∧ Sys2Proof.Claims.HandOffRefused

/-- R119: the joins of the ordered and the bitwise types are commutative, associative and idempotent, so their order
does not matter. -/
def Obligations.JoinLattice : Prop :=
  ∀ (w a b c : Nat), 0 < w → a < 2 ^ w → b < 2 ^ w → c < 2 ^ w →
    ∀ jt, jt = .maxu ∨ jt = .minu ∨ jt = .maxs ∨ jt = .mins ∨ jt = .bor →
      joinValue jt w a b = joinValue jt w b a ∧
      joinValue jt w (joinValue jt w a b) c = joinValue jt w a (joinValue jt w b c) ∧
      joinValue jt w a a = a ∧ joinValue jt w a b < 2 ^ w ∧
      (jt = .maxu → a ≤ joinValue jt w a b ∧ b ≤ joinValue jt w a b) ∧
      (jt = .minu → joinValue jt w a b ≤ a ∧ joinValue jt w a b ≤ b)

/-- R121, R126, R135: what a home refuses, and a first fill: the bytes and the writer, with no CONFLICT. No join matches a
CONST page. An index of 64 and more is refused on a frozen location too (DEDUCED, log entry 26). -/
def Obligations.JoinHome : Prop :=
  ∀ (x : Loc) (jt : JT) (w : Nat) (tg : BitVec 3) (fmt : BitVec 4) (v : Word) (data : List Byte) (th : BitVec 24)
    (s : State),
    ((Leaf.const x.e = true ∨ Leaf.jt x.e ≠ jt ∨ Leaf.ew x.e ≠ w) → applyJoin x jt w tg fmt v data th s =
      .bad (homeFault 0x12 x.va [(Leaf.jtCode x.e).setWidth 64, (JT.code jt).setWidth 64])) ∧
    (Leaf.const x.e = false → Leaf.jt x.e = jt → Leaf.ew x.e = w → jt = .cnt → 64 ≤ v.toNat →
      applyJoin x jt w tg fmt v data th s = .bad (homeFault 0x15 x.va [v])) ∧
    (Leaf.const x.e = false → Leaf.jt x.e = jt → Leaf.ew x.e = w → jt = .maxu ∨ jt = .fill → x.frozen s = true →
      applyJoin x jt w tg fmt v data th s = .bad (homeFault 0x13 x.va [])) ∧
    (Leaf.jt x.e = .fill → jt = .fill → Leaf.ew x.e = w → x.frozen s = false → x.filled s = false →
      applyJoin x jt w tg fmt v data th s =
        .ok ((putWriters x th noWriter (x.write (bytesOf (w / 8) v) s)) |> x.setFilled)) ∧
    (Leaf.jt x.e = .maxu → jt = .maxu → Leaf.ew x.e = w → x.frozen s = false →
      applyJoin x jt w tg fmt v data th s =
        .ok (x.write (bytesOf (w / 8) (BitVec.ofNat 64 (Nat.max (x.value s) (v.toNat % 2 ^ w)))) s))

/-- R126, R129, R131, R133, R127, R139, R143: the steps of a home and of an acknowledgement. A join that is neither
refused nor blocked takes effect on memory; a freeze of an unfrozen unit sets its bits; a registration that its
location already passes is answered; an answer counts its operation down; a threshold read whose limit has come is
withdrawn; a tile leaves the interface; a tile lands. That the registration is withdrawn in one step is DESIGN CHOICE,
log entry 31; that an uncorrectable line is found before anything else that a join is refused for is DESIGN CHOICE, log
entry 105. -/
def Obligations.JoinEvents : Prop :=
  ∀ (s : State) (id : Nat) (p : Packet),
    (Claims.atHome s id p → p.flag = false → ∀ jt u, JT.ofCode ((p.words.getD 0 0).setWidth 4) = some jt →
      marksFree s p.loc true = true → locSpoilt s p.loc p.loc.base p.loc.bytes = false → s.waiters = [] →
      applyJoin p.loc jt (p.words.getD 1 0).toNat ((p.words.getD 3 0).setWidth 3) ((p.words.getD 4 0).setWidth 4)
        (p.words.getD 2 0) p.data p.thread s = .ok u →
      ∃ t, exec (.joinApply id) s = .next t ∧ t.mem = u.mem ∧ t.cores = u.cores ∧
        (p.cx ≠ nobody → Holds t fun q => q.kind = .answer ∧ q.op = p.op ∧ q.cx = p.cx ∧ q.faults = [])) ∧
    (Claims.atHome s id p → marksFree s p.loc false = true → p.cx ≠ nobody →
      ∀ n, trdNow s p.loc p.triggers = .idx n →
      (∃ t, exec (.thresholdRegister id) s = .next t ∧ t.mem = s.mem ∧
        Holds t fun q => q.kind = .answer ∧ q.op = p.op ∧ q.words = [BitVec.ofNat 64 n]) ∧
      (∃ t, exec (.waiterRetry id) s = .next t ∧ t.mem = s.mem ∧
        Holds t fun q => q.kind = .answer ∧ q.op = p.op ∧ q.words = [BitVec.ofNat 64 n])) ∧
    (Claims.atHome s id p → p.cx ≠ nobody → s.waiters = [] → p.loc.frozen s = false →
      (p.loc.unitLines.all fun l => !markBlocks s (.line (Leaf.place p.loc.e (l * 64))) 1 true) = true →
      ∃ t, exec (.freezeApply id) s = .next t ∧
        t.mem = (reportUnit p.loc (p.dst - 4096) (setFrozen p.loc { s with net := s.net.del id })).mem ∧
        Holds t fun q => q.kind = .answer ∧ q.op = p.op ∧ q.faults = []) ∧
    (Claims.atHome s id p → p.cx ≠ nobody → p.loc.frozen s = true → p.flag = false →
      let run := exactRun p.loc
      let ls := if Leaf.const p.e then [] else (Loc.lineRun run.1 run.2).map fun l => Leaf.place p.e (l * 64)
      let pulled := ls.foldl (fun s l => pullLine l s) { s with net := s.net.del id }
      locSpoilt pulled p.loc run.1 run.2 = false → (ls.any fun l => markBlocks s (.line l) 1 false) = false →
      ∀ r, exactValue pulled p.loc = some r →
      ∃ t, exec (.exactRead id) s = .next t ∧
        Holds t fun q => q.kind = .answer ∧ q.op = p.op ∧ q.words = [r.1] ∧ q.flag = r.2 ∧ q.faults = []) ∧
    (s.net.find id = some p → p.arrived = true → p.faults = [] → ∀ o, (s.ctx p.cx).opens.find p.op = some o →
      o.counted = true → (∀ m, s.net.find p.op = some m → m.kind ≠ .record) →
      ∃ t, exec (.stqAcknowledge id) s = .next t ∧ (t.ctx p.cx).opens.find p.op = none ∧
        (t.ctx p.cx).ctl.stq = (s.ctx p.cx).ctl.stq - 1 ∧ SameRegs (t.ctx p.cx) (s.ctx p.cx) ∧ t.mem = s.mem ∧
        OthersSame p.cx s t) ∧
    (∀ cx at_ w g d a x, (s.ctx cx).until_ = some at_ → at_ ≤ s.cycle → (s.ctx cx).instr = some (.trd w g d a x) →
      (s.ctx cx).waits.any (fun w => ((s.ctx cx).opens.find w).isSome) = true →
      ∃ t, exec (.waitLimitExpiry cx) s = .next t ∧ (t.ctx cx).expired = true ∧ SameRegs (t.ctx cx) (s.ctx cx) ∧
        t.mem = s.mem ∧ ∀ o ∈ (s.ctx cx).waits, (t.ctx cx).opens.find o = none) ∧
    (s.net.find id = some p →
      rowsHeld s (p.words.getD 5 0).toNat 1 p.cx id (rowsOf (p.words.getD 6 0).toNat (p.words.getD 7 0).toNat) false = false →
      ∃ t q, exec (.tfillSent id) s = .next t ∧ t.net.find id = some q ∧ t.pending = s.pending ++ [.packetForward id] ∧
        q.data = (s.core (p.words.getD 5 0).toNat).readPad (p.words.getD 6 0).toNat (p.words.getD 7 0).toNat ∧
        t.marks = s.marks.filter (fun m => m.op != id) ∧ t.mem = s.mem ∧ t.cores = s.cores) ∧
    (s.net.find id = some p → p.flag = false →
      rowsHeld s (p.words.getD 0 0).toNat 1 p.cx id (rowsOf (p.words.getD 1 0).toNat p.data.length) true = false →
      ∃ t, exec (.xrdtLanding id) s = .next t ∧ t.net.find id = none ∧ t.mem = s.mem ∧
        t.marks = s.marks.filter (fun m => m.op != id) ∧
        t.core (p.words.getD 0 0).toNat = (s.core (p.words.getD 0 0).toNat).writePad (p.words.getD 1 0).toNat p.data)

/-! ## Class 3 -/

namespace Sys2Proof.Claims

open Sys2Proof.Machine

def rd (r : Spec) : VOpd := { r, rd := true, wr := false }
def wr (r : Spec) : VOpd := { r, rd := false, wr := true }
def rw (r : Spec) : VOpd := { r, rd := true, wr := true }

/-- Element by element over two sources and the destination. -/
def elements (t : LaneT) (f : Nat → Nat → Nat → Nat) (d a b : Row) : Row :=
  Row.ofLanes fun l => laneOf t fun e => f (laneElem t (d.lane l) e) (laneElem t (a.lane l) e) (laneElem t (b.lane l) e)

/-- What VADD to VMUL do: D has the elements of A and B combined, under the mask; nothing else changes. -/
def VecArith (s : State) (i : Instr) (o : VArith) (f : Nat → Nat → Nat) : Prop :=
  Instr.wf true i = true → starts i s = true → s.rowsReady (s.mask o.c) [wr o.d, rd o.a, rd o.b] = true →
    exec i s = .next (s.vecEnds o.d (s.mask o.c)
      (elements o.t (fun _ => f) 0 (s.vec o.t o.a) (s.vec o.t o.b)) [o.d, o.a, o.b])

/-- VFMA and VFMS read D too. -/
def VecAcc (s : State) (i : Instr) (o : VArith) (f : Nat → Nat → Nat → Nat) : Prop :=
  Instr.wf true i = true → starts i s = true → s.rowsReady (s.mask o.c) [rw o.d, rd o.a, rd o.b] = true →
    exec i s = .next (s.vecEnds o.d (s.mask o.c)
      (elements o.t f (s.vecOld o.d) (s.vec o.t o.a) (s.vec o.t o.b)) [o.d, o.a, o.b])

def VecBin (s : State) (i : Instr) (o : VBin) (f : Row → Row → Row) : Prop :=
  Instr.wf true i = true → starts i s = true → s.rowsReady (s.mask o.c) [wr o.d, rd o.a, rd o.b] = true →
    exec i s = .next (s.vecEnds o.d (s.mask o.c) (f (s.vec o.t o.a) (s.vec o.t o.b)) [o.d, o.a, o.b])

def VecUn (s : State) (i : Instr) (t : LaneT) (d a c : Spec) (f : Row → Row) : Prop :=
  Instr.wf true i = true → starts i s = true → s.rowsReady (s.mask c) [wr d, rd a] = true →
    exec i s = .next (s.vecEnds d (s.mask c) (f (s.vec t a)) [d, a])

/-- An exact integer result as an element: reduced modulo 2^w, or clamped to the element range (R189). -/
def intElem (t : LaneT) (sat : Bool) (x : Int) : Nat :=
  let lo : Int := if t = .u32 then 0 else -2 ^ (t.w - 1)
  let hi : Int := if t = .u32 then 2 ^ t.w - 1 else 2 ^ (t.w - 1) - 1
  ((if sat then Max.max lo (Min.min hi x) else x) % 2 ^ t.w).toNat

end Sys2Proof.Claims

/-- R187, R189, R190: the five arithmetic instructions combine elements under the mask, for every operand form: registers,
broadcasts, scratchpad rows and link registers. -/
def Sys2Proof.Claims.VectorArith : Prop :=
  ∀ (s : State) (o : VArith),
    Claims.VecArith s (.vadd o) o (arithElem .add o.t o.sat o.rm 0) ∧
    Claims.VecArith s (.vsub o) o (arithElem .sub o.t o.sat o.rm 0) ∧
    Claims.VecArith s (.vmul o) o (arithElem .mul o.t o.sat o.rm 0) ∧
    Claims.VecAcc s (.vfma o) o (arithElem .fma o.t o.sat o.rm) ∧
    Claims.VecAcc s (.vfms o) o (arithElem .fms o.t o.sat o.rm)

/-- R189, R190, R192: what the element functions give: exact integers reduced or clamped, one rounding of the exact float
result, the smaller or larger operand unchanged with -0 below +0, the canonical NaN where an operand of a minimum or
maximum is NaN, shifts by b mod w. -/
def Obligations.VectorElements : Prop :=
  ∀ (t : LaneT) (sat : Bool) (rm : RMode) (d a b : Nat), d < 2 ^ t.w → a < 2 ^ t.w → b < 2 ^ t.w →
    (t.isFloat = false →
      arithElem .add t sat rm d a b = Claims.intElem t sat (t.toInt a + t.toInt b) ∧
      arithElem .sub t sat rm d a b = Claims.intElem t sat (t.toInt a - t.toInt b) ∧
      arithElem .mul t sat rm d a b = Claims.intElem t sat (t.toInt a * t.toInt b) ∧
      arithElem .fma t sat rm d a b = Claims.intElem t sat (t.toInt a * t.toInt b + t.toInt d) ∧
      arithElem .fms t sat rm d a b = Claims.intElem t sat (t.toInt d - t.toInt a * t.toInt b) ∧
      absElem t sat a = Claims.intElem t sat (t.toInt a).natAbs ∧ negElem t sat a = Claims.intElem t sat (-t.toInt a) ∧
      (minElem t a b = a ∨ minElem t a b = b) ∧ t.toInt (minElem t a b) ≤ t.toInt a ∧
      t.toInt (minElem t a b) ≤ t.toInt b ∧
      (maxElem t a b = a ∨ maxElem t a b = b) ∧ t.toInt a ≤ t.toInt (maxElem t a b) ∧
      t.toInt b ≤ t.toInt (maxElem t a b) ∧
      shlElem t a b = a * 2 ^ (b % t.w) % 2 ^ t.w ∧ t.toInt (shrElem t a b) = t.toInt a / 2 ^ (b % t.w)) ∧
    (t.isFloat = true →
      arithElem .add t sat rm d a b = t.num.round rm sat 0 0 ((t.num.value a).add (t.num.value b)) ∧
      arithElem .sub t sat rm d a b = t.num.round rm sat 0 0 ((t.num.value a).sub (t.num.value b)) ∧
      arithElem .mul t sat rm d a b = t.num.round rm sat 0 0 ((t.num.value a).mul (t.num.value b)) ∧
      arithElem .fma t sat rm d a b =
        t.num.round rm sat 0 0 (((t.num.value a).mul (t.num.value b)).add (t.num.value d)) ∧
      arithElem .fms t sat rm d a b =
        t.num.round rm sat 0 0 ((t.num.value d).sub ((t.num.value a).mul (t.num.value b))) ∧
      ((t.num.value a).isNan = false → (t.num.value b).isNan = false →
        (minElem t a b = a ∨ minElem t a b = b) ∧ (maxElem t a b = a ∨ maxElem t a b = b) ∧
        ∀ x, x = a ∨ x = b → (t.num.value x).before (t.num.value (minElem t a b)) = false ∧
          (t.num.value (maxElem t a b)).before (t.num.value x) = false) ∧
      ((t.num.value a).isNan = true → minElem t a b = t.nan ∧ maxElem t b a = t.nan ∧ absElem t sat a = t.nan ∧
        negElem t sat a = t.nan) ∧
      ((t.num.value a).isNan = false → absElem t sat a = a % 2 ^ (t.w - 1) ∧
        negElem t sat a = (a + 2 ^ (t.w - 1)) % 2 ^ t.w))

/-- R187, R190, R192: minimum, maximum, logic, shifts, absolute value and negation. -/
def Sys2Proof.Claims.VectorLogic : Prop :=
  ∀ s : State,
    (∀ o : VBin,
      Claims.VecBin s (.vmin o) o (Claims.elements o.t (fun _ => minElem o.t) 0) ∧
      Claims.VecBin s (.vmax o) o (Claims.elements o.t (fun _ => maxElem o.t) 0) ∧
      Claims.VecBin s (.vand o) o (fun a b => Row.ofLanes fun l => a.lane l &&& b.lane l) ∧
      Claims.VecBin s (.vor o) o (fun a b => Row.ofLanes fun l => a.lane l ||| b.lane l) ∧
      Claims.VecBin s (.vxor o) o (fun a b => Row.ofLanes fun l => a.lane l ^^^ b.lane l) ∧
      Claims.VecBin s (.vshl o) o (Claims.elements o.t (fun _ => shlElem o.t) 0) ∧
      Claims.VecBin s (.vshr o) o (Claims.elements o.t (fun _ => shrElem o.t) 0)) ∧
    (∀ o : VUn,
      Claims.VecUn s (.vabs o) o.t o.d o.a o.c (fun a => Claims.elements o.t (fun _ x _ => absElem o.t o.sat x) 0 a 0) ∧
      Claims.VecUn s (.vneg o) o.t o.d o.a o.c (fun a => Claims.elements o.t (fun _ x _ => negElem o.t o.sat x) 0 a 0))

/-- R187, R189, R190: the five arithmetic instructions combine elements under the mask, for every operand form:
registers, broadcasts, scratchpad rows and link registers. R187, R190, R192: minimum, maximum, logic, shifts, absolute
value and negation. Each writes D and, of what else the context holds, only the address registers that it increments.
DEDUCED: each [sN]+ adds 128 to the value that the register then has (log entry 25), a masked write of a link register
keeps the lanes that it does not write (log entry 68), and a dead destination under an empty mask becomes full of zeros
(log entry 73). -/
def Obligations.VectorArith : Prop := Sys2Proof.Claims.VectorArith ∧ Sys2Proof.Claims.VectorLogic

/-- R191 to R193, R196 to R198, R203: select, permute, broadcast, conversion, scan and random lanes; the comparisons,
reductions and extracts that write an s-register. -/
def Sys2Proof.Claims.VectorMoves : Prop :=
  ∀ s : State,
    (∀ o, Instr.wf true (.vsel o) = true → starts (.vsel o) s = true →
      s.rowsReady (BitVec.allOnes 32) [Claims.wr o.d, Claims.rd o.a, Claims.rd o.b] = true →
      exec (.vsel o) s = .next (s.vecEnds o.d (BitVec.allOnes 32)
        (Row.ofLanes fun l => if bitAt (s.mask o.c) l then (s.vec o.t o.a).lane l else (s.vec o.t o.b).lane l)
        [o.d, o.a, o.b])) ∧
    (∀ o, Claims.VecBin s (.vperm o) o (fun a b => Row.ofLanes fun l => a.lane ((b.lane l).toNat % 32))) ∧
    (∀ t d a c lane, Claims.VecUn s (.vbcast t d a c lane) t d a c (fun x => Row.splat (x.lane lane.toNat))) ∧
    (∀ t sat op d a c, Claims.VecUn s (.vscan t sat op d a c) t d a c
      (fun x => Row.ofLanes (vscanLane t sat op (s.mask c) x))) ∧
    (∀ src h o, Instr.wf true (.vcvt src h o) = true → starts (.vcvt src h o) s = true →
      s.rowsReady (s.mask o.c)
        [if src.elems < o.t.elems then Claims.rw o.d else Claims.wr o.d, Claims.rd o.a] = true →
      exec (.vcvt src h o) s = .next (s.vecEnds o.d (s.mask o.c)
        (Row.ofLanes fun l => cvtLane src o.t h.toNat o.rm o.sat (s.val o.b) s.me.ctl.srk l
          ((if src.elems < o.t.elems then s.vecOld o.d else 0).lane l) ((s.vec src o.a).lane l)) [o.d, o.a])) ∧
    (∀ hi o, Instr.wf true (.vcrand hi o) = true → starts (.vcrand hi o) s = true →
      s.rowsReady (s.mask o.c) [Claims.wr o.d] = true →
      exec (.vcrand hi o) s = .next (s.vecEnds o.d (s.mask o.c) (Row.ofLanes fun l =>
        let g := km10 (s.val o.a + BitVec.ofNat 64 l) (s.val o.b)
        let u : BitVec 32 := if hi then bits g 32 32 else bits g 0 32
        if o.t = .f32 then f32Rne (.fin false (u.toNat / 256) (-24)) else u) [o.d])) ∧
    (∀ cc o, Instr.wf true (.vcmp cc o) = true → starts (.vcmp cc o) s = true →
      s.rowsReady (s.mask o.c) [Claims.rd o.a, Claims.rd o.b] = true →
      ∃ x : Word, exec (.vcmp cc o) s = .next (s.ends fun c => (c.put o.d x).bumped [o.a, o.b]) ∧
        ∀ l, bitAt x l = (decide (l < 32) && bitAt (s.mask o.c) l &&
          vcondHolds o.t cc ((s.vec o.t o.a).lane l) ((s.vec o.t o.b).lane l))) ∧
    (∀ t op d a c, Instr.wf true (.vred t op d a c) = true → starts (.vred t op d a c) s = true →
      s.rowsReady (s.mask c) [Claims.rd a] = true →
      exec (.vred t op d a c) s =
        .next (s.ends fun x => (x.put d (vredResult t op (s.mask c) (s.vec t a))).bumped [a])) ∧
    (∀ t d a el, Instr.wf true (.vext t d a el) = true → starts (.vext t d a el) s = true →
      s.rowsReady (BitVec.allOnes 32) [Claims.rd a] = true →
      exec (.vext t d a el) s = .next (s.ends fun c =>
        (c.put d (if t.isFloat then BitVec.ofNat 64 (laneElem t ((s.vec t a).lane (el.toNat / t.elems)) (el.toNat % t.elems))
          else BitVec.ofInt 64 (t.toInt (laneElem t ((s.vec t a).lane (el.toNat / t.elems)) (el.toNat % t.elems))))).bumped
            [a]))

/-- R196: an integer reduction is the exact sum, minimum or maximum of the masked lanes; an empty mask gives the
identity. -/
def Sys2Proof.Claims.VectorReduction : Prop :=
  ∀ (t : LaneT) (mask : BitVec 32) (a : Row), t = .i32 ∨ t = .u32 →
    let v (l : Nat) : Int := t.toInt (a.lane l).toNat
    let on := (List.range 32).filter fun l => bitAt mask l
    vredResult t .add mask a = BitVec.ofInt 64 ((on.map v).foldl (· + ·) 0) ∧
    (∀ l ∈ on, (vredResult t .max mask a).toInt ≥ v l) ∧ (∀ l ∈ on, (vredResult t .min mask a).toInt ≤ v l) ∧
    (on ≠ [] → ∃ l ∈ on, (vredResult t .max mask a).toInt = v l) ∧
    (on ≠ [] → ∃ l ∈ on, (vredResult t .min mask a).toInt = v l) ∧
    (mask = 0 → vredResult t .add mask a = 0 ∧ vredResult t .or mask a = 0 ∧ vredResult t .and mask a = 0xFFFFFFFF)

/-- R191 to R193, R196 to R198, R203: select, permute, broadcast, conversion, scan and random lanes; the comparisons,
reductions and extracts that write an s-register. R196: an integer reduction is the exact sum, minimum or maximum of
the masked lanes; an empty mask gives the identity. VBCAST of a link register takes it as a vector (DEDUCED, log entry
22); lane 0 of a float scan is the bits of the source (DESIGN CHOICE, log entry 85). -/
def Obligations.VectorMoves : Prop := Sys2Proof.Claims.VectorMoves ∧ Sys2Proof.Claims.VectorReduction

/-- R174, R199, R200: VLD and VST, whose offset is a 64-bit word, and VGATH and VSCAT, whose offsets sA + 4 × index are
integers that do not wrap; a lane whose word lies in no region faults. A VST into a shared row is a fill. A scatter
with two lanes on one word keeps the highest lane's value. That these offsets are unbounded, and that their low 64 bits
are the fault's word, are log entry 71 (DEDUCED). -/
def Obligations.VectorScratch : Prop :=
  ∀ s : State,
    (∀ t d a c x g, let off := s.val a + x.signExtend 64
      Instr.wf true (.vld t d a c x) = true → starts (.vld t d a c x) s = true → s.padRegion off.toNat 128 128 = some g →
      s.padOpen 0 off.toNat 128 false = true → s.padFull g off.toNat 128 = true →
      exec (.vld t d a c x) s =
        .next (s.vecEnds d (s.mask c) ((s.core s.me.coreNo).row (off.toNat / 128)) [])) ∧
    (∀ t a b c x g, let off := s.val a + x.signExtend 64
      Instr.wf true (.vst t a b c x) = true → starts (.vst t a b c x) s = true → s.padRegion off.toNat 128 128 = some g →
      g.shared = false → s.padOpen 0 off.toNat 128 true = true →
      exec (.vst t a b c x) s = .next ((s.modCore s.me.coreNo fun k => k.setRow (off.toNat / 128)
        (Row.merge (s.mask c) (k.row (off.toNat / 128)) (s.vec t b))).ends id)) ∧
    (∀ t a b c x g k, let off := s.val a + x.signExtend 64
      Instr.wf true (.vst t a b c x) = true → starts (.vst t a b c x) s = true → s.padRegion off.toNat 128 128 = some g →
      g.shared = true → s.mask c = BitVec.allOnes 32 → s.padOpen 0 off.toNat 128 true = true →
      (s.core s.me.coreNo).fill (off.toNat / 128) (s.vec t b) s.me.thread = .ok k →
      exec (.vst t a b c x) s = .next ((s.setCore s.me.coreNo k).ends id)) ∧
    (∀ o (g : Nat → Region), let at_ (l : Nat) : Nat := (s.val o.a).toNat + 4 * ((s.vec o.t o.b).lane l).toNat
      Instr.wf true (.vgath o) = true → starts (.vgath o) s = true → (s.val o.a).toNat % 4 = 0 →
      (∀ l, l < 32 → bitAt (s.mask o.c) l = true → s.padRegion (at_ l) 4 4 = some (g l) ∧
        s.padOpen 0 (at_ l) 4 false = true ∧ s.padFull (g l) (at_ l) 4 = true) →
      ∃ x : Row, exec (.vgath o) s = .next (s.vecEnds o.d (s.mask o.c) x []) ∧
        ∀ l, l < 32 → bitAt (s.mask o.c) l = true → (x.lane l).toNat =
          ((s.core s.me.coreNo).row (at_ l / 128)).toNat / 2 ^ (8 * (at_ l % 128)) % 2 ^ 32) ∧
    (∀ o (g : Nat → Region), let at_ (l : Nat) : Nat := (s.val o.a).toNat + 4 * ((s.vec o.t o.b).lane l).toNat
      Instr.wf true (.vscat o) = true → starts (.vscat o) s = true → (s.val o.a).toNat % 4 = 0 →
      (∀ l, l < 32 → bitAt (s.mask o.c) l = true → s.padRegion (at_ l) 4 4 = some (g l) ∧ (g l).shared = false ∧
        s.padOpen 0 (at_ l) 4 true = true) →
      ∃ t, exec (.vscat o) s = .next t ∧ t.me = s.me.settle ∧ t.mem = s.mem ∧
        (∀ k, k ≠ s.me.coreNo → t.core k = s.core k) ∧
        (∀ l, l < 32 → bitAt (s.mask o.c) l = true →
          (∀ m, l < m → m < 32 → bitAt (s.mask o.c) m = true → at_ m ≠ at_ l) →
          (t.core s.me.coreNo).padNat (at_ l) 4 = ((s.vec o.t o.d).lane l).toNat) ∧
        (∀ p, p % 4 = 0 → (∀ l, l < 32 → bitAt (s.mask o.c) l = true → at_ l ≠ p) →
          (t.core s.me.coreNo).padNat p 4 = (s.core s.me.coreNo).padNat p 4)) ∧
    (∀ o l, let at_ (l : Nat) : Nat := (s.val o.a).toNat + 4 * ((s.vec o.t o.b).lane l).toNat
      Instr.wf true (.vgath o) = true → starts (.vgath o) s = true → (s.val o.a).toNat % 4 = 0 → s.me.ctl.thnd = 0 →
      s.me.wave = none → l < 32 → bitAt (s.mask o.c) l = true → (s.core s.me.coreNo).regionOf (at_ l / 128) = none →
      (∀ m, m < l → bitAt (s.mask o.c) m = true → (s.padRegion (at_ m) 4 4).isSome = true) →
      ∃ t, exec (.vgath o) s = .next t ∧ Claims.Records s t { code := 0x1A, info := [BitVec.ofNat 64 (at_ l), 4], taddr := 0 })

/-- R194, R195: the five correctly rounded functions read at issue and park, and write when their time has come, which is
free within 4 to 12 cycles (DESIGN CHOICE, log entry 8). -/
def Obligations.VectorTranscendental : Prop :=
  ∀ (s : State) (o : VTr) (i : Instr) (f : Val → Val),
    (i = .vrcp o ∧ f = fRcp ∨ i = .vrsq o ∧ f = fRsq ∨ i = .vsqrt o ∧ f = fSqrt ∨ i = .vexp2 o ∧ f = fExp2 ∨
      i = .vlog2 o ∧ f = fLog2) → Instr.wf true i = true →
    (starts i s = true → s.rowsReady (s.mask o.c) [Claims.wr o.d, Claims.rd o.a] = true →
      ∃ t at_, exec i s = .next t ∧ t.me.instr = some i ∧ t.me.phase = 1 ∧ t.me.until_ = some at_ ∧
        s.cycle + 4 ≤ at_ ∧ at_ ≤ s.cycle + 12 ∧ (at_, .transcendentalComplete s.cur) ∈ t.timers ∧
        t.me.held = Row.words (Row.ofLanes fun l => transLane f ((s.vec .f32 o.a).lane l)) ∧
        SameRegs t.me s.me ∧ SameStores s t) ∧
    (s.me.phase = 1 → s.me.expired = true → runs i s = true → s.rowsReady (s.mask o.c) [Claims.wr o.d] = true →
      exec i s = .next (s.vecEnds o.d (s.mask o.c) (Row.ofWords s.me.held) [o.d, o.a])) ∧
    (∀ cx at_, (s.ctx cx).instr = some i → (s.ctx cx).until_ = some at_ → at_ ≤ s.cycle →
      exec (.transcendentalComplete cx) s = .next (s.modCtx cx fun c => { c with expired := true }))

/-! ## Class 4: the matrix engine -/

namespace Sys2Proof.Claims

open Sys2Proof.Machine

/-- An instruction that changes only its core beside the bookkeeping of its context. -/
def OnCore (s t : State) : Prop :=
  SameArch t.me s.me ∧ t.mem = s.mem ∧ OthersSame s.cur s t ∧ ∀ j, j ≠ s.me.coreNo → t.core j = s.core j

/-- The power level after an acceptance or an MHINT (R253). -/
def raised (l : Nat) : Nat := if l = 0 then 1 else if l = 5 then 3 else if l = 6 then 2 else if l = 7 then 1 else l

/-- The engine takes a further operation of the context: eight entries, and one operation other than TZERO (R238). -/
def engineFree (s : State) : Bool :=
  let q := (s.core s.me.coreNo).matrix.queue
  decide (q.length < 8) && q.all fun o => o.cx != s.cur || match o.instr with
    | .tzero _ _ => true
    | _ => false

/-- The extents of an operation: its launch's, or those of its descriptor (R246). -/
def extentsOf (s : State) (ext : Bool) (w : Word) : Nat × Nat :=
  if ext then (s.me.ident.extm.toNat, s.me.ident.extn.toNat) else ((bits w 0 16).toNat, (bits w 16 16).toNat)

/-- A run passes the checks of R242, and a row that is written in a shared region is whole and empty (R251). -/
def runFits (s : State) (write : Bool) (r : Run4) : Bool :=
  let k := s.core s.me.coreNo
  r.off % r.al == 0 && match k.regionOf (r.off / 128) with
    | none => false
    | some g =>
      g.covers ((r.off + (r.len - 1)) / 128) && (g.shared || g.cxid == s.me.cxid)
        && (!(write && g.shared) || (r.off % 128 == 0 && r.len == 128
          && match k.fill (r.off / 128) 0 s.me.thread with
            | .ok _ => true
            | _ => false))

/-- The rows wait for nothing (R36, R174, R208). -/
def rowsFree (s : State) (write : Bool) (rs : List Run4) : Bool :=
  (runRows rs).all fun r => s.padOpen 3 (r * 128) 1 write
    && (write || !(s.core s.me.coreNo).isShared r || ((s.core s.me.coreNo).fillOf r).full)

/-- The engine has taken operation `q`, with marks on `rows` (R238, R243, R251 to R253). -/
def Accepts (s t : State) (q : MatOp) (rows : List Nat) (write : Bool) : Prop :=
  let k := s.me.coreNo
  OnCore s t ∧ q.cx = s.cur ∧ bitAt t.me.unf 3 = true ∧
    t.marks = s.marks ++ rows.map (fun r => { unit_ := .row k r, path := 3, write, cx := s.cur, op := q.id : Mark }) ∧
    ∃ m, t.core k = { s.core k with matrix := m } ∧ m.queue = (s.core k).matrix.queue ++ [q] ∧
      m.level = raised (s.core k).matrix.level

/-- The descriptor words of an MMA or MMAG. -/
def descOf (s : State) (c : BitVec 5) : Word × Word :=
  if c = 0 then (0, 0) else (s.me.seen.getS c, s.me.seen.getS (c + 1))

/-- The shape of an MMA or MMAG (R241). -/
def shapeOf (s : State) (gather : Bool) (o : MmaOp) : MmaShape :=
  let e := extentsOf s o.ext (if o.c = 0 then 0 else s.me.seen.getS o.c)
  mmaShape gather o e.1 e.2 (descOf s o.c).1 (descOf s o.c).2 (if gather then 0 else s.val o.a) (s.val o.b)
    (if gather then s.vec .u32 o.a else 0)

/-- What an MMA or MMAG does when nothing holds it back: the codes of A are latched, and the engine has the operation. -/
def Multiplies (s : State) (i : Instr) (gather : Bool) (o : MmaOp) : Prop :=
  let z := shapeOf s gather o
  let core := s.core s.me.coreNo
  Instr.wf false i = true → s.ordinary = true → starts i s = true → (core.tile false s.cur o.d).isSome = true →
  z.m ≤ 32 → z.n ≤ 32 → (o.pair.scaled = true → z.kv = 32) →
  ((z.m = 0 ∨ z.n = 0) → exec i s = .next (s.ends id)) ∧
  (z.m ≠ 0 → z.n ≠ 0 → (z.runsA ++ z.runsB ++ z.runsS).all (runFits s false) = true → engineFree s = true →
    rowsFree s false z.runsA = true → rowsFree s false (z.runsB ++ z.runsS) = true →
    ∃ t q, exec i s = .next t ∧ Accepts s t q (runRows (z.runsB ++ z.runsS)) false ∧ q.instr = i ∧
      q.work = 4 * o.pair.cycles (32 * z.kb) ∧
      q.args = [(descOf s o.c).1, (descOf s o.c).2, if gather then 0 else s.val o.a, s.val o.b, BitVec.ofNat 64 z.m,
        BitVec.ofNat 64 z.n] ∧
      q.latch = (List.range (z.m * z.kb * 32)).map fun e => if e % 32 < z.kv then
        BitVec.ofNat 64 (core.padVal (z.offA (e / 32 / z.kb) (e / 32 % z.kb) (e % 32)) z.pair.ea) else 0)

/-- The first operation of an engine has done its work. -/
def workDone (s : State) (core : Nat) (o : MatOp) : Prop :=
  let m := (s.core core).matrix
  m.queue.head? = some o ∧ o.work ≤ m.prog + levelRate m.level * (s.cycle - m.progAt)

/-- The operation has left the engine, and `k` is its core but for the engine. -/
def Finished (s t : State) (core : Nat) (o : MatOp) (k : Core) : Prop :=
  t.mem = s.mem ∧ t.ctxs = s.ctxs ∧ (∀ j, j ≠ core → t.core j = s.core j) ∧
    ∃ m, t.core core = { k with matrix := m } ∧
      m.queue = (s.core core).matrix.queue.filter fun q => q.id != o.id

/-- A core with one tile replaced. -/
def withTile (k : Core) (wave : Bool) (cx : Nat) (n : BitVec 2) (d : TileData) : Core :=
  { k with tiles := k.tiles.map fun t =>
      if t.wave = wave ∧ t.name = n ∧ (wave = true ∨ t.cx = cx) then { t with data := d } else t }

/-- The contents of a tile, 0 where it is not claimed. -/
def tileData (k : Core) (wave : Bool) (cx : Nat) (n : BitVec 2) : TileData :=
  match k.tile wave cx n with
  | some t => t.data
  | none => 0

/-- The sums of R108: each element in the extents takes the block sums of its K blocks in order; a zero sum is +0, under a
negative scale too. -/
def product (k : Core) (z : MmaShape) (latch : List Word) (old : TileData) : TileData :=
  tileOf fun i j =>
    if i < z.m ∧ j < z.n then
      (List.range z.kb).foldl (fun c kb =>
        let sum := blockSum ((List.range z.kv).map fun kk =>
          (z.pair.aFmt.value ((latch.getD ((i * z.kb + kb) * 32 + kk) 0).toNat), bVal k z kb kk j))
        blockAdd c (if z.pair.scaled then exactZero (sum.mul (FloatF.bf16.value (k.padVal (z.offS j kb) 2))) else sum))
        (tileElem old i j)
    else tileElem old i j

end Sys2Proof.Claims

/-- R235 to R237, R250, R254: a free tile is claimed and a held one is not claimed again; TREL ends the claim of a tile
that no accepted operation works on; TZERO is accepted, or in a wave step done at once; MHINT sets H and raises the
power level. -/
def Sys2Proof.Claims.MatrixTiles : Prop :=
  ∀ (s : State) (w : Bool) (n : BitVec 2), s.ordinary = true →
    let k := s.me.coreNo
    let core := s.core k
    (s.me.phase = 0 → core.tile w s.cur n = none → core.tileWait = [] → core.tiles.length < 4 →
      (w = true → streamActive s k = false) →
      ∃ t, exec (.tclaim w n) s = .next t ∧ Claims.OnCore s t ∧ (t.core k).tileWait = [] ∧
        (t.core k).tiles = core.tiles ++ [{ wave := w, cx := s.cur, name := n, data := 0 }]) ∧
    (s.me.phase = 0 → (core.tile w s.cur n).isSome = true →
      ∃ t, exec (.tclaim w n) s = .next t ∧
        Claims.Records s t { code := 0x29, info := [(Spec.code (.t n)).setWidth 64], taddr := 0, src := 4 }) ∧
    (∀ tl, core.tile w s.cur n = some tl → (w = true → tl.cx = s.cur ∧ streamActive s k = false) →
      tileBusy core w s.cur n = false →
      exec (.trel w n) s = .next ((s.modCore k fun c => { c with tiles := c.tiles.filter fun u =>
        !(u.wave == w && u.name == n && (w || u.cx == s.cur)) }).ends id)) ∧
    (core.tile w s.cur n = none →
      ∃ t, exec (.trel w n) s = .next t ∧
        Claims.Records s t { code := 0x29, info := [(Spec.code (.t n)).setWidth 64], taddr := 0, src := 4 }) ∧
    (s.me.wave = none → (core.tile w s.cur n).isSome = true → (w = true → streamActive s k = false) →
      core.matrix.queue.length < 8 →
      ∃ t q m, exec (.tzero w n) s = .next t ∧ Claims.OnCore s t ∧ t.core k = { core with matrix := m } ∧
        m.queue = core.matrix.queue ++ [q] ∧ q.instr = .tzero w n ∧ q.cx = s.cur ∧ q.work = 8 ∧
        m.level = Claims.raised core.matrix.level) ∧
    (s.me.wave.isSome = true → (core.tile true s.cur n).isSome = true →
      exec (.tzero w n) s = .next ((s.modCore k fun c => Claims.withTile c true 0 n 0).ends id)) ∧
    (∀ h, ∃ t m, exec (.mhint h) s = .next t ∧ Claims.OnCore s t ∧ t.core k = { core with matrix := m } ∧
      m.hint = h.toNat ∧ m.queue = core.matrix.queue ∧ m.level = Claims.raised core.matrix.level)

/-- R238 to R243, R246 to R248: MMA and MMAG. -/
def Sys2Proof.Claims.MatrixMultiply : Prop :=
  ∀ (s : State) (o : MmaOp), Claims.Multiplies s (.mma o) false o ∧ Claims.Multiplies s (.mmag o) true o

/-- R251, R252: TST and TLD are accepted with the marks of their rows; of no rows or columns they do nothing. -/
def Sys2Proof.Claims.TileTransfer : Prop :=
  ∀ (s : State) (o : TileIo), s.ordinary = true →
    let e := Claims.extentsOf s o.ext (s.val o.c)
    let rs := tioRuns o (s.val o.off) e.1 e.2
    let core := s.core s.me.coreNo
    (core.tile o.w s.cur o.tile).isSome = true → e.1 ≤ 32 → e.2 ≤ 32 →
    (∀ sat rm d, let i : Instr := .tst sat rm d o
      Instr.wf false i = true → starts i s = true →
      ((e.1 = 0 ∨ e.2 = 0) → exec i s = .next (s.ends id)) ∧
      (e.1 ≠ 0 → e.2 ≠ 0 → rs.all (Claims.runFits s true) = true → (o.w = true → streamActive s s.me.coreNo = false) →
        Claims.engineFree s = true → Claims.rowsFree s true rs = true →
        ∃ t q, exec i s = .next t ∧ Claims.Accepts s t q (runRows rs) true ∧ q.instr = i ∧ q.work = 4 * e.1 ∧
          q.args = [s.val o.off, BitVec.ofNat 64 e.1, BitVec.ofNat 64 e.2, s.val d, s.me.ctl.srk])) ∧
    (let i : Instr := .tld o
     Instr.wf false i = true → starts i s = true →
      ((e.1 = 0 ∨ e.2 = 0) → exec i s = .next (s.ends id)) ∧
      (e.1 ≠ 0 → e.2 ≠ 0 → rs.all (Claims.runFits s false) = true → (o.w = true → streamActive s s.me.coreNo = false) →
        Claims.engineFree s = true → Claims.rowsFree s false rs = true →
        ∃ t q, exec i s = .next t ∧ Claims.Accepts s t q (runRows rs) false ∧ q.instr = i ∧ q.work = 4 * e.1))

/-- R235 to R237, R250, R254: a free tile is claimed and a held one is not claimed again; TREL ends the claim of a tile
that no accepted operation works on; TZERO is accepted, or in a wave step done at once; MHINT sets H and raises the
power level. R251, R252: TST and TLD are accepted with the marks of their rows; of no rows or columns they do nothing.
A 0x29 record carries src 4 at issue (DEDUCED, log entry 27). -/
def Obligations.MatrixTiles : Prop := Sys2Proof.Claims.MatrixTiles ∧ Sys2Proof.Claims.TileTransfer

/-- R108, R109, R246, R250 to R254: what a completed operation leaves, and the steps of the power ramp. -/
def Obligations.MatrixEvents : Prop :=
  ∀ (s : State) (core : Nat),
    let k := s.core core
    let m := k.matrix
    (∀ o, Claims.workDone s core o →
      (∀ a, o.instr = .mma a →
        ∃ t, exec (.matrixOpComplete core) s = .next t ∧ Claims.Finished s t core o (Claims.withTile k false o.cx a.d
          (Claims.product k (mmaShape false a (o.args.getD 4 0).toNat (o.args.getD 5 0).toNat (o.args.getD 0 0)
            (o.args.getD 1 0) (o.args.getD 2 0) (o.args.getD 3 0) 0) o.latch (Claims.tileData k false o.cx a.d)))) ∧
      (∀ a, o.instr = .mmag a →
        ∃ t, exec (.matrixOpComplete core) s = .next t ∧ Claims.Finished s t core o (Claims.withTile k false o.cx a.d
          (Claims.product k (mmaShape true a (o.args.getD 4 0).toNat (o.args.getD 5 0).toNat (o.args.getD 0 0)
            (o.args.getD 1 0) 0 (o.args.getD 3 0) 0) o.latch (Claims.tileData k false o.cx a.d)))) ∧
      (∀ w n, o.instr = .tzero w n →
        ∃ t, exec (.matrixOpComplete core) s = .next t ∧ Claims.Finished s t core o (Claims.withTile k w o.cx n 0)) ∧
      (∀ a, o.instr = .tld a →
        ∃ t, exec (.matrixOpComplete core) s = .next t ∧ Claims.Finished s t core o (Claims.withTile k a.w o.cx a.tile
          (tileOf fun i j =>
            match (tioRuns a (o.args.getD 0 0) (o.args.getD 1 0).toNat (o.args.getD 2 0).toNat)[i]? with
            | some r => if j < (o.args.getD 2 0).toNat then
                tldElem a.fmt (k.padVal (r.off + j * tioZ a) (tioZ a))
              else tileElem (Claims.tileData k a.w o.cx a.tile) i j
            | none => tileElem (Claims.tileData k a.w o.cx a.tile) i j))) ∧
      (∀ sat rm d a, o.instr = .tst sat rm d a →
        let rs := tioRuns a (o.args.getD 0 0) (o.args.getD 1 0).toNat (o.args.getD 2 0).toNat
        (∀ r ∈ rs, k.isShared (r.off / 128) = false) →
        ∃ t, exec (.matrixOpComplete core) s = .next t ∧ Claims.Finished s t core o
          ((rs.mapIdx fun i r => (r.off, (List.range (o.args.getD 2 0).toNat).flatMap fun j =>
              bytesOf (tioZ a) (BitVec.ofNat 64 (tstElem a.fmt sat rm (o.args.getD 3 0 + BitVec.ofNat 64 (32 * i + j))
                (o.args.getD 4 0) (tileElem (Claims.tileData k a.w o.cx a.tile) i j))))).foldl
            (fun k r => k.writePad r.1 r.2) k))) ∧
    (m.since + 128 ≤ s.cycle → (m.level = 1 ∨ m.level = 2 ∨ m.level = 5 ∨ m.level = 6 ∨ m.level = 7 ∨
        (m.level = 3 ∧ (s.die (dieOfCore core)).thr = false)) →
      ∃ t m', exec (.rampLevelStep core) s = .next t ∧ t.core core = { k with matrix := m' } ∧
        m'.level = (m.level + 1) % 8 ∧ m'.since = s.cycle ∧ m'.queue = m.queue ∧ t.ctxs = s.ctxs ∧ t.mem = s.mem) ∧
    (m.level = 4 → m.queue = [] → m.hint = 0 → m.held = false → m.idleSince + 640 ≤ s.cycle →
      ∃ t m', exec (.rampIdleDescent core) s = .next t ∧ t.core core = { k with matrix := m' } ∧
        m'.level = 5 ∧ m'.since = s.cycle ∧ t.ctxs = s.ctxs ∧ t.mem = s.mem) ∧
    (m.hint ≠ 0 → m.hintAt + 8192 ≤ s.cycle →
      ∃ t m', exec (.hintLapse core) s = .next t ∧ t.core core = { k with matrix := m' } ∧
        m'.hint = 0 ∧ m'.level = m.level ∧ m'.queue = m.queue ∧ t.ctxs = s.ctxs ∧ t.mem = s.mem)

/-- R256 to R260: WMMA multiplies the chunks that an edge core loads and the others receive, hands both on, and advances
the offsets of the edges. -/
def Sys2Proof.Claims.WaveMultiply : Prop :=
  ∀ (e5 ia ib nl wl : Bool) (d : BitVec 2) (a b : BitVec 5) (s : State) (w : WavePart) (old : Tile),
    let i : Instr := .wmma e5 ia ib nl wl d a b
    let k := s.me.coreNo
    let st := s.streams.getD w.stream {}
    let ra := !wl || colOfCore k == st.col0
    let rb := !nl || rowOfCore k == st.row0
    let chunk (r : BitVec 5) : BitVec 8192 := ofBytes 8192 ((s.core k).readPad (s.me.seen.getS r).toNat 1024)
    let x := if ra then chunk a else latchAt (neighbourWave s (k - 1) st.s).east (w.step + 1)
    let y := if rb then chunk b
      else latchAt (neighbourWave s (k - 32) st.s).south (if st.diag then w.step + 1 else w.step)
    Instr.wf true i = true → s.ordinary = true → s.me.wave = some w → starts i s = true →
    (s.core k).tile true s.cur d = some old →
    (ra = true → (s.padRegion (s.me.seen.getS a).toNat 1024 128).isSome = true) →
    (rb = true → (s.padRegion (s.me.seen.getS b).toNat 1024 128).isSome = true) →
    ∃ t u m, exec i s = .next t ∧
      t.core k = { Claims.withTile (s.core k) true s.cur d (tileOf fun r c => blockAdd (tileElem old.data r c)
        (blockSum ((List.range 32).map fun kk =>
          ((if e5 then FloatF.e5m2 else FloatF.e4m3n).value (chunkElem x r kk),
            FloatF.e4m3n.value (chunkElem y c kk))))) with matrix := m } ∧
      t.me.wave = some u ∧ u.east.head? = some { step := w.step, val := x } ∧
      u.south.head? = some { step := w.step, val := y } ∧
      (let c := if ra && ia then s.me.putS a (s.me.getS a + 1024) else s.me
       SameRegs t.me (if rb && ib then c.putS b (c.getS b + 1024) else c)) ∧
      t.me.flags = s.me.flags ∧ t.mem = s.mem ∧ ∀ j, j ≠ k → t.core j = s.core j

/-- R238 to R243, R246 to R248: MMA and MMAG. R256 to R260: WMMA multiplies the chunks that an edge core loads and the
others receive, hands both on, and advances the offsets of the edges. WMMA checks the states of both its offset
registers on every core (DEDUCED, log entry 69). -/
def Obligations.MatrixMultiply : Prop := Sys2Proof.Claims.MatrixMultiply ∧ Sys2Proof.Claims.WaveMultiply

/-! ## Class 5: bounded values and crossbar arrays -/

namespace Sys2Proof.Claims

open Sys2Proof.Machine

/-- An instruction whose one effect is a b-register, lane by lane. -/
def Lanes (s : State) (i : Instr) (d : BitVec 3) (f : Nat → BLane) : Prop :=
  starts i s = true → exec i s = .next (s.ends fun c => c.putB d (BReg.ofLanes f))

/-- A multiplier: the lanes of a v-register, or an s-register broadcast. -/
def bcast (s : State) : Spec → Row
  | .v n => s.me.seen.getV n
  | r => Row.splat ((s.val r).setWidth 32)

/-- The array is claimed by the context, and no self-test or lasting fault holds it (R265, R376). -/
def usable (s : State) (n : Nat) : Bool :=
  (s.arr n).claim == some s.cur && !unitLasting s (n / 640) (arrUnit s n) && !unitFenced s (n / 640) (arrUnit s n)

/-- An instruction that changes only one array beside the bookkeeping of its context. -/
def OnArray (s t : State) (n : Nat) : Prop :=
  SameRegs t.me s.me ∧ t.me.flags = s.me.flags ∧ t.mem = s.mem ∧ t.cores = s.cores ∧ OthersSame s.cur s t ∧
    ∀ m, m ≠ n → t.arr m = s.arr m

/-- The array has one command more at the end of its queue (R268). -/
def Commands (s t : State) (n : Nat) (i : Instr) (args : List Word) : Prop :=
  t.arr n = { s.arr n with queue := (t.arr n).queue } ∧
    (t.arr n).queue.length = (s.arr n).queue.length + 1 ∧
    ∃ q, (t.arr n).queue.getLast? = some q ∧ q.instr = i ∧ q.args = args ∧ q.cx = s.cur ∧ q.core = s.me.coreNo

/-- No L1 holds a dirty copy of the line (R35). -/
def noDirty (s : State) (pa : Nat) : Bool := s.cores.all fun k => k.2.l1.all fun y => !(y.dirty && y.pa == pa)

/-- `n` rows from offset `o` may be read on path a (R183, R272, R275). -/
def rowsRead (s : State) (o : Word) (n : Nat) : Bool :=
  o.toNat % 128 == 0
    && ((List.range n).all fun k => (s.padRegion (o + BitVec.ofNat 64 (128 * k)).toNat 128 128).isSome)
    && s.padOpen 4 o.toNat (128 * n) false
    && (List.range n).all fun k => !(s.core s.me.coreNo).isShared (o.toNat / 128 + k)
      || ((s.core s.me.coreNo).fillOf (o.toNat / 128 + k)).full

/-- `n` rows from offset `o` lie in regions private to the current context (R273). -/
def rowsPrivate (s : State) (o : Word) (n : Nat) : Prop :=
  ∀ k, k < n → ∃ g, (s.core s.me.coreNo).regionOf (o.toNat / 128 + k) = some g ∧ g.shared = false ∧ g.cxid = s.me.cxid

/-- The packed source rows that a verification keeps: 64 words a row (R263, R273). -/
def sourceWords (s : State) (o : Word) (n : Nat) : List Word :=
  (List.range n).flatMap fun k =>
    (List.range 64).map fun j => (packedRow (s.core s.me.coreNo) o.toNat k).extractLsb' (64 * j) 64

/-- The first command of an array, whose time has come. -/
def commandDue (s : State) (n : Nat) (c : ArrCmd) : Prop :=
  (s.arr n).queue.head? = some c ∧ ∃ t, c.due = some t ∧ t ≤ s.cycle

/-- The command has left its array; memory, cores and other arrays are as they were. -/
def CommandDone (s t : State) (n : Nat) (c : ArrCmd) : Prop :=
  (t.arr n).queue.map (·.id) = ((s.arr n).queue.filter fun q => q.id != c.id).map (·.id) ∧ t.mem = s.mem ∧
    t.cores = s.cores ∧ ∀ m, m ≠ n → t.arr m = s.arr m

/-- Weight row `k` of the source that a verification holds. -/
def sourceRow (c : ArrCmd) (k : Nat) : BitVec 4096 :=
  (((c.args.drop 2).drop (64 * k)).take 64).foldr (fun w (a : BitVec 4096) => (a <<< 64) ||| w.setWidth 4096) 0

end Sys2Proof.Claims

/-- R281, R287, R288: the bounded arithmetic writes every lane of D: the exact result in FP32 with the bound of Fin, the
smaller or larger value with the larger bound. -/
def Sys2Proof.Claims.BoundedArith : Prop :=
  ∀ s : State,
    (∀ d a b, Claims.Lanes s (.badd d a b) d fun l =>
      let x := (s.me.seen.getB a).lane l
      let y := (s.me.seen.getB b).lane l
      finLane (x.val.add y.val) (x.bnd.add y.bnd)) ∧
    (∀ d a b, Claims.Lanes s (.baddSub d a b) d fun l =>
      let x := (s.me.seen.getB a).lane l
      let y := (s.me.seen.getB b).lane l
      finLane (x.val.sub y.val) (x.bnd.add y.bnd)) ∧
    (∀ d a b, Instr.wf false (.bmul d a b) = true → Claims.Lanes s (.bmul d a b) d fun l =>
      let x := (s.me.seen.getB a).lane l
      let k := f32Val ((Claims.bcast s b).lane l)
      finLane (x.val.mul k) (scaleBound k x.bnd)) ∧
    (∀ d a b, Instr.wf false (.bfma d a b) = true → Claims.Lanes s (.bfma d a b) d fun l =>
      let x := (s.me.seen.getB a).lane l
      let z := (s.me.seen.getB d).lane l
      let k := f32Val ((Claims.bcast s b).lane l)
      finLane ((x.val.mul k).add z.val) ((scaleBound k x.bnd).add z.bnd)) ∧
    (∀ d a b, Claims.Lanes s (.bminmaxMin d a b) d fun l =>
      let x := (s.me.seen.getB a).lane l
      let y := (s.me.seen.getB b).lane l
      if x.val.isNan || y.val.isNan then { v := f32Nan, b := f32Inf }
      else BLane.of (minCode x.v y.v) (maxBound x.b y.b)) ∧
    (∀ d a b, Claims.Lanes s (.bminmaxMax d a b) d fun l =>
      let x := (s.me.seen.getB a).lane l
      let y := (s.me.seen.getB b).lane l
      if x.val.isNan || y.val.isNan then { v := f32Nan, b := f32Inf }
      else BLane.of (maxCode x.v y.v) (maxBound x.b y.b)) ∧
    (∀ d a, Claims.Lanes s (.bactRelu d a) d fun l =>
      let x := (s.me.seen.getB a).lane l
      if x.val.isNan then { v := f32Nan, b := f32Inf } else BLane.of (maxCode x.v 0) x.b) ∧
    (∀ d a b, Instr.wf false (.bactClamp d a b) = true → Claims.Lanes s (.bactClamp d a b) d fun l =>
      let x := (s.me.seen.getB a).lane l
      let lo : BitVec 32 := bits (s.val b) 0 32
      let hi : BitVec 32 := bits (s.val b) 32 32
      if x.val.isNan || f32IsNan lo || f32IsNan hi then { v := f32Nan, b := f32Inf }
      else BLane.of (minCode (maxCode x.v lo) hi) x.b) ∧
    (∀ d a, Claims.Lanes s (.bcvtF32 d a) d fun l => BLane.of ((s.me.seen.getV a).lane l) 0) ∧
    (∀ d a, Claims.Lanes s (.bcvtI32 d a) d fun l =>
      finLane (Val.ofInt ((s.me.seen.getV a).lane l).toInt) Val.zero) ∧
    (∀ d a, Claims.Lanes s (.bcvtBf16 d a) d fun l => bcvtBf16Lane ((s.me.seen.getB a).lane l))

/-- R289, R290: ACCEPT counts itself in PROV. On a grid it writes every lane when each rounds to it, and else faults with
0x18 naming the lowest lane that does not; ACCEPT.raw gives up the bounds and sets FLAGS.B. -/
def Sys2Proof.Claims.Accept : Prop :=
  ∀ (s : State) (d : BitVec 4) (a : BitVec 3),
    let prov (c : Ctx) : Ctx := { c with ctl := { c.ctl with prov := c.ctl.prov + 1 } }
    let x (l : Nat) : BLane := (s.me.seen.getB a).lane l
    (∀ i32 e, starts (.acceptGrid i32 d a e) s = true →
      (∀ f : Nat → BitVec 32, (∀ l, l < 32 → acceptLane i32 e.toInt (x l) = some (f l)) →
        exec (.acceptGrid i32 d a e) s = .next (s.ends fun c => (prov c).putV d (Row.ofLanes f))) ∧
      (∀ l, l < 32 → acceptLane i32 e.toInt (x l) = none → (∀ m, m < l → (acceptLane i32 e.toInt (x m)).isSome = true) →
        exec (.acceptGrid i32 d a e) s = .next (takeException
          [{ code := 0x18, info := [(Spec.code (.b a)).setWidth 64, BitVec.ofNat 64 l], taddr := 0, grid := true }]
          (s.ends prov)))) ∧
    (starts (.acceptRaw d a) s = true →
      exec (.acceptRaw d a) s = .next (s.ends fun c =>
        ({ prov c with flags := { c.flags with b := true } } : Ctx).putV d
          (Row.ofLanes fun l => if (x l).val.isNan then f32Nan else (x l).v))) ∧
    (∀ i32 e (y : BLane), acceptLane i32 e y ≠ none → y.bnd.cmp (.fin false 1 (e - 1)) = .lt ∧
      y.val.isNan = false)

/-- R281, R287, R288: the bounded arithmetic writes every lane of D: the exact result in FP32 with the bound of Fin,
the smaller or larger value with the larger bound. R289, R290: ACCEPT counts itself in PROV. On a grid it writes every
lane when each rounds to it, and else faults with 0x18 naming the lowest lane that does not; ACCEPT.raw gives up the
bounds and sets FLAGS.B. That CLAMP orders -0 below +0, and that an infinite result has the bound +infinity, are
DEDUCED, log entry 40; that ACCEPT counts itself before its value is refused is DEDUCED, log entry 39. -/
def Obligations.BoundedArith : Prop := Sys2Proof.Claims.BoundedArith ∧ Sys2Proof.Claims.Accept

/-- R284 to R286: BLD parks for the lines of a page of bounded values that R284 opens to the context and reads them; a
misaligned one faults with 0x19. BST marks its lines, which no L1 holds dirty, sends its bytes to the home and counts
in STQ, and BST_COMPLETE writes them. The order of the checks of translation, alignment and page is DEDUCED, log entry
40. -/
def Obligations.BoundedMemory : Prop :=
  ∀ (s : State) (a : Spec) (x : BitVec 48) (t : Tlb) (y : BLayout),
    let ea := effAddr (s.val a) x
    (∀ d, Instr.wf false (.bld d a x) = true → s.maps .analog ea t = true → bLayout t.e = some y →
      (starts (.bld d a x) s = true → ea.toNat % y.bytes = 0 →
        (pageKind t.e s.me.cxid (ownerLive s (Leaf.owner t.e)) = .bprivOwn ∨
          pageKind t.e s.me.cxid (ownerLive s (Leaf.owner t.e)) = .publBounded) →
        ∃ u, exec (.bld d a x) s = .next u ∧ Claims.ParksForData (.bld d a x) s u ∧ u.me.ctl = s.me.ctl ∧
          ∀ l ∈ linesOf ea y.bytes, Claims.cached s l = none → Claims.AsksLine s u t l false) ∧
      (starts (.bld d a x) s = true → s.me.ctl.thnd = 0 → ea.toNat % y.bytes ≠ 0 →
        ∃ u, exec (.bld d a x) s = .next u ∧
          Claims.Records s u { code := 0x19, info := [ea.setWidth 64, BitVec.ofNat 64 y.bytes], taddr := ea }) ∧
      (runs (.bld d a x) s = true → Claims.hasData s →
        exec (.bld d a x) s = .next ((Claims.taken s).ends fun c =>
          c.putB d (BReg.ofLanes (bldLane y (bytesAtHand s ea y.bytes)))))) ∧
    (∀ b bs, Instr.wf false (.bst a b x) = true → starts (.bst a b x) s = true → s.maps .analog ea t = true →
      bLayout t.e = some y → ea.toNat % y.bytes = 0 →
      pageKind t.e s.me.cxid (ownerLive s (Leaf.owner t.e)) = .bprivOwn →
      bstBytes y (s.me.seen.getB b) = .ok bs →
      (∀ l ∈ linesOf ea y.bytes, markBlocks s (.line (t.pa l / 64 * 64)) 4 true = false ∧
        Claims.noDirty s (t.pa l / 64 * 64) = true) →
      ∃ u op, exec (.bst a b x) s = .next u ∧ Claims.CountsOne s u ∧ u.pending = s.pending ++ [.bstComplete op] ∧
        (∃ p, u.net.find op = some p ∧ p.pa = t.pa ea ∧ p.data = bs ∧ p.cx = s.cur ∧ p.op = op) ∧
        u.marks = s.marks ++ (linesOf ea y.bytes).map fun l =>
          { unit_ := .line (t.pa l / 64 * 64), path := 4, write := true, cx := s.cur, op : Mark }) ∧
    (∀ b bs l, bstBytes y (s.me.seen.getB b) = .error l → Instr.wf false (.bst a b x) = true →
      starts (.bst a b x) s = true → s.maps .analog ea t = true → bLayout t.e = some y → ea.toNat % y.bytes = 0 →
      pageKind t.e s.me.cxid (ownerLive s (Leaf.owner t.e)) = .bprivOwn →
      bs = ea + BitVec.ofNat 56 (2 * l) →
      exec (.bst a b x) s =
        .next (takeException [{ code := 0x18, info := [bs.setWidth 64], taddr := bs }] (s.ends id))) ∧
    (∀ op p, s.net.find op = some p → s.here p.pa = true →
      (let us := storeUnits s p ((List.range (p.data.length / 64)).map fun k => p.pa + 64 * k)
       firstLasting s us = none ∧ anyFenced s us = false) →
      ((List.range (p.data.length / 64)).all fun k => !heldBehind s (.line (p.pa + 64 * k)) 4 p.cx op true) = true →
      ∃ u, exec (.bstComplete op) s = .next u ∧ u.mem = (s.writeBytes p.pa p.data).mem ∧ u.net.find op = none ∧
        u.marks = s.marks.filter (fun m => m.op != op) ∧ OthersSame p.cx s u ∧ u.cores = s.cores ∧
        SameRegs (u.ctx p.cx) (s.ctx p.cx))

/-- R264 to R278, R280, R285: claims of an array, the commands that its queue takes, the verifications and calibrations
that wait for their answers, and the reads of its state. The 0x32 and 0x30 records carry src 5 at issue (DEDUCED, log
entry 27); a verification reads its source rows as it is accepted (DEDUCED, log entry 33). -/
def Obligations.ArrayCommands : Prop :=
  ∀ (s : State) (arr : BitVec 2),
    let n := arrOf s.me.coreNo arr
    let free := (s.arr n).queue.length < 4
    (s.me.phase = 0 → (s.arr n).claim = none → (∀ w ∈ (s.cluster (n / 4)).arrWait, w.2 ≠ arr) →
      unitLasting s (n / 640) (arrUnit s n) = false → unitFenced s (n / 640) (arrUnit s n) = false →
      ∃ t, exec (.aclaim arr) s = .next t ∧ Claims.OnArray s t n ∧ t.arr n = { s.arr n with claim := some s.cur }) ∧
    (s.me.phase = 0 → (s.arr n).claim = some s.cur →
      ∃ t, exec (.aclaim arr) s = .next t ∧
        Claims.Records s t { code := 0x32, info := [arrName s n, s.me.cxid.setWidth 64], taddr := 0, src := 5 }) ∧
    ((s.arr n).claim ≠ some s.cur →
      ∃ t, exec (.arel arr) s = .next t ∧
        Claims.Records s t { code := 0x32, info := [arrName s n, claimWord s n], taddr := 0, src := 5 }) ∧
    (Claims.usable s n = true →
      ((s.arr n).queue = [] →
        ∃ t, exec (.arel arr) s = .next t ∧ Claims.OnArray s t n ∧
          t.arr n = { s.arr n with claim := none, buf := .empty }) ∧
      (∀ a b r, Instr.wf false (.awr a b r arr) = true → starts (.awr a b r arr) s = true → free →
        Claims.rowsRead s (s.val b) (4 * (r.toNat + 1)) = true →
        ∃ t, exec (.awr a b r arr) s = .next t ∧ Claims.OnArray s t n ∧
          Claims.Commands s t n (.awr a b r arr) [s.val a, s.val b]) ∧
      (∀ a b c r, Instr.wf false (.avfy a b c r arr) = true → starts (.avfy a b c r arr) s = true → free →
        Claims.rowsRead s (s.val b) (4 * (r.toNat + 1)) = true → Claims.rowsPrivate s (s.val b) (4 * (r.toNat + 1)) →
        ∃ t, exec (.avfy a b c r arr) s = .next t ∧ Claims.OnArray s t n ∧ t.me.instr = some (.avfy a b c r arr) ∧
          Claims.Commands s t n (.avfy a b c r arr)
            (s.val a :: s.val c :: Claims.sourceWords s (s.val b) (r.toNat + 1))) ∧
      (∀ d a, Instr.wf false (.amvm d a arr) = true → d ≠ 0 → starts (.amvm d a arr) s = true → free →
        Claims.rowsRead s (s.val a) 8 = true → (s.me.regSt (.s d) = .full ∨ s.me.regSt (.s d) = .dead) →
        ∃ t op, exec (.amvm d a arr) s = .next t ∧ SameRegs t.me (s.me.setRegSt (.s d) (.reserved .amvm op)) ∧
          t.me.flags = s.me.flags ∧ t.mem = s.mem ∧ t.cores = s.cores ∧
          Claims.Commands s t n (.amvm d a arr) [s.val a]) ∧
      (∀ d, starts (.astat d arr) s = true → (s.arr n).queue = [] →
        exec (.astat d arr) s = .next (s.ends fun c => c.putB d (BReg.ofLanes fun l =>
          { v := statLane (s.arr n) l, b := f32Inf }))) ∧
      (∀ d g, starts (.bldBuf d g arr) s = true → (s.arr n).queue = [] →
        (∀ q sat bnd sc, (s.arr n).buf = .valid q sat bnd sc →
          exec (.bldBuf d g arr) s = .next (s.ends fun c => c.putB d (BReg.ofLanes fun l =>
            { v := f32Of (q.getD (32 * g.toNat + l) 0) sc
              b := if sat.getD (32 * g.toNat + l) false then f32Inf else f32Of bnd sc }))) ∧
        ((s.arr n).buf = .empty →
          exec (.bldBuf d g arr) s = .next (s.ends fun c => c.putB d (BReg.ofLanes fun _ => { v := 0, b := f32Inf }))) ∧
        (∀ c dev, (s.arr n).buf = .withheld c dev →
          exec (.bldBuf d g arr) s = .next (takeException
            [{ code := 0x30, info := [arrName s n, BitVec.ofNat 64 c, BitVec.ofNat 64 dev], taddr := 0, src := 5 }]
            (s.ends id)))) ∧
      (∀ g sc, s.me.phase = 0 → free →
        ∃ t, exec (.acal g sc arr) s = .next t ∧ Claims.OnArray s t n ∧ t.me.instr = some (.acal g sc arr) ∧
          Claims.Commands s t n (.acal g sc arr) [])) ∧
    (∀ a b c r, s.me.phase = 1 → answered s = true →
      ∃ t, exec (.avfy a b c r arr) s = .next t ∧ Claims.Completes s t ∧ t.draws = s.draws) ∧
    (∀ g sc, s.me.phase = 1 → answered s = true →
      ∃ t, exec (.acal g sc arr) s = .next t ∧ Claims.Completes s t ∧ t.draws = s.draws)

/-- R263, R270 to R278: what a completed command leaves: the weights written or verified, a calibration within its
range or its fault, and a product within the bound law of R276, or withheld. The outcome of a verification or
calibration and the deviations are free (DESIGN CHOICE, log entry 8), and so is BND, a number of 1 to 16 (DESIGN
CHOICE, log entry 34). -/
def Obligations.ArrayEvents : Prop :=
  ∀ (s : State) (n : Nat) (c : ArrCmd), Claims.commandDue s n c →
    (∀ a b r arr, c.instr = .awr a b r arr →
      ∃ t, exec (.awrComplete n) s = .next t ∧ Claims.CommandDone s t n c ∧ t.ctxs = s.ctxs ∧ (t.arr n).tag = 0 ∧
        (∀ k, k ≤ r.toNat → (t.arr n).weights.getD (((c.args.getD 0 0).toNat + k) % 1024) 0 =
          packedRow (s.core c.core) (c.args.getD 1 0).toNat k) ∧
        (∀ j, (∀ k, k ≤ r.toNat → j ≠ ((c.args.getD 0 0).toNat + k) % 1024) →
          (t.arr n).weights.getD j 0 = (s.arr n).weights.getD j 0)) ∧
    (∀ a b tag r arr, c.instr = .avfy a b tag r arr →
      ∃ t fs, exec (.avfyComplete n) s = .next t ∧ Claims.CommandDone s t n c ∧
        (t.ctx c.cx).answers.find c.id = some { faults := fs } ∧ SameRegs (t.ctx c.cx) (s.ctx c.cx) ∧
        ((fs = [] ∧ (t.arr n).tag = (c.args.getD 1 0).setWidth 16 ∧
            ∀ k, k ≤ r.toNat →
              (t.arr n).weights.getD (((c.args.getD 0 0).toNat + k) % 1024) 0 = Claims.sourceRow c k) ∨
          ∃ row, row < 1024 ∧ fs = [{ code := 0x31, info := [arrName s n, BitVec.ofNat 64 row], src := 5 }])) ∧
    (∀ g sc arr, c.instr = .acal g sc arr →
      ∃ t fs, exec (.acalComplete n) s = .next t ∧ Claims.CommandDone s t n c ∧
        (t.ctx c.cx).answers.find c.id = some { faults := fs } ∧ SameRegs (t.ctx c.cx) (s.ctx c.cx) ∧
        ((fs = [] ∧ (t.arr n).calibrated = true ∧ 1 ≤ (t.arr n).bnd ∧ (t.arr n).bnd ≤ 15 ∧
            (t.arr n).scale = sc.toNat ∧ (t.arr n).products = 0 ∧ (t.arr n).withheldN = 0 ∧
            (t.arr n).glim = if g = 0 then ((t.arr n).bnd + 1) / 2 else g.toNat) ∨
          (fs = [{ code := 0x31, info := [arrName s n, BitVec.allOnes 64], src := 5 }] ∧
            (t.arr n).calibrated = false))) ∧
    (∀ r a arr, c.instr = .amvm r a arr → (s.arr n).calibrated = true → 1 ≤ (s.arr n).bnd →
      ∃ t, exec (.amvmComplete n) s = .next t ∧ Claims.CommandDone s t n c ∧
        ((∃ q sat, (t.arr n).buf = .valid q sat (s.arr n).bnd (s.arr n).scale ∧
            ∀ j, j < 1024 → sat.getD j false = false →
              (q.getD j 0 * 2 ^ (s.arr n).scale - idealOut (s.arr n) (s.core c.core) (c.args.getD 0 0).toNat j).natAbs ≤
                (s.arr n).bnd * 2 ^ (s.arr n).scale) ∨
          ∃ g dev, g < 16 ∧ (t.arr n).buf = .withheld g dev) ∧
        ((s.ctx c.cx).regSt (.s r) = .reserved .amvm c.id →
          (t.ctx c.cx).regSt (.s r) = .prot .amvm (driftFault s n (t.arr n).buf) ∧
          (t.ctx c.cx).getS r = amvmToken n (t.arr n).buf)) ∧
    (∀ r a arr, c.instr = .amvm r a arr → (s.arr n).calibrated = false →
      ∃ t, exec (.amvmComplete n) s = .next t ∧ Claims.CommandDone s t n c ∧ (t.arr n).buf = .withheld 16 0)

/-! ## Class 6: messages, barriers and copies -/

namespace Sys2Proof.Claims

open Sys2Proof.Machine

/-- A core address operand names a core (R18, R298). -/
def coreOk (x : Word) : Bool := bits x 20 44 == 0 && namesCore (bits x 0 20)
/-- A remote row address (R294). -/
def rowOk (x : Word) : Bool :=
  bits x 38 26 == 0 && namesCore (bits x 18 20) && (bits x 0 18 : BitVec 18).toNat % 128 == 0

/-- The 128 bytes that SYNST and MCAST read at issue: a v-register, or a row that is open and full. -/
def rowIs (s : State) (b : Spec) (x : Row) : Prop :=
  match b with
  | .v n => x = s.me.seen.getV n
  | .sp n | .spi n =>
    let o := s.me.seen.getS n
    ∃ g, s.padRegion o.toNat 128 128 = some g ∧ s.padOpen 2 o.toNat 128 false = true ∧ s.padFull g o.toNat 128 = true ∧
      heldBehind s (.row s.me.coreNo (o.toNat / 128)) 2 s.cur s.nextId false = false ∧
      x = (s.core s.me.coreNo).row (o.toNat / 128)
  | _ => False

/-- The bytes of a DEP: its register, narrowed unless it is a b-register (R299). -/
def depBytes (s : State) (w : Wire) (base : Word) : Spec → List Byte
  | .v n => narrowPayload w base s.me.ctl.srk (s.me.seen.getV n)
  | .b n => bytesOf 256 (s.me.seen.getB n)
  | r => narrowPayload w base s.me.ctl.srk (s.val r)

/-- A multicast: one operation, which waits for an answer from each core of the rectangle, and one packet, to its first
core (R302, R362). -/
def Multicasts (s u : State) (x : Word) (r : Rect) (words : List Word) (w : Wire) (data : List Byte) : Prop :=
  let first : BitVec 20 := coreAddr r.chip (coreNo r.die r.row0 r.col0)
  CountsOne s u ∧
    (Holds u fun p => p.kind = .record ∧ p.cx = s.cur ∧ p.words = [BitVec.ofNat 64 (r.h * r.w)]) ∧
    Holds u fun p => p.kind = .mcast ∧ p.dst = dstOfCore s first ∧ p.cx = s.cur ∧ p.words = x :: words ∧ p.wire = w ∧
      p.data = data

/-- Room among the unanswered row messages, and no overlap with an unanswered rectangle (R297, R302). -/
def mcastFree (s : State) (r : Rect) : Bool :=
  decide (openCount s.me .synst + openCount s.me .mcast < 16) && !(openRects s s.cur).any fun q => q.overlaps r

/-- A message at its target, with nothing before it in its flow. -/
def atTarget (s : State) (id : Nat) (p : Packet) : Prop :=
  s.net.find id = some p ∧ p.arrived = true ∧ flowBlocked s id p = false

/-- An answer without a fault to a message is on its way. -/
def Answers (t : State) (p : Packet) (fs : List FaultRec) : Prop :=
  p.cx ≠ nobody → Holds t fun q => q.kind = .answer ∧ q.op = p.op ∧ q.cx = p.cx ∧ q.faults = fs

/-- The core of a message's target is neither lasting nor fenced (R376). -/
def coreWorks (s : State) (k : Nat) : Prop :=
  unitLasting s (dieOfCore k) (coreUnit s k) = false ∧ unitFenced s (dieOfCore k) (coreUnit s k) = false

/-- The row of a landing may take it: a shared region of a working core, no mark of another path or of an earlier copy of
the same context, and the fill gives `c` (R37, R174, R303). -/
def rowTakes (s : State) (p : Packet) (r : Nat) (c : Core) : Prop :=
  rowRefused s p.dst r = none ∧ rowWaits s p.dst r p true = false ∧
    (s.core p.dst).fill r (widenPayload p.wire 1024 p.data) p.thread = .ok c

end Sys2Proof.Claims

/-- R293 to R302: SEND, DEP, SYNST and MCAST narrow their payload, send it with their tag or ordinal, count in STQ and
complete; SYNLD asks for a row and parks. -/
def Sys2Proof.Claims.MessageSend : Prop :=
  ∀ (s : State) (a b c : Spec) (w : Wire), w.wait = false →
    let x := s.val a
    let base := s.val c
    let key := s.me.ctl.srk
    let name := BitVec.ofNat 64 (s.me.chip.toNat * 2 ^ 20 + s.me.cxid.toNat)
    (∀ q, starts (.send a b c q w) s = true →
      (Claims.coreOk x = true → openCount s.me .send < 16 →
        let tag := s.me.pushes.getD (sendKey (bits x 0 20) q) 0
        ∃ u, exec (.send a b c q w) s = .next u ∧ Claims.CountsOne s u ∧
          u.me.pushes.getD (sendKey (bits x 0 20) q) 0 = tag + 1 ∧
          Sends s u fun p => p.kind = .queueEntry ∧ p.dst = dstOfCore s (bits x 0 20) ∧ p.cx = s.cur ∧
            p.thread = s.me.thread ∧ p.flag = false ∧ p.wire = w ∧ p.seq = tag ∧ p.words = [q.setWidth 64, name] ∧
            p.data = narrowPayload w base key (s.val b)) ∧
      (Claims.coreOk x = false →
        ∃ u, exec (.send a b c q w) s = .next u ∧ Claims.Records s u { code := 0x08, info := [x, 0], taddr := 0 })) ∧
    (∀ d, starts (.dep d a b c w) s = true →
      (bits x 28 36 = 0 →
        let ord := s.me.depNext.getD x.toNat 0
        ∃ u, exec (.dep d a b c w) s = .next u ∧ Claims.CountsOne s u ∧ u.me.depNext.getD x.toNat 0 = ord + 1 ∧
          Sends s u fun p => p.kind = .deposit ∧ p.cx = s.cur ∧ p.wire = w ∧ p.data = Claims.depBytes s w base b ∧
            p.words = [x, d.code.setWidth 64, 0, name, (recordCxid s s.me).setWidth 64] ∧ p.seq = BitVec.ofNat 16 ord ∧
            p.dst = if bits x 20 8 = s.chip then s.me.coreNo else 8192 + (bits x 20 8).toNat) ∧
      (bits x 28 36 ≠ 0 →
        ∃ u, exec (.dep d a b c w) s = .next u ∧
          Claims.Records s u { code := 0x08, info := [x, d.code.setWidth 64], taddr := 0 })) ∧
    (bits x 38 26 ≠ 0 ∨ namesCore (bits x 18 20) = false →
      (starts (.synst a b c w) s = true →
        ∃ u, exec (.synst a b c w) s = .next u ∧ Claims.Records s u { code := 0x08, info := [x, 0], taddr := 0 }) ∧
      (∀ d, Instr.wf false (.synld d a c w) = true → starts (.synld d a c w) s = true →
        ∃ u, exec (.synld d a c w) s = .next u ∧ Claims.Records s u { code := 0x08, info := [x, 0], taddr := 0 })) ∧
    (Rect.of? x = none →
      (∀ o, starts (.mcastRow a b c o w) s = true →
        ∃ u, exec (.mcastRow a b c o w) s = .next u ∧ Claims.Records s u { code := 0x08, info := [x, 0], taddr := 0 }) ∧
      (∀ q, starts (.mcastQ a b c q w) s = true →
        ∃ u, exec (.mcastQ a b c q w) s = .next u ∧ Claims.Records s u { code := 0x08, info := [x, 0], taddr := 0 })) ∧
    (∀ row, starts (.synst a b c w) s = true → s.me.held = [] → Claims.rowOk x = true → Claims.rowIs s b row →
      openCount s.me .synst + openCount s.me .mcast < 16 →
      ∃ u, exec (.synst a b c w) s = .next u ∧ Claims.CountsOne s u ∧
        Sends s u fun p => p.kind = .row ∧ p.dst = dstOfCore s (bits x 18 20) ∧ p.cx = s.cur ∧
          p.thread = s.me.thread ∧ p.flag = false ∧ p.words = [BitVec.ofNat 64 (bits x 0 18).toNat] ∧
          p.wire = w ∧ p.data = narrowPayload w base key row) ∧
    (∀ d, Instr.wf false (.synld d a c w) = true → starts (.synld d a c w) s = true → Claims.rowOk x = true →
      (∀ n, Spec.base? d = some n → (s.padRegion (s.me.seen.getS n).toNat 128 128).isSome = true) →
      ∃ u, exec (.synld d a c w) s = .next u ∧ u.me.instr = some (.synld d a c w) ∧ u.me.phase = 1 ∧
        SameRegs u.me s.me ∧ SameStores s u ∧
        Sends s u fun p => p.kind = .synld ∧ p.dst = dstOfCore s (bits x 18 20) ∧ p.cx = s.cur ∧
          p.wire = w ∧ p.words = [BitVec.ofNat 64 (bits x 0 18).toNat, base, key]) ∧
    (∀ off r row, starts (.mcastRow a b c off w) s = true → Rect.of? x = some r → Claims.mcastFree s r = true →
      s.me.held = [] → Claims.rowIs s b row →
      ∃ u, exec (.mcastRow a b c off w) s = .next u ∧
        Claims.Multicasts s u x r [off.setWidth 64] w (narrowPayload w base key row)) ∧
    (∀ q r, starts (.mcastQ a b c q w) s = true → Rect.of? x = some r → Claims.mcastFree s r = true →
      ∃ u, exec (.mcastQ a b c q w) s = .next u ∧
        Claims.Multicasts s u x r [q.setWidth 64, name] w (narrowPayload w base key (s.val b)) ∧
        u.me.pushes.getD (2 ^ 33 + q.toNat) 0 = s.me.pushes.getD (2 ^ 33 + q.toNat) 0 + 1)

/-- R297, R298, R301: a waiting SEND, DEP, SYNST or MCAST completes once it is answered without a fault, and SYNLD then
writes its register or row. -/
def Sys2Proof.Claims.MessageWait : Prop :=
  ∀ (s : State) (a b c : Spec) (w : Wire), s.me.phase = 1 → answered s = true →
    (w.wait = true →
      (∀ q, ∃ t, exec (.send a b c q w) s = .next t ∧ Claims.Completes s t) ∧
      (∀ d, ∃ t, exec (.dep d a b c w) s = .next t ∧ Claims.Completes s t) ∧
      (∃ t, exec (.synst a b c w) s = .next t ∧ Claims.Completes s t) ∧
      (∀ o, ∃ t, exec (.mcastRow a b c o w) s = .next t ∧ Claims.Completes s t) ∧
      (∀ q, ∃ t, exec (.mcastQ a b c q w) s = .next t ∧ Claims.Completes s t)) ∧
    (∀ op ans, s.me.waits = [op] → s.me.answers.find op = some ans →
      (∀ n, ∃ t, exec (.synld (.v n) a c w) s = .next t ∧ SameStores s t ∧ t.me.flags = s.me.flags ∧
        SameRegs t.me (s.me.putV n (widenPayload w 1024 ans.data))) ∧
      (∀ n g, let o := s.me.seen.getS n
        let k := s.me.coreNo
        s.padRegion o.toNat 128 128 = some g → s.padOpen 2 o.toNat 128 true = true →
        heldBehind s (.row k (o.toNat / 128)) 2 s.cur s.nextId true = false →
        (g.shared = true → ∃ x, (s.core k).fill (o.toNat / 128) 0 s.me.thread = .ok x) →
        ∃ t, exec (.synld (.sp n) a c w) s = .next t ∧ SameArch t.me s.me ∧ t.mem = s.mem ∧
          (t.core k).row (o.toNat / 128) = widenPayload w 1024 ans.data ∧
          (∀ r, r ≠ o.toNat / 128 → (t.core k).row r = (s.core k).row r) ∧ ∀ j, j ≠ k → t.core j = s.core j))

/-- R293 to R302: SEND, DEP, SYNST and MCAST narrow their payload, send it with their tag or ordinal, count in STQ and
complete, or fault with 0x08 for an operand that names no core, no register's context or no rectangle; SYNLD asks for a
row and parks. An MCAST to a queue counts its tags under a key of its sender (DEDUCED, log entry 43); a DEP carries no
ordinal of its own for its receiver, whose directory numbers it (DEDUCED, log entry 77). R297, R298, R301: a waiting SEND, DEP, SYNST or MCAST completes once it is
answered without a fault, and SYNLD then writes its register or row. -/
def Obligations.MessageSend : Prop := Sys2Proof.Claims.MessageSend ∧ Sys2Proof.Claims.MessageWait

/-- R45 to R47, R293, R299 to R303, R335, R347: messages at their targets: an entry joins its queue, a deposit fills the
register reserved for it or is held for it, the directory sends it on, a row fills, a row is read, a forwarding entry
ends. -/
def Obligations.MessageEvents : Prop :=
  ∀ (s : State) (id : Nat) (p : Packet),
    (Claims.atTarget s id p → Claims.coreWorks s p.dst →
      ∀ q, (s.core p.dst).queues.find (p.words.getD 0 0).toNat = some q →
      (q.sender = some ((p.words.getD 1 0).setWidth 28) → (p.seq - q.expect).toNat < q.depth →
        ∃ t r, exec (.queueEntryArrival id) s = .next t ∧ t.mem = s.mem ∧ Claims.Answers t p [] ∧
          (t.core p.dst).queues.find (p.words.getD 0 0).toNat = some r ∧ r.expect = q.expect ∧ r.depth = q.depth ∧
          r.entries = q.entries ++
            [{ tag := p.seq, val := widenPayload p.wire 64 p.data, eos := p.flag, ready := s.cycle }]) ∧
      (q.sender ≠ some ((p.words.getD 1 0).setWidth 28) →
        ∃ t, exec (.queueEntryArrival id) s = .next t ∧ t.cores = s.cores ∧ t.mem = s.mem ∧
          Claims.Answers t p [{ code := 0x3A, info := [BitVec.ofNat 64 (p.words.getD 0 0).toNat], src := 3 }])) ∧
    (Claims.atTarget s id p → Claims.coreWorks s p.dst → ∀ key, cxidKey s ((p.words.getD 0 0).setWidth 20) = some key →
      (s.ctx key).place ≠ .transit → (s.ctx key).coreNo = p.dst →
      let src := (p.words.getD 3 0).toNat
      (∀ r, (s.ctx key).rsvOpen.find? (fun r => r.1 == src && r.2.1 == (p.words.getD 2 0).toNat) = some r →
        r.2.2 = p.depReg →
        ∃ t, exec (.depositArrival id) s = .next t ∧ t.mem = s.mem ∧ Claims.Answers t p [] ∧
          SameRegs (t.ctx key) ((s.ctx key).deposit p.depReg p.depVal
            (.dep (BitVec.ofNat 8 (src / 2 ^ 20)) (BitVec.ofNat 20 src)) none)) ∧
      ((s.ctx key).rsvOpen.find? (fun r => r.1 == src && r.2.1 == (p.words.getD 2 0).toNat) = none →
        let d : Deposit := { cx := key, source := src, ord := (p.words.getD 2 0).toNat, reg := p.depReg, val := p.depVal,
                             pc := p.pc, thread := p.thread, sender := p.depSender }
        (∀ u, heldDeposit s p.dst d = some u →
          ∃ t, exec (.depositArrival id) s = .next t ∧ t.mem = u.mem ∧ t.cores = u.cores ∧
            t.ctx key = s.ctx key ∧ Claims.Answers t p []) ∧
        ((s.core p.dst).deposits.length < 16 → heldDeposit s p.dst d =
          some (s.modCore p.dst fun c => { c with deposits := c.deposits ++ [d] })))) ∧
    (Claims.atTarget s id p → ∀ key, cxidKey s ((p.words.getD 0 0).setWidth 20) = some key →
      (s.ctx key).place ≠ .transit →
      let src := (p.words.getD 3 0).toNat
      let ord := (s.ctx key).depSeen.getD src 0
      ∃ t q, exec (.directoryForward id) s = .next t ∧ t.net.find id = some q ∧ q.dst = (s.ctx key).coreNo ∧
        q.data = p.data ∧ q.words = p.words.set 2 (BitVec.ofNat 64 ord) ∧ t.pending = s.pending ++ [.packetForward id] ∧
        (t.ctx key).depSeen.getD src 0 = ord + 1 ∧ SameRegs (t.ctx key) (s.ctx key) ∧ OthersSame key s t ∧
        t.mem = s.mem ∧ t.cores = s.cores) ∧
    (∀ core cx, exec (.forwardExpiry core cx) s = .next (s.modCore core fun k => { k with fwd := k.fwd.del cx })) ∧
    (Claims.atTarget s id p → p.flag = false → ∀ c,
      Claims.rowTakes s p ((p.words.getD 0 0).toNat / 128) c →
      (∃ t, exec (.rowLanding id) s = .next t ∧ t.core p.dst = c ∧ t.mem = s.mem ∧ Claims.Answers t p []) ∧
      (p.kind ≠ .mcast → ∃ t, exec (.deferredLanding id) s = .next t ∧ t.core p.dst = c ∧ t.mem = s.mem ∧
        Claims.Answers t p [])) ∧
    (Claims.atTarget s id p → ∀ x off c, p.words = [x, off] →
      Claims.rowTakes s p (off.toNat / 128) c →
      (∃ t, exec (.mcastDelivery id) s = .next t ∧ t.core p.dst = c ∧ t.mem = s.mem) ∧
      (p.kind = .mcast → ∃ t, exec (.deferredLanding id) s = .next t ∧ t.core p.dst = c ∧ t.mem = s.mem)) ∧
    (Claims.atTarget s id p → p.cx ≠ nobody →
      let r := (p.words.getD 0 0).toNat / 128
      rowRefused s p.dst r = none → rowWaits s p.dst r p false = false → ((s.core p.dst).fillOf r).full = true →
      ∃ t, exec (.synldRequest id) s = .next t ∧ t.cores = s.cores ∧ t.mem = s.mem ∧
        Holds t fun q => q.kind = .answer ∧ q.op = p.op ∧ q.faults = [] ∧
          q.data = narrowPayload p.wire (p.words.getD 1 0) (p.words.getD 2 0) ((s.core p.dst).row r))

namespace Sys2Proof.Claims

open Sys2Proof.Machine

/-- CheckPhase: when every member has arrived, the phase advances and the arrivals are forgotten (R304). -/
def advanced (b : Barrier) : Barrier :=
  if b.member ≠ 0 ∧ b.arrived &&& b.member = b.member then { b with phase := b.phase + 1, arrived := 0 } else b

/-- The barrier after the context of a CXID has joined it as member `i`. -/
def joined (b : Barrier) (i : Nat) (x : BitVec 20) : Barrier :=
  { b with member := setBit b.member i true, holder := b.holder.put i x }

/-- The barrier of the current context's cluster becomes `b`; nothing else changes. -/
def withBarrier (s : State) (b : Barrier) : State :=
  s.modCluster (clusterOf s.me.coreNo) fun c => { c with barrier := b }

/-- A phase of the barrier is passed (R305). -/
def phasePassed (b : Barrier) (p : Word) : Prop :=
  let d := (b.phase.toNat + 2 ^ 32 - p.toNat % 2 ^ 32) % 2 ^ 32
  1 ≤ d ∧ d < 2 ^ 31

end Sys2Proof.Claims

/-- R304, R305: BARJ, BARJ.LEAVE, BARA, BARW and BARQ on the barrier of their cluster, and the limit of BARQ. -/
def Obligations.Barriers : Prop :=
  ∀ s : State, s.ordinary = true →
    let b := (s.cluster (clusterOf s.me.coreNo)).barrier
    let i := 16 * qOfCore s.me.coreNo + s.me.slotNo
    let x := s.me.cxid
    let mine := bitAt b.member i = true ∧ b.holder.find i = some x
    (mine → exec .barj s = .next (s.ends id)) ∧
    (bitAt b.member i = false → exec .barj s = .next ((Claims.withBarrier s (Claims.joined b i x)).ends id)) ∧
    (mine → exec .barjLeave s = .next ((Claims.withBarrier s (Claims.advanced
      { b with member := setBit b.member i false, arrived := setBit b.arrived i false, holder := b.holder.del i })).ends
        id)) ∧
    (¬mine → exec .barjLeave s = .next ((Claims.withBarrier s b).ends id)) ∧
    (∀ d, starts (.bara d) s = true → bitAt b.arrived i = false →
      let c := if bitAt b.member i then b else Claims.joined b i x
      (bitAt b.member i = false ∨ mine) →
      ∃ t, exec (.bara d) s = .next t ∧ SameRegs t.me (s.me.put d (b.phase.setWidth 64)) ∧ t.me.flags = s.me.flags ∧
        t.mem = s.mem ∧ t.cores = s.cores ∧
        (t.cluster (clusterOf s.me.coreNo)).barrier = Claims.advanced { c with arrived := setBit c.arrived i true }) ∧
    (∀ a, starts (.barw a) s = true → Claims.phasePassed b (s.val a) → exec (.barw a) s = .next (s.ends id)) ∧
    (∀ d a, starts (.barq d a) s = true → Claims.phasePassed b (s.val a) →
      ∃ t, exec (.barq d a) s = .next t ∧ SameRegs t.me (s.me.put d 0) ∧ t.me.flags = s.me.flags ∧ SameStores s t) ∧
    (∀ d a, runs (.barq d a) s = true → s.me.phase = 1 → s.me.expired = true →
      exec (.barq d a) s = .next (takeException
        [{ code := 0x17, info := [0, s.me.ctl.waitlim.setWidth 64], taddr := 0 }]
        (s.ends fun c => c.put d (s.me.held.getD 1 0)))) ∧
    (∀ cx d a at_, let c := s.ctx cx
      let e := (s.cluster (clusterOf c.coreNo)).barrier
      c.instr = some (.barq d a) → c.until_ = some at_ → at_ ≤ s.cycle → ¬Claims.phasePassed e (c.held.getD 0 0) →
      exec (.barqTimeout cx) s = .next (s.modCtx cx fun c =>
        { c with expired := true, held := [c.held.getD 0 0, e.member &&& ~~~e.arrived] }))

namespace Sys2Proof.Claims

open Sys2Proof.Machine

/-- Word `i` of the descriptor of a copy. -/
def copyDesc (s : State) (c : BitVec 5) (i : Nat) : Word := if c = 0 then 0 else s.me.seen.getS (c + BitVec.ofNat 5 i)

/-- The format of an endpoint (R308). -/
def endFmt (τ : Pc → Tlb) (k : EndK) (base : Word) (f : Fmt) : EndFmt :=
  if k = .m then
    let va : Pc := BitVec.ofNat 56 (vaOf base.toNat)
    pageFmt (τ va).e va
  else padFmt f

/-- The shape of a copy (R307, R308, R311). -/
def copyShape (s : State) (τ : Pc → Tlb) (o : CopyOp) (rows cols : Nat) (ss ds : Int) (idx : Word) : CopyShape :=
  let sa := endBase o.sk (s.val o.a)
  let sb := endBase o.dk (s.val o.b)
  let fs := endFmt τ o.sk sa o.sfmt
  let fd := endFmt τ o.dk sb o.dfmt
  let pads := o.sk ≠ .m ∧ o.dk ≠ .m
  { sk := o.sk, dk := o.dk, sa, sb, rows, cols, ss, ds, zs := endBytes fs fd pads, zd := endBytes fd fs pads
    fs := (convFmts fs fd false).1, fd := (convFmts fs fd false).2, sat := o.sat, rm := o.rm, idx
    key := s.me.ctl.srk }

/-- The addresses of the lines of a memory endpoint. -/
def lineVas (vas : List Nat) (z : Nat) : List Nat := nubNat (vas.flatMap fun a => [a / 64 * 64, (a + z - 1) / 64 * 64])
/-- The lines of an endpoint, none of a scratchpad one. -/
def endLines (τ : Pc → Tlb) (k : EndK) (addrs : List Int) (z : Nat) : List CopyLine :=
  if k = .m then (lineVas (addrs.map vaOf) z).map fun l => copyLine (τ (BitVec.ofNat 56 l)) (BitVec.ofNat 56 l) else []
/-- The addresses that a memory endpoint translates. -/
def endVas (k : EndK) (base : Word) (addrs : List Int) (z : Nat) : List Pc :=
  if k = .m then BitVec.ofNat 56 (vaOf base.toNat) :: (lineVas (addrs.map vaOf) z).map (BitVec.ofNat 56) else []
/-- The rows of a scratchpad endpoint. -/
def endRows (k : EndK) (addrs : List Int) : List Nat := if k = .m then [] else rowsTouched (addrs.map padOf)

/-- An endpoint passes the checks of R303, R309 and R311 on its own. -/
structure EndOk (s : State) (τ : Pc → Tlb) (k : EndK) (x : Word) (use : CopyUse) (cols z rows : Nat)
    (at_ : Nat → Int) : Prop where
  named : k = .r → rowOk x = true
  mapped : k = .m → let va : Pc := BitVec.ofNat 56 (vaOf x.toNat)
    s.maps .copy va (τ va) = true ∧ Leaf.bounded (τ va).e = false
  lines : k = .m → ∀ l ∈ lineVas (((List.range (rows * cols)).map at_).map vaOf) z,
    let va : Pc := BitVec.ofNat 56 l
    s.maps .copy va (τ va) = true ∧ s.plain (τ va) va = true ∧
      copyRule (τ va).e s.me.cxid (ownerLive s (Leaf.owner (τ va).e)) use = .yes
  aligned : ∀ e, e < rows * cols → at_ e % (z : Int) = 0
  local_ : k = .p → ∀ r, r < rows → ∃ o : Nat, at_ (r * cols) = o ∧ (s.padRegion o (cols * z) 1).isSome = true
  noWave : ∀ r ∈ endRows k ((List.range (rows * cols)).map at_), inWaveRegion s (endCore s k s.me.coreNo x) r = false
  unmarkedRows : ∀ r ∈ endRows k ((List.range (rows * cols)).map at_),
    markBlocks s (.row (endCore s k s.me.coreNo x) r) 2 (decide (use ≠ .src)) = false
  unmarkedLines : ∀ l ∈ endLines τ k ((List.range (rows * cols)).map at_) z,
    markBlocks s (.line l.pa) 2 (decide (use ≠ .src)) = false ∧ noDirty s l.pa = true

/-- What COPY and COPY2 do when every check passes: the token register is reserved and the engine of the cluster has the
operation. -/
def Copies (s : State) (i : Instr) (o : CopyOp) (τ : Pc → Tlb) (rows cols : Nat) (ss ds : Int) (idx : Word) : Prop :=
  let z := copyShape s τ o rows cols ss ds idx
  let n := rows * cols
  let src := (List.range n).map z.srcAt
  let dst := (List.range n).map z.dstAt
  let cl := clusterOf s.me.coreNo
  let sCore := endCore s o.sk s.me.coreNo (s.val o.a)
  let dCore := endCore s o.dk s.me.coreNo (s.val o.b)
  starts i s = true → (s.me.regSt (.s o.d) = .full ∨ s.me.regSt (.s o.d) = .dead) →
  agree s τ (endVas o.sk z.sa src z.zs ++ endVas o.dk z.sb dst z.zd) →
  (n = 0 → exec i s = .next (s.ends fun c => c.deposit (.s o.d) 0 .copy none)) ∧
  (2 ^ 24 < n → ∃ t, exec i s = .next t ∧
    Records s t { code := 0x1A, info := [0, BitVec.ofNat 64 n], taddr := 0 }) ∧
  (n ≠ 0 → n ≤ 2 ^ 24 → EndOk s τ o.sk (s.val o.a) .src cols z.zs rows z.srcAt →
    EndOk s τ o.dk (s.val o.b) .dst cols z.zd rows z.dstAt →
    formatsOk (endFmt τ o.sk z.sa o.sfmt) (endFmt τ o.dk z.sb o.dfmt) z.zs z.zd o.rm o.sat = true →
    (∀ r ∈ endRows o.dk dst, (o.dk = .r ∨ (s.core s.me.coreNo).isShared r = true) →
      rowCovered (dst.map padOf) z.zd r = true) →
    (s.cluster cl).copies.length < 16 →
    ∃ t c, exec i s = .next t ∧ SameRegs t.me (s.me.setRegSt (.s o.d) (.reserved .copy c.id)) ∧
      t.me.flags = s.me.flags ∧ t.mem = s.mem ∧ t.cores = s.cores ∧ t.pending = s.pending ++ [.copyComplete c.id] ∧
      bitAt t.me.unf 2 = true ∧ (t.cluster cl).copies = (s.cluster cl).copies ++ [c] ∧ c.shape = some z ∧
      c.cx = s.cur ∧ c.reg = o.d ∧ c.thread = s.me.thread ∧ c.src = endLines τ o.sk src z.zs ∧
      c.dst = endLines τ o.dk dst z.zd ∧ c.sCore = sCore ∧ c.dCore = dCore ∧ c.phase = .waiting ∧ c.image = [])

/-- A page of a DCOPY or DZERO passes its checks (R320, R323). -/
def pageOk (s : State) (t : Tlb) (va : Pc) (use : CopyUse) : Prop :=
  va.toNat % 65536 = 0 ∧ s.maps .copy va t = true ∧ copyRule t.e s.me.cxid (ownerLive s (Leaf.owner t.e)) use = .yes ∧
    ∀ l ∈ pageLines t va, (Leaf.const t.e || !inMeta s l.pa) = true ∧
      markBlocks s (.line l.pa) 2 (decide (use ≠ .src)) = false ∧ noDirty s l.pa = true

/-- The rows of the source go to those of the destination without the homes: the two pages lie in one stack of this chip,
which is not encrypted, and the source is not CONST; or they are one page (R320, R323). -/
def rowTransfer (s : State) (ta tb : Tlb) (va vb : Pc) : Prop :=
  va = vb ∨ ta.phys va / 2 ^ 36 = tb.phys vb / 2 ^ 36 ∧ s.here (ta.phys va) = true ∧ Leaf.const ta.e = false ∧
    (s.die (stackDie (ta.phys va))).keyD = false

/-- A page operation is in the engine, with its step and the shape of its copy. -/
def Paged (s t : State) (d : BitVec 5) (src dst : List CopyLine) (ev : Nat → Instr) (z : Option CopyShape) : Prop :=
  let cl := clusterOf s.me.coreNo
  ∃ c, SameRegs t.me (s.me.setRegSt (.s d) (.reserved .copy c.id)) ∧ t.me.flags = s.me.flags ∧ t.mem = s.mem ∧
    t.cores = s.cores ∧ t.pending = s.pending ++ [ev c.id] ∧ (t.cluster cl).copies = (s.cluster cl).copies ++ [c] ∧
    c.cx = s.cur ∧ c.reg = d ∧ c.src = src ∧ c.dst = dst ∧ c.shape = z ∧ c.page = true ∧ c.phase = .waiting

/-- The copy of 65,536 raw bytes from page to page through the homes (R320). -/
def rawPage (va vb : Pc) : CopyShape :=
  { sk := .m, dk := .m, sa := va.setWidth 64, sb := vb.setWidth 64, rows := 1, cols := 65536, ss := 0, ds := 0, zs := 1
    zd := 1, fs := .raw, fd := .raw, sat := false, rm := .rne, idx := 0, key := 0 }

/-- An operation of the engine is ended with a token: the reserved register takes it, with the fault of a failed one, and
the marks clear (R314, R315). -/
def Tokened (s t : State) (c : CopyCmd) (token : Word) (f : Option FaultRec) : Prop :=
  t.marks = s.marks.filter (fun m => m.op != c.id) ∧
    ((s.ctx c.cx).regSt (.s c.reg) = .reserved .copy c.id →
      (t.ctx c.cx).regSt (.s c.reg) = .prot .copy (f.map fun f => { f with taddr := c.target, src := 2 }) ∧
        (t.ctx c.cx).getS c.reg = token)

end Sys2Proof.Claims

/-- R44, R307 to R313, R320, R323: COPY, COPY2, DCOPY and DZERO: a copy of no element delivers its token at once, one of
more than 2^24 is refused, and every other goes to the copy engine with its token register reserved; a DCOPY moves rows
within a stack or goes through the homes. That the token of no element is write-protected at once, that the count of COPY
is sC[31:0] and that an endpoint's format is that of the page of its first element are DEDUCED, log entry 45. -/
def Obligations.Copies : Prop :=
  ∀ (s : State) (τ : Pc → Tlb),
    (∀ o, Instr.wf false (.copy o) = true →
      Claims.Copies s (.copy o) o τ 1 (bits (Claims.copyDesc s o.c 0) 0 32).toNat 0 0 (Claims.copyDesc s o.c 1)) ∧
    (∀ o, Instr.wf false (.copy2 o) = true →
      Claims.Copies s (.copy2 o) o τ (bits (Claims.copyDesc s o.c 0) 32 32).toNat
        (bits (Claims.copyDesc s o.c 0) 0 32).toNat (bits (Claims.copyDesc s o.c 1) 0 32).toInt
        (bits (Claims.copyDesc s o.c 1) 32 32).toInt (Claims.copyDesc s o.c 2)) ∧
    (∀ d a b ta tb, Instr.wf false (.dcopy d a b) = true → starts (.dcopy d a b) s = true →
      (s.me.regSt (.s d) = .full ∨ s.me.regSt (.s d) = .dead) →
      (s.cluster (clusterOf s.me.coreNo)).copies.length < 16 →
      let va : Pc := (s.val a).setWidth 56
      let vb : Pc := (s.val b).setWidth 56
      Claims.pageOk s ta va .src → Claims.pageOk s tb vb .dst → (tlbFind [ta] s.me.asid vb = some ta → ta = tb) →
      ∃ t, exec (.dcopy d a b) s = .next t ∧
        (Claims.rowTransfer s ta tb va vb →
          Claims.Paged s t d (pageLines ta va) (pageLines tb vb) .pageOperationComplete none) ∧
        (¬Claims.rowTransfer s ta tb va vb →
          Claims.Paged s t d (pageLines ta va) (pageLines tb vb) .copyComplete (some (Claims.rawPage va vb)))) ∧
    (∀ d a ta, Instr.wf false (.dzero d a) = true → starts (.dzero d a) s = true →
      (s.me.regSt (.s d) = .full ∨ s.me.regSt (.s d) = .dead) →
      (s.cluster (clusterOf s.me.coreNo)).copies.length < 16 →
      let va : Pc := (s.val a).setWidth 56
      Claims.pageOk s ta va .zero →
      ∃ t, exec (.dzero d a) s = .next t ∧ Claims.Paged s t d [] (pageLines ta va) .pageOperationComplete none)

namespace Sys2Proof.Claims

open Sys2Proof.Machine

/-- The engine of a cluster has the operation, which waits for no answer and has been refused by none, and whose units lie in
this chip. -/
def Engaged (s : State) (op cl : Nat) (c : CopyCmd) : Prop :=
  findCopy s op = some (cl, c) ∧ c.left = 0 ∧ c.sCore < 4096 ∧ c.dCore < 4096 ∧ ∀ l ∈ c.src ++ c.dst, s.here l.pa = true

/-- The units of an operation are free to be used: nothing earlier of its context, no fence and no lasting fault
(R37, R376). -/
def unitsWork (s : State) (c : CopyCmd) : Prop :=
  copyHeld s c = false ∧ fencedHome s (c.src ++ c.dst) = false ∧ lastingHome s (c.src ++ c.dst) = none

/-- The rows of a remote endpoint are not refused (R303). -/
def rowsAccepted (s : State) (c : CopyCmd) (z : CopyShape) : Prop :=
  (z.sk = .r → ∀ r ∈ z.srcRows, rowRefused s c.sCore r = none) ∧
    (z.dk = .r → ∀ r ∈ z.dstRows, rowRefused s c.dCore r = none)

/-- The bytes of a line that a copy writes, and their mask. -/
def imageLine (img : List Host.Cell) (l : CopyLine) : Line :=
  (img.filter fun b => b.1 / 64 * 64 == l.va).foldl (fun x b => setBits x (8 * (b.1 % 64)) b.2) 0
def imageMask (img : List Host.Cell) (l : CopyLine) : Word :=
  (img.filter fun b => b.1 / 64 * 64 == l.va).foldl (fun m b => setBit m (b.1 % 64) true) 0

end Sys2Proof.Claims

/-- R308, R311, R314, R315, R320, R324: the engine asks for the lines of a copy's source, then sends the converted elements
to the lines of its destination, or writes its rows, and delivers the token of its count; a refusal delivers a failed
token; a page operation writes the page, or sends zeros to its homes, and delivers 65,536, or 0x13 for a reset of a frozen
page. That each phase of an operation is one step is DESIGN CHOICE, log entry 18. -/
def Obligations.CopyEvents : Prop :=
  ∀ (s : State) (op cl : Nat) (c : CopyCmd), Claims.Engaged s op cl c →
    (∀ z, c.shape = some z → c.refused = [] →
      (c.phase = .waiting → Claims.unitsWork s c → Claims.rowsAccepted s c z →
        ∃ t, exec (.copyComplete op) s = .next t ∧ t.mem = s.mem ∧ t.marks = s.marks ∧
          findCopy t op = some (cl, { c with
            phase := .reading, left := c.src.length + (if z.sk = .r then z.srcRows.length else 0), refused := [] }) ∧
          ∀ l ∈ c.src, Holds t fun p => p.kind = .lineReq ∧ p.op = op ∧ p.pa = l.pa ∧ p.ord = 2 ∧ p.flag = false) ∧
      (c.phase = .reading → (z.sk = .p → ∀ r ∈ z.srcRows,
          (s.core c.sCore).isShared r = false ∨ ((s.core c.sCore).fillOf r).full = true) →
        (z.dk = .m →
          ∃ t, exec (.copyComplete op) s = .next t ∧ t.mem = s.mem ∧ t.marks = s.marks ∧
            findCopy t op = some (cl, { c with phase := .writing, left := c.dst.length, image := copyImage s c z }) ∧
            ∀ l ∈ c.dst, Holds t fun p => p.kind = .copy ∧ p.op = op ∧ p.pa = l.pa ∧ p.flag = true ∧
              p.words = [Claims.imageMask (copyImage s c z) l] ∧
              p.data = bytesOf 64 (Claims.imageLine (copyImage s c z) l)) ∧
        (z.dk = .p → c.dst = [] → (∀ r ∈ z.dstRows, (s.core c.dCore).isShared r = false) →
          ∃ t, exec (.copyComplete op) s = .next t ∧ Claims.Tokened s t c (BitVec.ofNat 64 z.count) none ∧ t.mem = s.mem ∧
            (∀ r ∈ z.dstRows, (t.core c.dCore).row r = imageRow (copyImage s c z) r ((s.core c.dCore).row r)) ∧
            ∀ r, r ∉ z.dstRows → (t.core c.dCore).row r = (s.core c.dCore).row r)) ∧
      (c.phase = .writing → z.dk = .m →
        ∃ t, exec (.copyComplete op) s = .next t ∧
          Claims.Tokened s t c (BitVec.ofNat 64 (if c.page then 65536 else z.count)) none ∧
          t.mem = (c.dst.foldl (fun u l => dropLine l.pa u) s).mem)) ∧
    (∀ z u f, c.shape = some z → c.refused.head? = some (u, f) → c.phase = .reading →
      ∃ t, exec (.copyComplete op) s = .next t ∧ Claims.Tokened s t c (failToken f.code 0) (some f) ∧
        t.mem = (c.dst.foldl (fun u l => dropLine l.pa u) s).mem) ∧
    (c.shape = none → Claims.unitsWork s c →
      (c.src ≠ [] → c.src.length = c.dst.length → c.src.map (·.va) ≠ c.dst.map (·.va) → spoiltLine s c.src = none →
        ∃ t, exec (.pageOperationComplete op) s = .next t ∧ Claims.Tokened s t c 65536 none ∧
          t.mem = (copyPageLines c (fun _ => true) s).mem) ∧
      (c.src = [] → c.dst ≠ [] →
        ((∀ l ∈ c.dst, Leaf.lattice l.e = false) → c.phase ≠ .writing → c.rowPair = true →
          ∃ t, exec (.pageOperationComplete op) s = .next t ∧ Claims.Tokened s t c 65536 none ∧
            t.mem = (c.dst.foldl (fun u l => (dropLine l.pa u).writeLine l.pa 0) s).mem) ∧
        ((∀ l ∈ c.dst, Leaf.lattice l.e = false) → c.phase ≠ .writing → c.rowPair = false →
          ∃ t, exec (.pageOperationComplete op) s = .next t ∧ t.mem = s.mem ∧ t.marks = s.marks ∧
            findCopy t op = some (cl, { c with phase := .writing, left := c.dst.length, refused := [] }) ∧
            ∀ l ∈ c.dst, Holds t fun p => p.kind = .copy ∧ p.op = op ∧ p.pa = l.pa ∧ p.flag = true ∧
              p.words = [BitVec.allOnes 64] ∧ p.data = List.replicate 64 0) ∧
        ((∀ l ∈ c.dst, Leaf.lattice l.e = false) → c.phase = .writing → c.refused = [] →
          ∃ t, exec (.pageOperationComplete op) s = .next t ∧ Claims.Tokened s t c 65536 none ∧
            t.mem = (c.dst.foldl (fun u l => dropLine l.pa u) s).mem) ∧
        (c.phase ≠ .writing → pageFrozen s c.dst c.size = true →
          ∃ t, exec (.pageOperationComplete op) s = .next t ∧
            Claims.Tokened s t c (failToken 0x13 0) (some { code := 0x13, info := [c.target.setWidth 64] }) ∧
            t.mem = (c.dst.foldl (fun u l => dropLine l.pa u) s).mem)))

/-! ## Class 6: tasks, launches and stage queues -/

namespace Sys2Proof.Claims

open Sys2Proof.Machine

/-- The launch group of the current context. -/
def groupOf (s : State) : Group :=
  match s.me.group with
  | some g => s.group g
  | none => {}

/-- A status word passes its check (R339): none for s0, or a 64-bit FILL location that the core translates. -/
def statusOk (s : State) (d : Spec) (st : Option Pc) : Prop :=
  (d = .s 0 ∧ st = none) ∨ (d ≠ .s 0 ∧ ∃ t, let va : Pc := (s.val d).setWidth 56
    s.maps .join va t = true ∧ Leaf.jt t.e = .fill ∧ Leaf.ew t.e = 64 ∧ va.toNat % 8 = 0 ∧ st = some va)

/-- A word names an ordinary core of the chip (R339). -/
def ordinaryCore (s : State) (x : Word) : Bool :=
  bits x 20 44 == 0 && namesCore (bits x 0 20) && !isSupervisor (bits x 0 12 : BitVec 12).toNat && bits x 12 8 == s.chip

/-- The core has a spill area, and neither a self-test nor a lasting fault holds it (R336, R339). -/
def takesArrivals (s : State) (k : Nat) : Bool :=
  hasSpill s k && !unitFenced s (dieOfCore k) (coreUnit s k) && !unitLasting s (dieOfCore k) (coreUnit s k)

/-- The arguments of a child: four registers, or none for s0. -/
def childArgs (s : State) (c : BitVec 5) : List Word :=
  if c = 0 then [] else (List.range 4).map fun i => s.me.seen.getS (c + BitVec.ofNat 5 i)

/-- A child as its creation leaves it (R64, R332, R339). -/
def Child (s t : State) (x : BitVec 20) (entry : Pc) (args : List Word) (st : Option Pc) : Prop :=
  let c := t.ctx x.toNat
  c.live = true ∧ c.cxid = x ∧ c.asid = s.me.asid ∧ c.priv = false ∧ c.pc = entry ∧ c.group = s.me.group ∧
    c.prio = s.me.prio ∧ c.creator = { parent := some s.cur, parentCxid := s.me.cxid, status := st } ∧
    (∀ i : Fin 32, i.val ≠ 0 → c.s.get i = match args[i.val - 1]? with
      | some v => { val := v, st := .full }
      | none => { val := 0, st := .dead }) ∧
    (∀ g, s.me.group = some g → (t.group g).created = (s.group g).created + 1 ∧ (t.group g).live = (s.group g).live + 1)

/-- What a STAGE keeps of s1 to s8 (R348). -/
def stageReg (c : Ctx) (i : Nat) : Reg 64 :=
  match c.s[i]? with
  | some r => match r.st with
    | .full => { val := r.val, st := .full }
    | .prot _ _ => { val := r.val, st := .full }
    | _ => { val := 0, st := .dead }
  | none => { val := 0, st := .dead }

/-- A core keeps no part of a save image of a context in its spill area. -/
def noParts (s : State) (k key : Nat) : Prop := ∀ p ∈ (s.core k).spillMap, p.key = key → p.kind.isDeposit = true

/-- The context may leave its core (R343). -/
def canMove (s : State) : Prop :=
  s.me.unf = 0 ∧ (∀ r ∈ allRegs, (s.me.regSt r).isHeld = false) ∧
    (∀ n, s.me.regSt (.v n) = .dead) ∧ (∀ n, s.me.regSt (.b n) = .dead) ∧
    (∀ t ∈ (s.core s.me.coreNo).tiles, t.cx ≠ s.cur) ∧ claimedArrays s s.cur = [] ∧ s.me.stage = none ∧
    s.me.ctl.tcause = 0 ∧ s.me.loop0.active = false ∧ s.me.loop1.active = false ∧ settledStores s = true

end Sys2Proof.Claims

/-- R339 to R343: SPAWN creates a child and sends it to its core, and completes when it has arrived; TDEF creates a task
and sends its row; TDEC sends a decrement; MIGRATE leaves for another core with the registers of its mask. That the task
of a TDEF is live from its TDEF is DESIGN CHOICE, log entry 44; src 3 of the 0x38 record is DEDUCED, log entry 27. -/
def Obligations.Tasks : Prop :=
  ∀ s : State,
    (∀ d a b c child st, Instr.wf false (.spawn d a b c child) = true → starts (.spawn d a b c child) s = true →
      let x := s.val a
      let k := (bits x 0 12 : BitVec 12).toNat
      let cx := BitVec.ofNat 20 ((Claims.groupOf s).cxbase + (Claims.groupOf s).nl + child.toNat)
      (child.toNat < (Claims.groupOf s).limit → Claims.statusOk s d st → Claims.ordinaryCore s x = true →
        Claims.takesArrivals s k = true → cxidFree s cx = true → cx.toNat ≠ s.cur →
        ∃ t, exec (.spawn d a b c child) s = .next t ∧ t.me.instr = some (.spawn d a b c child) ∧ t.me.phase = 1 ∧
          SameRegs t.me s.me ∧ SameStores s t ∧
          Claims.Child s t cx ((s.val b).setWidth 56) (Claims.childArgs s c) st ∧
          Sends s t fun p => p.kind = .arrival ∧ p.dst = k ∧ p.words = [BitVec.ofNat 64 cx.toNat]) ∧
      ((Claims.groupOf s).limit ≤ child.toNat →
        ∃ t, exec (.spawn d a b c child) s = .next t ∧
          Claims.Records s t { code := 0x38, info := [x, child.setWidth 64], taddr := 0, src := 3 })) ∧
    (∀ d a b c child, s.me.phase = 1 → answered s = true →
      ∃ t, exec (.spawn d a b c child) s = .next t ∧ Claims.Completes s t) ∧
    (∀ d a b c child tag count st, Instr.wf false (.tdef d a b c child tag count) = true →
      starts (.tdef d a b c child tag count) s = true →
      let x := s.val a
      let k := (bits x 18 12 : BitVec 12).toNat
      let cx := BitVec.ofNat 20 ((Claims.groupOf s).cxbase + (Claims.groupOf s).nl + child.toNat)
      child.toNat < (Claims.groupOf s).limit → Claims.statusOk s d st → Claims.rowOk x = true → bits x 30 8 = s.chip →
      Claims.takesArrivals s k = true → cxidFree s cx = true → cx.toNat ≠ s.cur →
      ∃ t, exec (.tdef d a b c child tag count) s = .next t ∧ Claims.CountsOne s t ∧
        Claims.Child s t cx ((s.val b).setWidth 56) (Claims.childArgs s c) st ∧
        Sends s t fun p => p.kind = .row ∧ p.flag = true ∧ p.dst = k ∧ p.thread = s.me.thread ∧
          p.words = [BitVec.ofNat 64 (bits x 0 18 : BitVec 18).toNat] ∧ p.data.length = 128 ∧
          let row : Row := ofBytes 1024 p.data
          bits row 0 64 = count.setWidth 64 ∧ bits row 64 64 = ((s.val b).setWidth 56 : Pc).setWidth 64 ∧
            (∀ i, i < 4 → bits row (128 + 64 * i) 64 = (Claims.childArgs s c).getD i 0) ∧
            bits row 384 64 = (st.getD 0).setWidth 64 ∧ bits row 448 20 = cx ∧ bits row 468 15 = tag) ∧
    (∀ a, starts (.tdec a) s = true → Claims.rowOk (s.val a) = true → settledStores s = true →
      ∃ t, exec (.tdec a) s = .next t ∧ Claims.CountsOne s t ∧
        Sends s t fun p => p.kind = .tdec ∧ p.dst = dstOfCore s (bits (s.val a) 18 20) ∧
          p.words = [BitVec.ofNat 64 (bits (s.val a) 0 18 : BitVec 18).toNat]) ∧
    (∀ a mask, Instr.wf false (.migrate a mask) = true → starts (.migrate a mask) s = true → Claims.canMove s →
      let k := (bits (s.val a) 0 12 : BitVec 12).toNat
      Claims.ordinaryCore s (s.val a) = true → hasSpill s k = true →
      (k = s.me.coreNo → exec (.migrate a mask) s = .next (s.ends id)) ∧
      (k ≠ s.me.coreNo → s.me.leave = none → Claims.noParts s s.me.coreNo s.cur →
        ∃ t, exec (.migrate a mask) s = .next t ∧ t.me.place = .transit ∧ t.me.pc = s.me.npc ∧
          t.me.flags = s.me.flags ∧ t.me.ctl.prov = s.me.ctl.prov ∧
          (∀ i : Fin 32, t.me.s.get i = if 1 ≤ i.val ∧ bitAt mask (i.val - 1) = true then s.me.seen.s.get i
            else { val := 0, st := .dead }) ∧
          (t.core s.me.coreNo).fwd.find s.cur = some k ∧
          (∀ p ∈ (t.core s.me.coreNo).slots, p.2 ≠ s.cur) ∧
          Sends s t fun p => p.kind = .arrival ∧ p.dst = k ∧ p.words = [BitVec.ofNat 64 s.cur]))

/-- R342, R345, R327: QUIT ends its context once its status is filled; LAUNCH makes a group of its record and completes
when every context is created; QCFG configures a queue, STAGE declares its stage, QEOS ends a stream; LDBAL moves the last
movable arrival to the least loaded core of its cluster. QCFG and STAGE count the contexts of a stage by the launch record
(DEDUCED, log entry 48), their 0x3A records carry src 3 (DEDUCED, log entry 27), and complFault and recordFault give the
checks of a record in the order of log entry 49 (DEDUCED). -/
def Obligations.GroupInstructions : Prop :=
  ∀ s : State,
    (s.me.phase = 1 → answered s = true →
      ∃ t, exec .quit s = .next t ∧ t.me.live = false ∧ t.me.run = .ended ∧ t.me.place = .nowhere ∧
        (∀ p ∈ (t.core s.me.coreNo).slots, p.2 ≠ s.cur) ∧
        ∀ g, s.me.group = some g → (t.group g).fb = ((s.group g).fb || s.me.flags.b) ∧
          (t.group g).fo = ((s.group g).fo || s.me.flags.o)) ∧
    (s.me.phase = 0 → s.me.unf ≠ 0 →
      ∃ t, exec .quit s = .next t ∧ Claims.Records s t { code := 0x1B, info := [s.me.unf.setWidth 64], taddr := 0 }) ∧
    (∀ a, s.me.phase = 2 → (s.group ((s.me.held.getD 0 0).toNat)).begun = true →
      (s.group ((s.me.held.getD 0 0).toNat)).plan = [] →
      ∃ t, exec (.launch a) s = .next t ∧ SameArch t.me s.me ∧ t.me.instr = none ∧ t.mem = s.mem) ∧
    (∀ a (τ : Pc → Tlb), Instr.wf false (.launch a) = true → (s.val a).toNat % 256 = 0 →
      let va : Pc := (s.val a).setWidth 56
      let ls := linesOf va 256
      (∀ l ∈ ls, s.maps .load l (τ l) = true) → Claims.agree s τ ls →
      (starts (.launch a) s = true → (∀ l ∈ ls, Claims.lineOpen s .load (τ l) l false) →
        ∃ u, exec (.launch a) s = .next u ∧ Claims.ParksForData (.launch a) s u ∧ u.groups = s.groups ∧
          ∀ l ∈ ls, (∀ y, Claims.cached s l = some y → u.me.lineBuf.find l.toNat = some y) ∧
            (Claims.cached s l = none → Claims.AsksLine s u (τ l) l false)) ∧
      (runs (.launch a) s = true → Claims.hasData s →
        let r := LaunchRec.ofWords (wordsOf 32 (bytesAtHand s va 256))
        complFault s s.me.priv r = none → recordFault s (s.val a) (some s.me.asid) r = none →
        ∃ t gk, exec (.launch a) s = .next t ∧ (t.group gk).entry = r.entry ∧ (t.group gk).asid = r.asid ∧
          (t.group gk).cxbase = r.cxbase ∧ (t.group gk).nl = r.nl ∧ (t.group gk).args = r.args ∧
          (t.group gk).byHost = false)) ∧
    (∀ a q depth prod cons, Instr.wf false (.qcfg a q depth prod cons) = true →
      starts (.qcfg a q depth prod cons) s = true →
      let new : StageQ :=
        { depth := depth.toNat + 1, sender := if a = .s 0 then none else some (bits (s.val a) 0 28), prod, cons,
          group := s.me.group }
      ((s.core s.me.coreNo).queues.find q.toNat = none → stageCount (Claims.groupOf s) cons.toNat ≤ 1 →
        (a = .s 0 → stageCount (Claims.groupOf s) prod.toNat ≤ 1) → bits (s.val a) 28 36 = 0 →
        ∃ t r, exec (.qcfg a q depth prod cons) s = .next t ∧ SameArch t.me s.me ∧ t.mem = s.mem ∧
          (t.core s.me.coreNo).queues.find q.toNat = some r ∧ r = { new with emptySince := r.emptySince } ∧
          ∀ j, j ≠ q.toNat → (t.core s.me.coreNo).queues.find j = (s.core s.me.coreNo).queues.find j) ∧
      (∀ o, (s.core s.me.coreNo).queues.find q.toNat = some o → bits (s.val a) 28 36 = 0 →
        (o.depth = new.depth ∧ o.sender = new.sender ∧ o.prod = prod ∧ o.cons = cons ∧ o.group = s.me.group →
          exec (.qcfg a q depth prod cons) s = .next (s.ends id)) ∧
        (o.depth ≠ new.depth →
          ∃ t, exec (.qcfg a q depth prod cons) s = .next t ∧
            Claims.Records s t { code := 0x3A, info := [BitVec.ofNat 64 q.toNat], taddr := 0, src := 3 })) ∧
      (bits (s.val a) 28 36 ≠ 0 →
        ∃ t, exec (.qcfg a q depth prod cons) s = .next t ∧
          Claims.Records s t { code := 0x3A, info := [BitVec.ofNat 64 q.toNat], taddr := 0, src := 3 })) ∧
    (∀ inq inp outq outp rep,
      (s.me.stage = none →
        (inp = true → ∃ q, (s.core s.me.coreNo).queues.find inq.toNat = some q ∧ s.me.ofStage q q.cons = true) →
        (outp = true → ∃ q, (s.core s.me.coreNo).queues.find outq.toNat = some q ∧ q.sender = none ∧
          s.me.ofStage q q.prod = true) →
        (rep = true → inp = true ∧ outp = true ∧
          stageCount (Claims.groupOf s) s.me.ident.stage.toNat ≤ 1) →
        ∃ t, exec (.stage inq inp outq outp rep) s = .next t ∧ { t with timers := s.timers } = (s.ends fun c =>
          let st : StageSt :=
            { input := if inp then some inq else none, output := if outp then some outq else none, rep,
              regs := (List.range 8).map fun i => Claims.stageReg c (i + 1), lc0 := c.loop0, lc1 := c.loop1,
              restart := c.npc }
          { c with stage := some st })) ∧
      (s.me.stage.isSome = true →
        ∃ t, exec (.stage inq inp outq outp rep) s = .next t ∧ Claims.Records s t
          { code := 0x3A, info := [BitVec.ofNat 64 s.me.ident.stage.toNat], taddr := 0, src := 3 })) ∧
    (∀ a q, starts (.qeos a q) s = true →
      (a ≠ .s 0 → Claims.coreOk (s.val a) = true → openCount s.me .send < 16 →
        ∃ t, exec (.qeos a q) s = .next t ∧ Claims.CountsOne s t ∧
          Sends s t fun p => p.kind = .queueEntry ∧ p.dst = dstOfCore s (bits (s.val a) 0 20) ∧ p.flag = true) ∧
      (a = .s 0 → ∀ e, (s.core s.me.coreNo).queues.find q.toNat = some e → e.sender = none →
        s.me.ofStage e e.prod = true → s.me.stage.all (fun g => !g.rep) = true →
        let tag := s.me.pushes.getD (s.me.coreNo * 4 + q.toNat) 0
        (tag - e.expect).toNat < e.depth →
        ∃ t r, exec (.qeos a q) s = .next t ∧ SameArch t.me s.me ∧ t.mem = s.mem ∧
          (t.core s.me.coreNo).queues.find q.toNat = some r ∧
          r.entries = e.entries ++ [{ tag, val := 0, eos := true, ready := s.cycle + 8 }])) ∧
    (∀ margin : BitVec 4, s.ordinary = true →
      let k := s.me.coreNo
      let others := ((List.range 4).map (coreOfCluster (clusterOf k))).filter (· != k)
      ((∀ d ∈ others, coreLoad s k < coreLoad s d + margin.toNat) →
        exec (.ldbal margin) s = .next (s.ends id)) ∧
      (∀ d key, d ∈ others → (∀ q ∈ others, coreLoad s d ≤ coreLoad s q) →
        (∀ q ∈ others, coreLoad s q = coreLoad s d → d ≤ q) → coreLoad s d + margin.toNat ≤ coreLoad s k →
        Claims.noParts s k key →
        ((s.core k).arrivals.filter fun key => (s.ctx key).arrival && (s.ctx key).stage.isNone &&
          match (s.ctx key).group with
          | some g => (s.group g).cores.contains d
          | none => false).getLast? = some key →
        ∃ t, exec (.ldbal margin) s = .next t ∧ (t.ctx key).place = .transit ∧ SameRegs t.me s.me ∧
          ((∀ e ∈ (s.core k).deposits, e.cx ≠ key) → t.mem = s.mem) ∧
          (t.core k).arrivals = (s.core k).arrivals.filter (· != key) ∧
          Sends s t fun p => p.kind = .arrival ∧ p.dst = d ∧ p.words = [BitVec.ofNat 64 key]))

/-- R326 to R328, R333, R336, R337, R341, R350: the steps of the task engine: a queued record is taken or refused, an
arrival is placed, a spilled context returns, the entry of the lowest key is dispatched with what its saved parts hold, a
task's count goes down, a replica is added or discarded. Which die decides a record, and the checks complFault and
recordFault, are DEDUCED, log entry 49; where the flags of a replica go once replica 0 has quit is DESIGN CHOICE, log
entry 109. -/
def Obligations.TaskEvents : Prop :=
  ∀ s : State,
    (∀ d ws conflict, d < 4 → s.groups = [] →
      let n := (s.die d).nextRec
      let at_ : Pc := (s.die d).lqbase + BitVec.ofNat 56 (256 * n)
      let r := LaunchRec.ofWords ws
      queuedRecord s d (s.die d).lqasid at_ = some (ws, conflict) →
      (decider s d r = d → r.dies = 0 ∨ bitAt r.dies d = true →
        (conflict = true →
          ∃ t, exec (.launchRecordTake d) s = .next t ∧ (t.die d).nextRec = n + 1 ∧ t.groups = [] ∧
            (t.die r.home).heldRecs = (s.die r.home).heldRecs ++
              [recordOf 0xFFFFF 0 0 { code := 0x14, info := [BitVec.ofNat 64 n], taddr := at_, src := 3 }]) ∧
        (conflict = false → complFault s false r = none → recordFault s (at_.setWidth 64) none r = none →
          ∃ t gk, exec (.launchRecordTake d) s = .next t ∧ (t.group gk).byHost = true ∧
            (t.group gk).queue = launchQueue s d ∧ (t.group gk).number = BitVec.ofNat 64 n ∧
            (t.group gk).entry = r.entry ∧ (t.group gk).asid = r.asid ∧ (t.group gk).cxbase = r.cxbase)) ∧
      (bitAt r.dies d = false → r.dies ≠ 0 ∨ decider s d r ≠ d →
        ∃ t, exec (.launchRecordTake d) s = .next t ∧ (t.die d).nextRec = n + 1 ∧ t.groups = [] ∧
          (t.die d).heldRecs = (s.die d).heldRecs) ∧
      (bitAt r.dies d = true → decider s d r ≠ d → (s.die (decider s d r)).nextRec ≤ n →
        ∃ t, exec (.launchRecordTake d) s = .next t ∧ (t.die d).nextRec = n ∧ t.groups = [] ∧
          .launchRecordTake d ∈ t.pending)) ∧
    (∀ id p, let key := (p.words.getD 0 0).toNat
      Claims.atTarget s id p → Claims.coreWorks s p.dst →
      (s.core p.dst).spill = [] → (s.ctx key).image = false →
      (s.core p.dst).arrivals.length < arrivalCap s p.dst (s.ctx key) →
      ∃ t, exec (.contextArrival id) s = .next t ∧ (t.ctx key).place = .queued p.dst ∧ t.mem = s.mem ∧
        (t.core p.dst).arrivals = (s.core p.dst).arrivals ++ [key] ∧ SameRegs (t.ctx key) (s.ctx key) ∧
        Claims.Answers t p []) ∧
    (∀ k key rest, (s.core k).spill = key :: rest → (s.core k).arrivals.length < arrivalCap s k (s.ctx key) →
      ∃ t, exec (.spillReturn k) s = .next t ∧ (t.ctx key).place = .queued k ∧ (t.core k).spill = rest ∧
        (t.core k).arrivals = (s.core k).arrivals ++ [key] ∧ t.mem = s.mem ∧
        SameRegs (t.ctx key) (if (s.ctx key).image then s.ctx key else restored s k key (s.ctx key))) ∧
    (∀ k key c, Claims.noParts s k key → SameRegs (restored s k key c) c ∧ (restored s k key c).pc = c.pc ∧
      (restored s k key c).flags = c.flags) ∧
    (∀ k r slot, isSupervisor k = false →
      let elig := (readyTable s k).filter fun r => (r.slot s k).isSome
      let aged := elig.filter fun r => decide (64 ≤ (s.core k).passed.getD r.passKey 0)
      r ∈ (if aged = [] then elig else aged) →
      (∀ q ∈ (if aged = [] then elig else aged), q ≠ r → r.key < q.key) → r.slot s k = some slot →
      ∃ t, exec (.dispatch k) s = .next t ∧ (t.core k).slots.find slot = some r.cx ∧
        (t.ctx r.cx).place = .slot k slot ∧ SameRegs (t.ctx r.cx) (restored s k r.cx (s.ctx r.cx)) ∧ t.mem = s.mem) ∧
    (∀ id p, s.net.find id = some p → p.arrived = true →
      let r := (p.words.getD 0 0).toNat / 128
      rowRefused s p.dst r = none → unitFenced s (dieOfCore p.dst) (coreUnit s p.dst) = false →
      ((s.core p.dst).fillOf r).full = true → markBlocks s (.row p.dst r) 2 true = false →
      let n : Word := bits ((s.core p.dst).row r) 0 64
      (n ≠ 0 → ∃ t, exec (.taskRowDecrement id) s = .next t ∧ t.mem = s.mem ∧ Claims.Answers t p [] ∧
        (t.core p.dst).row r = setBits ((s.core p.dst).row r) 0 (n - 1)) ∧
      (n = 0 → ∃ t, exec (.taskRowDecrement id) s = .next t ∧ t.mem = s.mem ∧ t.cores = s.cores ∧
        Claims.Answers t p [{ code := 0x3A, info := [BitVec.ofNat 64 (p.words.getD 0 0).toNat], src := 3 }])) ∧
    (∀ k j q kz z n gk st slot, (s.core k).queues.find j = some q → replicaZero s k j q = some (kz, z) →
      z.group = some gk → z.stage = some st → (n = 1 ∨ n = 2 ∨ n = 3) →
      (∀ m, m ∈ (liveReplicas s k q).map (·.1) ↔ 1 ≤ m ∧ m < n) → q.crowded s.cycle = true →
      q.entries.any (·.eos) = false → (freeSlots s k).head? = some slot →
      let g := s.group gk
      let cx := BitVec.ofNat 20 (g.cxbase + g.nl + g.limit + 3 * z.index + n - 1)
      cxidFree s cx = true → Claims.noParts s k cx.toNat →
      ∃ t, exec (.replicaAdd k j) s = .next t ∧ (t.ctx cx.toNat).live = true ∧
        (t.ctx cx.toNat).ident.replica = BitVec.ofNat 64 n ∧ (t.ctx cx.toNat).pc = st.restart ∧
        (t.ctx cx.toNat).place = .slot k slot ∧ (t.core k).slots.find slot = some cx.toNat ∧ t.mem = s.mem) ∧
    (∀ k j q first z n key rest, (s.core k).queues.find j = some q → replicaZero s k j q = some (first, z) →
      liveReplicas s k q = (n, key) :: rest → q.idle s.cycle = true → (s.ctx key).inPop j = true →
      (s.ctx key).ctl.stq = 0 → first ≠ key → q.entries.any (fun e => e.eos && e.tag == q.expect) = false →
      ∃ t, exec (.replicaDiscard k j) s = .next t ∧ (t.ctx key).live = false ∧ (t.ctx key).place = .nowhere ∧
        (t.ctx first).flags.b = ((s.ctx first).flags.b || (s.ctx key).flags.b) ∧
        (t.ctx first).flags.o = ((s.ctx first).flags.o || (s.ctx key).flags.o)) ∧
    (∀ k j q n key rest g, (s.core k).queues.find j = some q → replicaZero s k j q = none →
      liveReplicas s k q = (n, key) :: rest → q.entries.any (fun e => e.eos && e.tag == q.expect) = true →
      (s.ctx key).inPop j = true → (s.ctx key).ctl.stq = 0 → (s.ctx key).group = some g → (s.ctx key).ident.replica ≠ 0 →
      ∃ t, exec (.replicaDiscard k j) s = .next t ∧ (t.ctx key).live = false ∧ (t.ctx key).place = .nowhere ∧
        (t.group g).fb = ((s.group g).fb || (s.ctx key).flags.b) ∧
        (t.group g).fo = ((s.group g).fo || (s.ctx key).flags.o))

/-! ## Class 7: wave streams -/

namespace Sys2Proof.Claims

open Sys2Proof.Machine

/-- A stream of State is replaced. -/
def withStream (s : State) (id : Nat) (t : Stream) : State := { s with streams := s.streams.put id t }

/-- V(j): the step at which a vote of step j is in (R220). -/
def voteIn (t : Stream) (j : Nat) : Nat :=
  j + t.shear * (t.w - 1) + (if t.diag then t.shear * (t.h - 1) else 0) + 2

/-- A loop level of a sequencer. -/
def withLevel (t : Stream) (l1 : Bool) (l : LoopLv) : Stream := if l1 then { t with loop1 := l } else { t with loop0 := l }

/-- What WBRV does at its unit: a bubble while a vote is not in (two steps later with shear 4, erratum 1), or the branch. -/
def branched (t : Stream) (pc : Pc) (want : Bool) (g : Tgt) : Stream :=
  if t.voteAt.any fun j => decide (t.emitted < voteIn t j + if t.shear = 4 then 2 else 0) then
    { t with emitted := t.emitted + 1, steps := t.steps.put t.emitted 0 }
  else { t with pos := if t.vote = want then t.unitOf (branchTarget pc g) else t.pos + 1 }

/-- A contribution of T to the vote of a step. -/
def voted (t : Stream) (step : Nat) (isAnd v : Bool) : Stream :=
  if t.voteAt = some step then { t with votePend := if isAnd then t.votePend && v else t.votePend || v } else t

/-- The lines of a stream's code that the core can fetch in this chip and that pass the checks of R216. -/
def codeOk (s : State) (t : Stream) (entry : Pc) (n : Nat) (τ : Pc → Tlb) : Prop :=
  ∀ k, k < n → let va := entry + BitVec.ofNat 56 (64 * k)
    s.maps .fetch va (τ va) = true ∧ peek s s.me.coreNo s.me.asid va = some (τ va) ∧ s.codeReady (τ va) va = true ∧
      (wcode s t entry n).checkLine (homeLine s (τ va).e ((τ va).pa va)) va = none

/-- The units of those lines. -/
def codeUnits (s : State) (entry : Pc) (n : Nat) (τ : Pc → Tlb) : List WStep :=
  (List.range n).flatMap fun k => let va := entry + BitVec.ofNat 56 (64 * k)
    WCode.units (homeLine s (τ va).e ((τ va).pa va)) va

def isWmma : Instr → Bool
  | .wmma .. => true
  | _ => false

/-- Some unit holds a WMMA (R256). -/
def holdsWmma (us : List WStep) : Bool := us.any fun u => u.instrs.any isWmma

/-- The stream has its token and its first rotation, at least four rotations ahead (R210, R231). -/
def Begun (s u : State) (id : Nat) (t : Stream) (d : BitVec 5) : Prop :=
  u.me.regSt (.s d) = .reserved .wave id ∧ u.mem = s.mem ∧ (u.stream id).phase = .loading ∧
    ∃ start, (u.stream id).start = start ∧ s.cycle + 64 ≤ (s.die t.die).resetAt + 16 * start

end Sys2Proof.Claims

/-- R207, R210, R216, R231, R232, R256: WBEGIN reserves its token, gives every core of its block a wave context, loads the
code and sets T0 at least four rotations ahead; code with a WMMA first ramps the matrix engines of the block, and WBEGIN
parks until all are at level 4; a block that is ill-formed, or a core that cannot carry the stream, is refused. Bits
[63:56] of sA are ignored (DESIGN CHOICE, log entry 86); the 0x22 records carry src 6 at issue (DEDUCED, log entry 27). -/
def Obligations.WaveBegin : Prop :=
  ∀ (sg : BitVec 2) (streamB diag : Bool) (d : BitVec 5) (a b : Spec) (lines : BitVec 8) (g : BitVec 4) (s : State)
    (τ : Pc → Tlb),
    let i : Instr := .wbegin sg streamB diag d a b lines g
    let base : Stream :=
      { owner := s.cur, token := d, die := dieOfCore s.me.coreNo
        s := if streamB then 1 else 0, shear := sg.toNat + 1, diag, region := g.toNat }
    let va : Pc := (s.val a).setWidth 56
    let n := lines.toNat
    Instr.wf false i = true → runs i s = true → s.nextId < 2 ^ 64 →
    (blockOf base (s.val b) = none → starts i s = true →
      ∃ u, exec i s = .next u ∧
        Claims.Records s u { code := 0x22, info := [lines.setWidth 64, BitVec.allOnes 64], taddr := 0, src := 6 }) ∧
    (∀ t, blockOf base (s.val b) = some t → n ≤ 128 → starts i s = true →
      (∀ x, badCore s t = some x →
        ∃ u, exec i s = .next u ∧
          Claims.Records s u { code := 0x22, info := [lines.setWidth 64, x], taddr := 0, src := 6 }) ∧
      (badCore s t = none → bits (s.val a) 0 6 = 0 → (s.me.regSt (.s d) = .full ∨ s.me.regSt (.s d) = .dead) → d ≠ 0 →
        buffersFree s t = true → t.cores.all (regionFree s t) = true → (s.die t.die).thr = false →
        Claims.codeOk s t va n τ → (∀ k ∈ t.cores, t.key k ≠ s.cur) →
        hasWmma (wcode s t va n) = Claims.holdsWmma (Claims.codeUnits s va n τ) →
        ∃ u id, exec i s = .next u ∧ (u.stream id).code = Claims.codeUnits s va n τ ∧ (u.stream id).owner = s.cur ∧
          (∀ k ∈ t.cores, (u.core k).waveSlots.find (8 * t.s) = some id) ∧
          (Claims.holdsWmma (Claims.codeUnits s va n τ) = false → Claims.Begun s u id t d) ∧
          (Claims.holdsWmma (Claims.codeUnits s va n τ) = true →
            (∀ k ∈ t.cores, (u.core k).matrix.held = true ∧
              (u.core k).matrix.level = levelUp (s.core k).matrix.level) ∧
            ((∀ k ∈ t.cores, (s.core k).matrix.level = 4) → Claims.Begun s u id t d) ∧
            ((∃ k ∈ t.cores, (s.core k).matrix.level ≠ 4) →
              u.me.instr = some i ∧ u.me.phase = 2 ∧ u.me.held = [BitVec.ofNat 64 id] ∧ SameRegs u.me s.me)))) ∧
    (∀ id t, s.me.phase = 2 → id < 2 ^ 64 → s.me.held = [BitVec.ofNat 64 id] → s.streams.find id = some t →
      t.phase = .loading → enginesReady s t = true → d ≠ 0 → (∀ k ∈ t.cores, t.key k ≠ s.cur) →
      ∃ u, exec i s = .next u ∧ Claims.Begun s u id t d)

/-- R215, R218 to R221, R226, R230, R382: the instructions of a stream act on its sequencers; in any other context their
words are reserved. -/
def Obligations.WaveControl : Prop :=
  ∀ s : State,
    (s.me.wave = none → ∀ i, (i = .wend ∨ i = .wckpt ∨ (∃ l n g, i = .wloop l n g) ∨ (∃ g, i = .wjmp g) ∨
        i = .wvoteAnd ∨ i = .wvoteOr ∨ (∃ g, i = .wbrvT g) ∨ ∃ g, i = .wbrvF g) →
      ∃ u, exec i s = .next u ∧ Claims.Records s u
        { code := 0x01, info := [bits (encode i) 0 64, (bits (encode i) 64 32).setWidth 64], taddr := 0 }) ∧
    (∀ w t, s.me.wave = some w → s.streams.find w.stream = some t →
      exec .wend s = .next ((Claims.withStream s w.stream { t with ended := t.ended ++ [w.core] }).ends id) ∧
      exec .wvoteAnd s = .next ((Claims.withStream s w.stream (Claims.voted t w.step true s.me.seen.flags.t)).ends id) ∧
      exec .wvoteOr s = .next ((Claims.withStream s w.stream (Claims.voted t w.step false s.me.seen.flags.t)).ends id) ∧
      (∀ g, exec (.wjmp g) s = .next
        ((Claims.withStream s w.stream { t with pos := t.unitOf (branchTarget s.me.pc g) }).ends id)) ∧
      (∀ g, exec (.wbrvT g) s = .next ((Claims.withStream s w.stream (Claims.branched t s.me.pc true g)).ends id)) ∧
      (∀ g, exec (.wbrvF g) s = .next ((Claims.withStream s w.stream (Claims.branched t s.me.pc false g)).ends id)) ∧
      (∀ l1 g, exec (.wloop l1 0 g) s = .next ((Claims.withStream s w.stream
        (Claims.withLevel { t with pos := t.unitOf (branchTarget s.me.pc g) + 1 } l1 {})).ends id)) ∧
      (∀ l1 n g, n ≠ 0 → exec (.wloop l1 n g) s = .next ((Claims.withStream s w.stream
        (Claims.withLevel { t with pos := t.pos + 1 } l1
          ⟨n.setWidth 64, seqNext s.me.pc, branchTarget s.me.pc g, true, none⟩)).ends id)) ∧
      (t.ckptReq = none → exec .wckpt s = .next ((Claims.withStream s w.stream t).ends id)) ∧
      (∀ q, t.ckptReq = some q → t.col0 < 32 → exec .wckpt s = .next ((Claims.withStream s w.stream
        (if w.core = t.first ∧ t.ckptStep = none ∧ q + 2 ≤ t.start + w.step then { t with ckptStep := some w.step }
          else t)).ends id)))

/-- R210, R220, R222 to R228: the steps of a stream: its start, a step of a core, a bubble, the vote, the break, the
token, and its resumption after a checkpoint, from the copy of its images that State keeps (DESIGN CHOICE, log entry
50). -/
def Obligations.WaveEvents : Prop :=
  ∀ (s : State) (id : Nat) (t : Stream), s.streams.find id = some t →
    let due (r : Nat) : Prop := (s.die t.die).resetAt + 16 * r ≤ s.cycle
    (t.phase = .loading → t.code ≠ [] → due t.start →
      exec (.waveStreamStart id) s = .next (Claims.withStream s id { t with phase := .active })) ∧
    (∀ j, t.phase = .active → t.voteAt = some j → due (t.start + Claims.voteIn t j) →
      exec (.voteResult id) s = .next (Claims.withStream s id { t with vote := t.votePend })) ∧
    (∀ b, t.phase = .active → t.stopAt = some b → due b →
      (t.killed = false → ∃ u, exec (.waveBreak id) s = .next u ∧ u.stream id = { t with phase := .closing } ∧
        u.timers = s.timers ++ [((s.die t.die).resetAt + 16 * (b + 2), .waveTokenLanding id)] ∧ u.mem = s.mem ∧
        u.ctxs = s.ctxs) ∧
      (t.killed = true → ∃ u, exec (.waveBreak id) s = .next u ∧ u.streams.find id = none ∧ u.mem = s.mem)) ∧
    (t.phase = .closing → t.owner < 2 ^ 20 → (s.ctx t.owner).regSt (.s t.token) = .reserved .wave id →
      ∃ u, exec (.waveTokenLanding id) s = .next u ∧ u.streams.find id = none ∧ u.mem = s.mem ∧
        (t.faults = [] → (u.ctx t.owner).regSt (.s t.token) = .prot .wave none ∧
          (u.ctx t.owner).getS t.token = BitVec.ofNat 64 (t.endStep % 2 ^ 32)) ∧
        (∀ f rest, t.faults = f :: rest →
          (u.ctx t.owner).regSt (.s t.token) = .prot .wave (some
            { code := 0x21, src := 6
              info := [BitVec.ofNat 64 (f.step % 2 ^ 32), (coreAddr s.chip f.core).setWidth 64, f.code.setWidth 64] }) ∧
          bitAt ((u.ctx t.owner).getS t.token) 63 = true ∧ bits ((u.ctx t.owner).getS t.token) 32 8 = f.code ∧
          bits ((u.ctx t.owner).getS t.token) 0 32 = BitVec.ofNat 32 f.step)) ∧
    (t.phase = .preempted → t.wmma = false → buffersFree s t = true →
      ∃ u, exec (.streamResume id) s = .next u ∧ (u.stream id).phase = .resuming ∧ (u.stream id).ckptStep = t.ckptStep ∧
        u.mem = s.mem ∧ ∀ k ∈ t.cores, (u.core k).waveSlots.find (8 * t.s) = some id) ∧
    (t.phase = .resuming → t.wmma = false →
      ∃ u, exec (.streamResume id) s = .next u ∧ (u.stream id).phase = .active ∧ (u.stream id).ckptStep = none ∧
        u.mem = s.mem ∧ u.ctxs = s.ctxs) ∧
    (∀ k, let j := t.progress.getD k 0
      t.phase = .active → t.has k = true → s.rotation k = t.rot j k → j < t.emitted → t.executes j k = true →
      unitFenced s (dieOfCore k) (coreUnit s k) = false → t.ckptStep = none → t.ended = [] →
      (t.steps.find j = some 0 →
        ∃ u, exec (.waveStep id k) s = .next u ∧ (u.stream id).progress.find k = some (j + 1) ∧ u.mem = s.mem ∧
          SameRegs (u.ctx (t.key k)) (s.ctx (t.key k)) ∧
          (if t.s = 0 then (u.core k).wstepA else (u.core k).wstepB) = BitVec.ofNat 32 j) ∧
      (∀ m x i v, t.steps.find j = some (m + 1) → t.code[m]? = some x → x.instrs = [i] →
        (s.ctx (t.key k)).flags.ann = 0 →
        let s1 := ({ s with cur := t.key k } : State).modMe fun c => { c with wave := c.wave.map fun w => { w with step := j } }
        unitPositions s1 s1.me [i] ≤ 1 →
        (meaning i).run (s1.modMe fun c => { c with pc := x.pc, head := x.pc }) = .ok () v →
        (∃ w, v.streams.find id = some w ∧ w.ckptStep = none) →
        ∃ u, exec (.waveStep id k) s = .next u ∧ (u.stream id).progress.find k = some (j + 1) ∧ u.mem = v.mem ∧
          SameRegs (u.ctx (t.key k)) (v.ctx (t.key k)) ∧
          (u.ctx (t.key k)).flags = (v.ctx (t.key k)).flags))

/-! ## Class 7: the supervisor -/

namespace Sys2Proof.Claims

open Sys2Proof.Machine

/-- The state after an instruction that only sets T (R375). -/
def setsT (s : State) (t : Bool) : State := s.ends fun c => { c with flags := { c.flags with t } }

/-- TLBI drops the translations in its scope here, asks every other chip to drop them, and completes once those have
answered and no walk in its scope is under way (R118, R375). -/
def Invalidates (s : State) (i : Instr) (k : TlbiScope) (asid : BitVec 16) (va : Pc) : Prop :=
  (starts i s = true → walksFor s k asid va = false → s.me.waits = [] → otherChips s = [] →
    exec i s = .next ((dropCached k asid va s).ends id)) ∧
  (starts i s = true → otherChips s ≠ [] →
    ∃ t, exec i s = .next t ∧ t.me.instr = some i ∧ t.me.phase = 1 ∧ SameRegs t.me s.me ∧
      SameStores (dropCached k asid va s) t ∧
      ∀ ch ∈ otherChips s, Holds t fun p => p.kind = .order ∧ p.dst = 8192 + ch ∧ p.cx = s.cur ∧ p.va = va ∧
        p.words = [Order.word .invalidate, TlbiScope.word k, asid.setWidth 64]) ∧
  (runs i s = true → s.me.phase = 1 → walksFor s k asid va = false → answered s = true →
    ∃ t, exec i s = .next t ∧ t.me.instr = none ∧ SameArch t.me s.me ∧ SameStores (dropCached k asid va s) t)

end Sys2Proof.Claims

/-- R71, R77, R375 to R380: the privileged instructions in privileged mode. A RESUME brings back what the save image
holds (log entry 50, DESIGN CHOICE); the caches of this package drop their translations in one step, and the chips that
are asked are those of the chip route table (log entry 17, DESIGN CHOICE); a MAPW of a table of another chip is sent
there (log entry 67, DESIGN CHOICE); what CKPT streams, and what KEYZ does to links, are log entries 57 and 58 (DESIGN
CHOICE); which contexts PREEMPT and RESUME leave as they are, log entry 55 (DEDUCED). -/
def Obligations.Supervisor : Prop :=
  ∀ s : State, s.me.priv = true →
    let d := Claims.myDie s
    (∀ v, starts (.mbox v) s = true → ∀ r rest, (s.die d).mailbox = r :: rest →
      ∃ t, exec (.mbox v) s = .next t ∧ SameRegs t.me (s.me.putV v (r.setWidth 1024)) ∧ t.me.flags = s.me.flags ∧
        (t.die d).mailbox = rest ∧ t.mem = s.mem ∧ t.cores = s.cores) ∧
    (∀ v, starts (.mboxNb v) s = true →
      ((s.die d).mailbox = [] → exec (.mboxNb v) s = .next (s.ends fun c => c.putV v 0)) ∧
      (∀ r rest, (s.die d).mailbox = r :: rest →
        ∃ t, exec (.mboxNb v) s = .next t ∧ SameRegs t.me (s.me.putV v (r.setWidth 1024)) ∧
          (t.die d).mailbox = rest ∧ t.mem = s.mem)) ∧
    (∀ a, starts (.fenceu a) s = true →
      (UnitId.ok s (s.val a) = true →
        ∃ t, exec (.fenceu a) s = .next t ∧ (t.die (unitDie (s.val a))).fenced.contains (s.val a) = true ∧
          SameArch t.me s.me ∧ t.mem = s.mem ∧
          (UnitId.kind (s.val a) = 0 → (s.die (unitDie (s.val a))).fenced.contains (s.val a) = false →
            ∀ p ∈ (s.core (UnitId.core (s.val a))).slots, (s.ctx p.2).quitting = false → (t.ctx p.2).kill.isSome = true)) ∧
      (UnitId.ok s (s.val a) = false →
        ∃ t, exec (.fenceu a) s = .next t ∧
          Claims.Records s t { code := 0x41, info := [s.val a], taddr := 0, src := 8 })) ∧
    (∀ a, starts (.fenceuUn a) s = true → UnitId.ok s (s.val a) = true →
      (s.die (unitDie (s.val a))).lasting.contains (s.val a) = false →
      ∃ t, exec (.fenceuUn a) s = .next t ∧ (t.die (unitDie (s.val a))).fenced.contains (s.val a) = false ∧
        SameArch t.me s.me ∧ t.mem = s.mem) ∧
    (∀ v a, starts (.stest v a) s = true → UnitId.ok s (s.val a) = true →
      (s.die (unitDie (s.val a))).fenced.contains (s.val a) = true →
      ∃ t, exec (.stest v a) s = .next t ∧ t.me.instr = some (.stest v a) ∧ SameRegs t.me s.me ∧ SameStores s t ∧
        t.pending = s.pending ++ [.selfTestComplete (s.val a).toNat]) ∧
    (∀ v a, runs (.stest v a) s = true → s.me.phase = 1 → answered s = true →
      ∃ t, exec (.stest v a) s = .next t ∧ SameRegs t.me (s.me.put v ((s.answer 0).words.getD 0 0)) ∧
        t.me.flags = s.me.flags ∧ SameStores s t) ∧
    (∀ a, starts (.preempt a) s = true →
      (namedLive s (s.val a) = none → exec (.preempt a) s = .next (Claims.setsT s false)) ∧
      (∀ k, namedLive s (s.val a) = some k → (s.ctx k).live = true → k < 2 ^ 64 →
        ∃ t, exec (.preempt a) s = .next t ∧ (t.ctx k).preempt = true ∧ t.me.instr = some (.preempt a) ∧
          SameArch t.me s.me ∧ SameStores s t)) ∧
    (∀ a, s.me.phase = 1 → let c := s.ctx (s.me.held.getD 0 0).toNat
      (c.preempt = false ∨ c.live = false) → exec (.preempt a) s = .next (Claims.setsT s true)) ∧
    (∀ skip wr a b c, starts (.resume skip wr a b c) s = true →
      (namedLive s (s.val a) = none → exec (.resume skip wr a b c) s = .next (Claims.setsT s false)) ∧
      (∀ k p n, namedLive s (s.val a) = some k → k ≠ s.cur → (s.ctx k).place = .slot p n → (s.ctx k).run = .faulted →
        c = .s 0 →
        ∃ t, exec (.resume skip wr a b c) s = .next t ∧ (t.ctx k).run = .ready ∧ (t.ctx k).faults = [] ∧
          SameRegs (t.ctx k) (if wr then (s.ctx k).putS 1 (s.val b) else s.ctx k) ∧
          (t.ctx k).pc = (if skip then unitAfter s (s.ctx k) else (s.ctx k).pc) ∧
          SameRegs t.me s.me ∧ t.me.flags = { s.me.flags with t := true } ∧ t.mem = s.mem) ∧
      (∀ k p, namedLive s (s.val a) = some k → k ≠ s.cur → (s.ctx k).place = .saved p → (s.ctx k).priv = false →
        skip = false → c = .s 0 →
        let back := restored s (s.ctx k).coreNo k (s.ctx k)
        ∃ t, exec (.resume skip wr a b c) s = .next t ∧ (t.ctx k).place = .transit ∧
          SameRegs (t.ctx k) (if wr then back.putS 1 (s.val b) else back) ∧ (t.ctx k).pc = back.pc ∧
          t.me.flags = { s.me.flags with t := true } ∧
          Sends s t fun q => q.kind = .arrival ∧ q.dst = p ∧ q.words = [BitVec.ofNat 64 k])) ∧
    (∀ a, starts (.kill a) s = true →
      (namedLive s (s.val a) = none → exec (.kill a) s = .next (Claims.setsT s false)) ∧
      (∀ k, namedLive s (s.val a) = some k →
        ∃ t, exec (.kill a) s = .next t ∧ (t.ctx k).kill = (s.ctx k).kill.or (some s.me.thread) ∧
          t.pending = s.pending ++ [.killCleanup k] ∧ SameRegs t.me s.me ∧ t.me.flags = { s.me.flags with t := true } ∧
          SameStores s t)) ∧
    (∀ v a b, starts (.ckpt v a b) s = true → quiescent s ((s.val a).setWidth 16) = true →
      (s.link (linkEnd 0 18)).up = true ∨ (s.link (linkEnd 2 18)).up = true →
      let asid : BitVec 16 := (s.val a).setWidth 16
      let ranges := ckptRanges s asid
      ∃ t x, exec (.ckpt v a b) s = .next t ∧
        SameRegs t.me (s.me.put v (BitVec.ofNat 64 ((ranges.map (·.2)).sum + 8 * x.queues.length))) ∧
        t.me.flags = s.me.flags ∧ SameStores s t ∧ t.hostOut = s.hostOut ++ [x] ∧ x.store = s.val b ∧
        x.queues = ckptQueues s asid ∧
        ∀ c, c ∈ x.cells ↔ c ∈ s.mem ∧ ∃ r ∈ ranges, dramOf r.1 ≤ c.1 ∧ c.1 < dramOf r.1 + r.2) ∧
    (∀ m, ∃ t, exec (.keyz m) s = .next t ∧ SameArch t.me s.me ∧ t.mem = s.mem ∧ t.cores = s.cores ∧
      (t.die d).keyG = ((s.die d).keyG && !bitAt m 0) ∧ (t.die d).keyP = ((s.die d).keyP && !bitAt m 1) ∧
      (t.die d).keyD = ((s.die d).keyD && !bitAt m 2) ∧
      (bitAt m 0 = true → (t.link (linkEnd d 18)).lst = 0) ∧
      (bitAt m 1 = true → (t.link (linkEnd d 16)).lst = 0 ∧ (t.link (linkEnd d 17)).lst = 0)) ∧
    (∀ a b c, starts (.mapw a b c) s = true →
      let e : Entry := s.val c ++ s.val b
      let pa := (s.val a).toNat
      (pa % 16 = 0 → s.here pa = true → s.me.waits = [] →
        let u := (s.reclaimed.writeBytes pa (bytesOf 16 e)).reclaimed
        ∃ t, exec (.mapw a b c) s = .next t ∧ SameArch t.me s.me ∧ t.mem = u.mem ∧ t.cores = s.cores ∧
          (unmapped s u = [] → t = u.ends id)) ∧
      (pa % 16 = 0 → s.here pa = false →
        ∃ t, exec (.mapw a b c) s = .next t ∧ t.me.instr = some (.mapw a b c) ∧ t.me.phase = 1 ∧ SameRegs t.me s.me ∧
          SameStores s t ∧ Sends s t fun p => p.kind = .order ∧ p.dst = 8192 + chipOf pa ∧ p.pa = pa ∧ p.cx = s.cur ∧
            p.words = [Order.word .mapw, s.val b, s.val c]) ∧
      (pa % 16 ≠ 0 → ∃ t, exec (.mapw a b c) s = .next t ∧
        Claims.Records s t { code := 0x19, info := [BitVec.ofNat 64 pa, 16], taddr := 0 })) ∧
    (∀ a b c, runs (.mapw a b c) s = true → s.me.phase = 1 → (s.val a).toNat % 16 = 0 → answered s = true →
      ∃ t, exec (.mapw a b c) s = .next t ∧ Claims.Completes s t) ∧
    (∀ a b, let asid : BitVec 16 := (s.val a).setWidth 16
      let va : Pc := (s.val b).setWidth 56
      Claims.Invalidates s (.tlbi a b) .page asid va ∧ Claims.Invalidates s (.tlbiAs a b) .asid asid va ∧
      Claims.Invalidates s (.tlbiAll a b) .all asid va ∧
      (∀ k u, u ∈ ((dropCached .page asid va s).core k).tlb ↔ u ∈ (s.core k).tlb ∧ u.hits asid va = false) ∧
      (∀ k u, u ∈ ((dropCached .asid asid va s).core k).tlb ↔ u ∈ (s.core k).tlb ∧ u.asid ≠ asid) ∧
      (∀ k, ((dropCached .all asid va s).core k).tlb = []))

/-- R71: in user mode every privileged instruction, and every access to a privileged control register, faults with 0x07
and has no other effect. -/
def Obligations.Privilege : Prop :=
  ∀ s : State, s.me.priv = false →
    (∀ i (opc : BitVec 8), ((opc = 0xF0 ∧ ((∃ v, i = .mbox v) ∨ ∃ v, i = .mboxNb v)) ∨
        (opc = 0xF1 ∧ ((∃ a, i = .fenceu a) ∨ ∃ a, i = .fenceuUn a)) ∨ (opc = 0xF2 ∧ ∃ d a, i = .stest d a) ∨
        (opc = 0xF3 ∧ ∃ a, i = .preempt a) ∨ (opc = 0xF4 ∧ ∃ x y a b c, i = .resume x y a b c) ∨
        (opc = 0xF5 ∧ ∃ a, i = .kill a) ∨ (opc = 0xF6 ∧ ∃ d a b, i = .ckpt d a b) ∨ (opc = 0xF7 ∧ ∃ m, i = .keyz m) ∨
        (opc = 0xF8 ∧ ∃ a b c, i = .mapw a b c) ∨ (opc = 0xF9 ∧ ((∃ a b, i = .tlbi a b) ∨ (∃ a b, i = .tlbiAs a b) ∨
          ∃ a b, i = .tlbiAll a b))) →
      ∃ t, exec i s = .next t ∧ Claims.Records s t { code := 0x07, info := [opc.setWidth 64], taddr := 0 }) ∧
    (∀ r d, CReg.access r = .rwp ∨ CReg.access r = .rop →
      ∃ t, exec (.mfc d r) s = .next t ∧ Claims.Records s t { code := 0x07, info := [r.code.setWidth 64], taddr := 0 }) ∧
    (∀ r i a, CReg.access r = .rwp → (i = .mtc r a ∨ i = .linkStatusClear r a ∨ (∃ g, r = .region g ∧ i = .regionWrite g a) ∨
        (r = .alarm ∧ i = .alarmWrite a) ∨ (r = .fbctl ∧ i = .holdtr a)) →
      ∃ t, exec i s = .next t ∧ Claims.Records s t { code := 0x07, info := [r.code.setWidth 64], taddr := 0 })

/-! ## Steps of the device: contexts, containment, the fabric -/

namespace Sys2Proof.Claims

open Sys2Proof.Machine

/-- A record of a unit fault with no context (R74). -/
def unitRecord (s : State) (k : Nat) (f : FaultRec) : Line := recordOf 0xFFFFF (threadAddr s.chip k 0) 0 f

/-- No unit of the package is fenced, and no die is away (R376, R379). -/
def allWork (s : State) : Prop := ∀ d u, unitFenced s d u = false ∧ unitLasting s d u = false

/-- The packets and pending steps after a packet has moved; memory, the cores and the registers have not changed. -/
def Moved (s t : State) (id : Nat) (p : Packet) (next : List Instr) : Prop :=
  t.net.find id = some p ∧ t.pending = s.pending ++ next ∧ t.mem = s.mem ∧ t.cores = s.cores ∧
    ∀ k, SameArch (t.ctx k) (s.ctx k)

/-- A packet at a router whose turn it is: the first of its queue, in one phase of one route, with no earlier packet of
its flow unanswered, and not from the host (R355, R358, R361, R369). -/
def mayMove (s : State) (id : Nat) (p : Packet) : Prop :=
  s.net.find id = some p ∧ p.arrived = false ∧ p.link = none ∧ queueHead s id p = true ∧ p.mid = none ∧
    treeOf s p = none ∧ p.cx ≠ hostKey ∧ p.kind ≠ .control ∧ behindWriteBack s id p = false ∧ ∀ d, flowLink s p d = none

/-- The mesh port by which a packet from router a comes in at router b: N 0, E 1, S 2, W 3. -/
def cameBy (a b : Nat) : Nat := if b = a + 1 then 3 else if b + 1 = a then 1 else if b = a + 16 then 0 else 2

/-- A training of a link that another retrain supersedes. -/
def trains (l : Nat) : Instr → Bool
  | .linkTrainingComplete e _ => (linkEnds l).contains e
  | _ => false

/-- The unit of a bundle or port, as the end inside the package names it. -/
def unitOfLink (s : State) (l : Nat) : Word := linkUnit s (if linkOutside l then linkPeer l else l)

/-- The next router on the way from a cluster to another of the same die: along the row first, or along the column with
the route bit (R356). -/
def nextRouter (yx : Bool) (c t : Nat) : Nat :=
  if ccol c ≠ ccol t ∧ (yx = false ∨ crow c = crow t) then if ccol c < ccol t then c + 1 else c - 1
  else if crow c < crow t then c + 16 else c - 16

/-- THR after a reading of the sensor: set above TLIM, clear 5 °C below it, else as it was (R381). -/
def heated (d : Die) (temp : Nat) : Bool :=
  if d.tlim.toNat < temp % 2 ^ 16 then true else if temp % 2 ^ 16 + 20 ≤ d.tlim.toNat then false else d.thr

/-- The registers of a die after a reset (R379). -/
def freshDie (now : Nat) : Die := let d : Die := {}; { d with resetAt := now, down := true }

/-- The unit at the PC of a context is fetched from a line of this chip: its words, and at an entry no fault (R54, R72). -/
def fetched (s : State) (τ : Tlb) (ws : List W96) : Prop :=
  let pc := s.me.pc
  let l := homeLine s τ.e (τ.pa pc)
  pcShape pc = true ∧ s.maps .fetch pc τ = true ∧ s.here (τ.pa pc) = true ∧
    (s.me.entry = true → s.codeReady τ pc = true ∧ lineFault l = none) ∧
    (s.me.entry = false → ∀ k, s.me.code = some k → k.1 ≠ lineVa pc) ∧ unitWords l (bits pc 0 3).toNat = ws

/-- The context with its unit fetched; on an entry to a line it keeps nothing of an earlier wait (R54, R55). -/
def Opened (n : Nat) (c : Ctx) : Ctx :=
  let c := if c.entry then { c with code := none, waits := [], lineBuf := [] } else c
  { c with
    entry := false, lineCount := if c.entry then c.lineCount + 1 else c.lineCount, head := c.pc
    npc := seqNext (if n = 2 then c.pc + 1 else c.pc), xfer := false, run := .ready }

end Sys2Proof.Claims

/-- R77, R177, R178, R377, R67, R151: a held record enters the mailbox with its SEQ; a pre-empted context at a boundary
leaves its slot with its registers; a killed one ends with a record 0x4F; the report of a killed child enters its
parent's handler, or is posted and faults it, at an instruction boundary (DEDUCED, log entry 56); an annulled unit has
no effect; a parked instruction is tried again. The order in which a save image lists its parts is the model's (DESIGN
CHOICE, log entry 50). -/
def Obligations.ContextEvents : Prop :=
  ∀ s : State,
    (∀ d r rest, (s.die d).heldRecs = r :: rest → (s.die d).mailbox.length < 256 →
      ∃ t, exec (.mailboxRecordAccept d) s = .next t ∧ (t.die d).heldRecs = rest ∧
        (t.die d).mailbox = (s.die d).mailbox ++ [setBits r 52 (s.die d).seq] ∧ (t.die d).seq = (s.die d).seq + 1 ∧
        t.mem = s.mem ∧ t.ctxs = s.ctxs ∧ t.cores = s.cores) ∧
    (∀ key k n, let c := s.ctx key
      let own := (s.core k).tiles.filter fun t => t.cx == key && !t.wave
      c.place = .slot k n → c.live = true → c.preempt = true → atBoundary s key = true →
      (withParts s k key (savedImage s key k).savedParts).isSome = true →
      ∃ t, exec (.contextSave key) s = .next t ∧ (t.ctx key).place = .saved k ∧ (t.ctx key).preempt = false ∧
        SameRegs (t.ctx key) c ∧ (t.ctx key).flags = c.flags ∧ (t.ctx key).pc = c.pc ∧
        (t.ctx key).savedTiles = c.savedTiles ++ own ∧ (t.core k).slots.find n = none) ∧
    (∀ key f rest, let c := s.ctx key
      s.cur = key → c.notices = f :: rest → c.flags.ann = 0 → c.run = .ready →
      deliverNotice s = takeException [f] (s.modMe fun c => { c with notices := rest })) ∧
    (∀ key killer, let c := s.ctx key
      key < 2 ^ 20 → c.live = true → c.kill = some killer → c.instr = none → c.place ≠ .transit → c.ctl.stq = 0 →
      (∀ x ∈ s.cores, ∀ r ∈ x.2.taskRows, r.2.cx ≠ key) → engineWork s key = false → (∀ m ∈ s.marks, m.cx ≠ key) →
      ∃ t, exec (.killCleanup key) s = .next t ∧ (t.ctx key).live = false ∧ (t.ctx key).place = .nowhere ∧
        (∀ p ∈ (t.core c.coreNo).slots, p.2 ≠ key) ∧
        recordOf (recordCxid s c) c.thread c.pc { code := 0x4F, info := [killer.setWidth 64], src := 8 } ∈
          (t.die (dieOfCore c.coreNo)).heldRecs) ∧
    (∀ cx τ ws, let c := s.ctx cx
      c.flags.ann ≠ 0 → c.run = .ready → c.instr = none → c.loop0.active = false → c.loop1.active = false →
      Claims.fetched { s with cur := cx } τ ws →
      ∃ t, exec (.annulUnit cx) s = .next t ∧ (t.ctx cx).flags = { c.flags with ann := c.flags.ann - 1 } ∧
        SameRegs (t.ctx cx) c ∧ (t.ctx cx).ctl = c.ctl ∧ SameStores s t ∧
        (t.ctx cx).pc = seqNext (if ws.length = 2 then c.pc + 1 else c.pc)) ∧
    (∀ cx i, (s.ctx cx).instr = some i → (Instr.fields i).isSome = true →
      exec (.parkResume cx) s = retired (exec i { s with cur := cx })) ∧
    (∀ cx w sx d a x t l, let u : State := { s with cur := cx }
      let i : Instr := .ld w sx d a x
      let ea := effAddr (u.val a) x
      let n := Width.bytes w
      (s.ctx cx).instr = some i → Instr.wf false i = true → runs i u = true → Claims.hasData u →
      u.maps .load ea t = true → ea.toNat % n = 0 → (s.ctx cx).lineBuf.find (lineVa ea).toNat = some l →
      exec (.parkResume cx) s = .next (retire (Claims.wrote (Claims.taken u) d
        (Claims.field sx (8 * n) 0 (BitVec.ofNat 64 (l.toNat / 2 ^ (8 * (ea.toNat % 64)) % 2 ^ (8 * n))))))) ∧
    (∀ cx d a b c child, (s.ctx cx).instr = some (.spawn d a b c child) → (s.ctx cx).phase = 1 →
      answered { s with cur := cx } = true → (s.ctx cx).run = .parked → (s.ctx cx).xfer = false →
      (s.ctx cx).loop0.active = false → (s.ctx cx).loop1.active = false →
      ∃ t, exec (.parkResume cx) s = .next t ∧ (t.ctx cx).instr = none ∧ (t.ctx cx).run = .ready ∧
        (t.ctx cx).pc = (s.ctx cx).npc ∧ SameRegs (t.ctx cx) (s.ctx cx) ∧ SameStores s t)

/-- R365, R371, R376, R378, R379, R381: a unit that fails is fenced, reported and tested; a passed test unfences it and
a failed one makes it lasting; the alarm halts its die by its policy; THR follows the sensor; a die is reset, and boots
from an image that verifies, once the way by which it comes is open. That one step fences, kills and reports is DESIGN
CHOICE, log entry 62; which links an alarm brings down and what an image needs on its way, log entry 58 (DESIGN
CHOICE); when the engines follow THR, log entry 64 (DEDUCED). A kill by hardware names slot 0 of the die's supervisor
core as the killer (DEDUCED, log entry 42). -/
def Obligations.Containment : Prop :=
  ∀ s : State,
    (∀ u : Word, UnitId.ok s u = true →
      ((s.die (unitDie u)).fenced.contains u = false →
        ∃ t, exec (.unitErrorDetect u.toNat) s = .next t ∧ (t.die (unitDie u)).fenced.contains u = true ∧ t.mem = s.mem ∧
          Claims.unitRecord s (UnitId.core u) { code := 0x41, info := [u], src := 8 } ∈ (t.die (unitDie u)).heldRecs ∧
          .selfTestComplete u.toNat ∈ t.pending) ∧
      ((s.die (unitDie u)).fenced.contains u = true → (s.die (unitDie u)).lasting.contains u = false →
        ∃ t, exec (.selfTestComplete u.toNat) s = .next t ∧ t.mem = s.mem ∧
          (Config.freeBool s.draws = true → (t.die (unitDie u)).fenced.contains u = false) ∧
          (Config.freeBool s.draws = false → (t.die (unitDie u)).lasting.contains u = true ∧
            (t.die (unitDie u)).fenced.contains u = true ∧
            Claims.unitRecord s (UnitId.core u)
              { code := 0x42, info := [u, BitVec.ofNat 64 (UnitId.test u)], src := 8 } ∈
              (t.die (unitDie u)).heldRecs))) ∧
    (∀ d src, d < 4 → 8 ≤ src → src ≤ 12 →
      ∃ t, exec (.securityAlarm d src) s = .next t ∧ bitAt (t.die d).alarm src = true ∧ t.mem = s.mem ∧
        (t.die d).heldRecs = (s.die d).heldRecs ++
          [Claims.unitRecord s (d * 1024 + 1023) { code := 0x48, info := [BitVec.ofNat 64 src], src := 8 }] ∧
        (bits (s.die d).alarm 0 2 = 0 → (t.die d).halted = (s.die d).halted) ∧
        (bits (s.die d).alarm 0 2 = 1 → (t.die d).halted = true ∧ (t.die d).keyG = (s.die d).keyG) ∧
        (bits (s.die d).alarm 0 2 = 2 →
          (t.die d).halted = true ∧ (t.die d).keyG = false ∧ (t.die d).keyP = false ∧ (t.die d).keyD = false)) ∧
    (∀ d temp,
      (∃ t, exec (.thermalThrottle d temp) s = .next t ∧ (t.die d).dtemp = BitVec.ofNat 16 temp ∧ t.mem = s.mem ∧
        (t.die d).thr = Claims.heated (s.die d) temp) ∧
      (∃ t, exec (.throttleRelease d temp) s = .next t ∧ (t.die d).dtemp = BitVec.ofNat 16 temp ∧ t.mem = s.mem ∧
        (t.die d).thr = Claims.heated (s.die d) temp)) ∧
    (∀ d, d < 4 → (s.die d).holdtr = true → (s.die d).drained = true →
      (∀ p ∈ s.ctxs, p.2.live = false ∨ p.2.wave.isSome = true ∨ dieOfCore p.2.coreNo ≠ d ∨ p.2.place = .transit) →
      ∃ t, exec (.dieReset d) s = .next t ∧ t.die d = Claims.freshDie s.cycle ∧ t.mem = s.mem ∧
        (∀ k, dieOfCore k = d → t.core k = {}) ∧
        ∀ l, l < 16 → (t.link (linkEnd d l)).lst = 0 ∧ (t.link (linkPeer (linkEnd d l))).lst = 0) ∧
    (∀ d im, s.images.find d = some im → imageArrives s d = false →
      exec (.boot d) s = .next { s with pending := s.pending ++ [.boot d] }) ∧
    (∀ d im, s.images.find d = some im → imageArrives s d = true → d < 4 → (s.die d).booted = false →
      (Config.imageValid s.draws = false →
        ∃ t, exec (.boot d) s = .next t ∧ t.mem = s.mem ∧ t.dies = s.dies ∧ t.ctxs = s.ctxs ∧ t.images.find d = none ∧
          t.sideband = s.sideband ++ [d]) ∧
      (Config.imageValid s.draws = true →
        ∃ t, exec (.boot d) s = .next t ∧ t.mem = im.mem.foldl (fun m c => Memory.set m c.1 c.2) s.mem ∧
          (t.die d).booted = true ∧ (t.die d).down = false ∧ (t.die d).crtb = im.crtb &&& crtbMask ∧
          (t.die d).lqbase = im.lqbase &&& ~~~0xFF ∧ (t.die d).lqasid = im.lqasid ∧
          (∀ n, bitAt (t.die d).sptb n = (bitAt im.sptb n && decide (n < 52))) ∧
          (∀ n, bitAt (t.die d).astb n = (bitAt im.astb n && decide (n < 52))) ∧
          (im.pol ≠ 3 → bits (t.die d).alarm 0 2 = im.pol) ∧ t.images.find d = none ∧
          ((im.ctxs.map (·.cxid)).Nodup → ∀ b ∈ im.ctxs, (t.ctx b.cxid.toNat).live = true ∧
            (t.ctx b.cxid.toNat).priv = true ∧ (t.ctx b.cxid.toNat).pc = b.pc ∧ (t.ctx b.cxid.toNat).asid = b.asid)))

/-- R355, R356, R358, R361, R364 to R369, R376, R378, R384: a packet goes router by router to its destination, crosses to
the next die by its bundle, or leaves by a port; a link flit arrives in sequence or is replayed, and the last one of a
packet has it accepted, once and whole; a retrain counts, saturating at 255, and the third failed one fences the link; a
port without its key stays down; the monitor ends its window; a packet waits while no die takes transit; a held die is
drained. Which packets wait and are refused at units out of service is DEDUCED, log entry 61; the answer of a refused DEP,
which carries no fault, is DEDUCED, log entry 96; how link flits of a packet are counted is DESIGN CHOICE, log entry 75. -/
def Obligations.FabricEvents : Prop :=
  ∀ s : State,
    (∀ id p, Claims.mayMove s id p → Claims.allWork s →
      (∀ c, p.dst < 8192 → c = (if p.dst < 4096 then clusterOf p.dst else p.dst - 4096) →
        (c = p.node → ∃ t, exec (.packetForward id) s = .next t ∧ t.ctxs = s.ctxs ∧
          Claims.Moved s t id { p with arrived := true } (arrivalEvent id p)) ∧
        (c ≠ p.node → c / 160 = p.node / 160 →
          let n := Claims.nextRouter (p.yx && decide (p.vc < 5)) p.node c
          ∃ t, exec (.packetForward id) s = .next t ∧ t.ctxs = s.ctxs ∧
            Claims.Moved s t id { p with node := n, port := Claims.cameBy p.node n, entered := s.nextId }
              [.packetForward id]) ∧
        (∀ d, d = p.node / 160 → d < 4 → c / 160 = (d + 1) % 4 → (s.link (linkEnd d p.kappa.toNat)).up = true →
          p.node = linkCluster (linkEnd d p.kappa.toNat) →
          let r := linkEnd ((d + 1) % 4) (15 - p.kappa.toNat)
          replayFlits s r + linkFlits p ≤ 64 →
          ∃ t, exec (.packetForward id) s = .next t ∧ Claims.Moved s t id { p with link := some r } [.linkFlitReceive r]) ∧
        (∀ d, d = p.node / 160 → d < 4 → c / 160 = (d + 2) % 4 → takesTransit s ((d + 1) % 4) = false →
          takesTransit s ((d + 3) % 4) = false →
          exec (.packetForward id) s = .next { s with pending := s.pending ++ [.packetForward id] })) ∧
      (∀ d, p.dst = 8448 + d → d < 4 → p.node = linkCluster (linkEnd d 18) → (s.link (linkEnd d 18)).up = true →
        let r := linkEnd d 26
        replayFlits s r + linkFlits p ≤ 64 →
        ∃ t, exec (.packetForward id) s = .next t ∧ Claims.Moved s t id { p with link := some r } [.linkFlitReceive r]) ∧
      (8192 ≤ p.dst → p.dst < 8448 → bitAt (s.die (p.node / 160)).crtb 0 = false →
        (p.kind ≠ .deposit → ∃ t l, exec (.packetForward id) s = .next t ∧ t.mem = s.mem ∧
          Claims.Answers t p [{ code := 0x41, info := [linkUnit s l], taddr := p.va, src := 8 }]) ∧
        (p.kind = .deposit → ∃ t, exec (.packetForward id) s = .next t ∧ t.mem = s.mem ∧ Claims.Answers t p []))) ∧
    (∀ l id p, (s.link l).up = true → nextOnLink s l = some (id, p) →
      let n := (s.link l).partOf id + 1
      (Config.freeBool s.draws = true →
        ((s.link l).replayAt.filter fun t => decide (s.cycle < t + 65536)).length < 16 →
        ∃ t, exec (.linkFlitReceive l) s = .next t ∧ (t.link l).lst = 3 ∧ t.net = s.net ∧ t.mem = s.mem ∧
          (t.link l).part = none ∧ t.pending = s.pending ++ [.linkFlitReceive l] ∧
          (t.link l).crce = if (s.link l).crce = 0xFFFF then 0xFFFF else (s.link l).crce + 1) ∧
      (Config.freeBool s.draws = false → n < linkFlits p →
        ∃ t, exec (.linkFlitReceive l) s = .next t ∧ (t.link l).lst = 2 ∧ (t.link l).seq = (s.link l).seq + 1 ∧
          (t.link l).part = some (id, n) ∧ t.net = s.net ∧ t.cores = s.cores ∧ t.mem = s.mem ∧
          t.pending = s.pending ++ [.linkFlitReceive l]) ∧
      (Config.freeBool s.draws = false → linkFlits p ≤ n →
        ∃ t, exec (.linkFlitReceive l) s = .next t ∧ (t.link l).lst = 2 ∧ (t.link l).seq = (s.link l).seq + 1 ∧
          (t.link l).part = none ∧ t.cores = s.cores ∧ t.mem = s.mem ∧
          (linkOutside l = false →
            t.net.find id = some { p with link := none, node := linkCluster l, port := 10 + linkIx l, entered := s.nextId } ∧
            t.pending = s.pending ++ [.packetForward id]) ∧
          (linkOutside l = true → t.net = s.net.del id ∧ t.portOut = s.portOut ++
            [{ p with link := some (linkPeer l), hops := p.hops + (if linkIx l = 26 then 0 else 1) }]))) ∧
    (∀ l p, (s.link l).up = true → nextOnLink s l = none → s.portIn.find? (fun p => p.link == some l) = some p →
      Config.freeBool s.draws = false → linkFlits p ≤ (s.link l).partOf 0 + 1 →
      ∃ t q, exec (.linkFlitReceive l) s = .next t ∧ t.portIn = s.portIn.erase p ∧ t.net = s.net.put s.nextId q ∧
        q.node = linkCluster l ∧ q.link = none ∧ q.arrived = false ∧ q.dst = p.dst ∧ q.data = p.data ∧ q.words = p.words ∧
        t.pending = s.pending ++ [.packetForward s.nextId] ∧ t.mem = s.mem ∧ t.cores = s.cores) ∧
    (∀ l, (s.link l).up = true →
      ∃ t, exec (.retrain l) s = .next t ∧
        t.pending = (s.pending.filter fun i => !Claims.trains l i) ++ [.linkTrainingComplete l (s.link l).rev] ∧
        t.mem = s.mem ∧ ∀ e ∈ linkEnds l, (t.link e).lst = 1 ∧
          (t.link e).lrtc = if 255 ≤ (s.link e).lrtc.toNat then 255 else (s.link e).lrtc + 1) ∧
    (∀ l, (s.link l).lst = 1 → (s.link l).failed = 2 →
      let u := Claims.unitOfLink s l
      ∃ t, exec (.retrain l) s = .next t ∧ t.mem = s.mem ∧ (∀ e ∈ linkEnds l, (t.link e).lst = 4) ∧
        (t.die (linkDie l)).fenced = (s.die (linkDie l)).fenced ++ [u] ∧
        (t.die (linkDie l)).heldRecs = (s.die (linkDie l)).heldRecs ++
          [Claims.unitRecord s (bits u 0 12 : BitVec 12).toNat { code := 0x41, info := [u], src := 8 }] ∧
        .selfTestComplete u.toNat ∈ t.pending) ∧
    (∀ l rev, (s.link l).lst ≠ 4 → (s.link l).lst ≠ 5 →
      (linkKeyed s l = true → (s.die (linkDie l)).halted = false ∨ linkIx l < 16 →
        ∃ t, exec (.linkTrainingComplete l rev) s = .next t ∧ (t.link l).rev = rev ∧ t.mem = s.mem ∧
          (∀ e ∈ linkEnds l, (t.link e).lst = 2) ∧ t.pending = s.pending ++ (linkEnds l).map .linkFlitReceive) ∧
      (linkKeyed s l = false →
        ∃ t, exec (.linkTrainingComplete l rev) s = .next t ∧ t.mem = s.mem ∧ t.pending = s.pending ∧
          ∀ e ∈ linkEnds l, (t.link e).lst = 0)) ∧
    (∀ d k m, let w := (s.die d).windowFlits
      let total := (w.map (·.2)).sum
      (k, m) ∈ w → (∀ q ∈ w, q ≠ (k, m) → q.2 < m) → 0 < m →
      ∃ t, exec (.llmonWindow d) s = .next t ∧ (t.die d).windowFlits = [] ∧ t.mem = s.mem ∧
        (t.die d).llLink = BitVec.ofNat 16 k ∧ (t.die d).llImb = BitVec.ofNat 16 (Nat.min (16 * m * 588 / total) 0xFFFF) ∧
        (t.die d).llActive = ((s.die d).bulken && decide ((s.die d).balth.toNat < Nat.min (16 * m * 588 / total) 0xFFFF))) ∧
    (∀ d, (s.die d).holdtr = true → (∀ p ∈ s.net, inTransit s d p.2 = false) →
      ∃ t, exec (.transitDrainEnd d) s = .next t ∧ (t.die d).drained = true ∧ t.mem = s.mem ∧ t.ctxs = s.ctxs)

/-! ## The whole machine -/

/-- R72, R147, R176: when the turn is that of a core whose slot holds a context that can issue, and its PC decodes to one
instruction that keeps its banks, a step is exec of that instruction and then the advance of the PC; a context that was
parked at its unit lends the position if it parks there again. Whether a unit loses its banks to an engine is a free value
(DESIGN CHOICE, log entry 36). -/
def Obligations.StepRunsDecoded : Prop :=
  ∀ (s : State) (k key : Nat) (rest : List Nat) (τ : Tlb) (w : W96) (i : Instr),
    s.due = [] → s.pending = [] → s.inputs = [] → s.portIn = [] → s.todo = k :: rest → k < 4096 →
    coreRuns s k = true → coreFenced s k = false → (s.core k).waveSlots.find (position s k) = none →
    (s.core k).slots.find (position s k) = some key → turnOf s key true = .issue →
    (s.ctx key).notices = [] → (s.ctx key).savedTiles = [] →
    let s1 : State := { s with todo := rest, cur := key }
    let c := s.ctx key
    Claims.fetched s1 τ [w] → decodeAt false w c.pc = some i → (Instr.privInfo i = none ∨ c.priv = true) →
    let s2 := s1.modMe (Claims.Opened 1)
    let u := if mayLose [i] s2 = true then { s2 with draws := s2.draws + 1 } else s2
    (mayLose [i] s2 = true → Config.freeBool s.draws = false) →
    unitPositions u u.me [i] ≤ (s.core c.coreNo).forfeits.getD c.slotNo 0 + 1 →
    let o := retired (exec i (u.modCore c.coreNo fun k =>
      { k with forfeits := k.forfeits.del c.slotNo, losses := k.losses.del c.slotNo }))
    step s = if c.waitsForUnit then afterUnitPark k rest o else o

/-- R58 to R62, R69: the words of the spec's worked examples decode to the instructions that they stand for, and words that
break a rule of the encoding do not decode. -/
def Obligations.DecodeWords : Prop :=
  (decode false 0x000000000000000000000000).toOption = some .nop ∧
  -- li s5, 0x40; add s6, s6, 1; fence.x d, c
  (decode false 0x150005000000000000000040).toOption = some (.li (.s 5) 0x40) ∧
  (decode false 0x018006060000000000000001).toOption = some (.add .wrap ⟨false, .s 6, .s 6, .imm 1⟩) ∧
  (decode false 0x2F0000000000000000000104).toOption = some (.fenceX 1 4) ∧
  -- lea.x8 s13, s1, s11; ld s16, [s13]; cmp.geu s10, s15; test.z s16, s14
  (decode false 0x16300D010B00000000000000).toOption = some (.lea 3 (.s 13) (.s 1) (.s 11) 0) ∧
  (decode false 0x4030100D0000000000000000).toOption = some (.ld .w64 false (.s 16) (.s 13) 0) ∧
  (decode false 0x1890000A0F00000000000000).toOption = some (.cmp .geu 0 (.s 10) (.s 15)) ∧
  (decode false 0x1A1000100E00000000000000).toOption = some (.test true 0 (.s 16) (.reg (.s 14))) ∧
  -- vscan.f32 v2, v1, add; vfma.f32 [s6]+, [s4]+, v3, s9
  (decode false 0x772022210000000000000000).toOption = some (.vscan .f32 false .add (.v 2) (.v 1) (.s 0)) ∧
  (decode false 0x6320C6C42309000000000000).toOption = some (.vfma ⟨.f32, false, .rne, .spi 6, .spi 4, .v 3, .s 9⟩) ∧
  -- in a stream: add s20, s20, lw; vred.i32 le, v1, max, s15; wloop.lc0 11, end
  (decode true 0x010014146000000000000000).toOption = some (.add .wrap ⟨false, .s 20, .s 20, .reg .lw⟩) ∧
  (decode true 0x76006221000F000000000002).toOption = some (.vred .i32 .max .le (.v 1) (.s 15)) ∧
  (decode true 0xE2000000000B00000000002A).toOption = some (.wloop false 11 ⟨5, 2⟩) ∧
  (decode false 0xE00017191800000000000008).toOption = some (.wbegin 0 false false 23 (.s 25) (.s 24) 8 0) ∧
  -- wmma.e4e4.wl.nl.ia.ib t0, s4, s5
  (decode true 0x8363A0040500000000000000).toOption = some (.wmma false true true true true 0 4 5) ∧
  -- awr 0, s14, s14, 8; amvm s20, 0, s12; bld.buf b0, 0, 0; accept.grid.i32 v1, b0, 5
  (decode false 0xA000000E0E00000000000700).toOption = some (.awr (.s 14) (.s 14) 7 0) ∧
  (decode false 0xA200140C0000000000000000).toOption = some (.amvm 20 (.s 12) 0) ∧
  (decode false 0xA71040000000000000000000).toOption = some (.bldBuf 0 0 0) ∧
  (decode false 0xAE0121400000000000000005).toOption = some (.acceptGrid true 1 0 5) ∧
  -- dzero s20, [s3]; dcopy s21, [s1], [s3]; migrate s19, s1 .. s5, s9 .. s11
  (decode false 0xCC0014030000000000000000).toOption = some (.dzero 20 (.s 3)) ∧
  (decode false 0xCB0015010300000000000000).toOption = some (.dcopy 21 (.s 1) (.s 3)) ∧
  (decode false 0xCF0000130000000000000E3E).toOption = some (.migrate (.s 19) 0x71F) ∧
  -- jst.fold [s12], s11; bump.cnt [s4], s5
  (decode false 0x48B0000C0B00000000000000).toOption = some (.jst .fold false (.s 12) (.s 11) 0) ∧
  (decode false 0x4B9000040500000000000000).toOption = some (.bump false false (.s 4) (.s 5) 0) ∧
  -- keyz 7; mbox.nb v3
  (decode false 0xF70000000000000000000007).toOption = some (.keyz 7) ∧ (decode false 0xF01023000000000000000000).toOption = some (.mboxNb 3) ∧
  -- a NOP with a field, an unassigned OPC, a link register outside a stream, mode 3 of ADD, a target slot of 5
  (decode false 0x000000000000000000000001).toOption = none ∧ (decode false 0x1D0000000000000000000000).toOption = none ∧
  (decode false 0x010014146000000000000000).toOption = none ∧ (decode false 0x013006060100000000000000).toOption = none ∧
  (decode false 0x200000000000000000000005).toOption = none

/-- R59, R69: every well-formed instruction is what the decoder reads from its word, with every operand. -/
def Obligations.DecodeEncode : Prop :=
  ∀ (w : Bool) (i : Instr), i.fields.isSome = true → i.wf w = true → decode w (encode i) = .ok i

/-- R371, R376: what reset leaves: no context, empty memory in its canonical form, and the registers of each die at the
values of their tables. That AVC, AVA, AVS and AVD hold all ones is the model's choice (DESIGN CHOICE, log entry 6), and
so is that memory lists nothing (DESIGN CHOICE, log entry 1). -/
def Obligations.ResetState : Prop :=
  State.reset.ctxs = [] ∧ State.reset.mem = [] ∧ Memory.wf State.reset.mem = true ∧
    ∀ d, let x := State.reset.die d
      x.avc = BitVec.allOnes 640 ∧ x.ava = BitVec.allOnes 640 ∧ x.avs = (BitVec.allOnes 160).setWidth 192 ∧
        x.avd = BitVec.allOnes 128 ∧ x.alarm = 2 ∧ x.balth = 0x30 ∧ x.bulken = true ∧ x.holdtr = false ∧ x.tlim = 420 ∧
        x.booted = false ∧ x.mailbox = [] ∧ x.fenced = [] ∧ x.lasting = []

/-- R112: a byte of memory reads as the byte last written to it, a write leaves every other byte alone, and memory keeps
its canonical form, in which equal memories are equal lists. -/
def Obligations.MemoryLaws : Prop :=
  ∀ (m : List Host.Cell) (a : Nat), Memory.wf m = true →
    (∀ b, Memory.wf (Memory.set m a b) = true ∧ Memory.get (Memory.set m a b) a = b ∧
      ∀ j, j ≠ a → Memory.get (Memory.set m a b) j = Memory.get m j) ∧
    (∀ bs, Memory.wf (Memory.write m a bs) = true ∧ Memory.read (Memory.write m a bs) a bs.length = bs ∧
      ∀ j, (j < a ∨ a + bs.length ≤ j) → Memory.get (Memory.write m a bs) j = Memory.get m j) ∧
    ∀ n : List Host.Cell, Memory.wf n = true → (∀ j, Memory.get m j = Memory.get n j) → m = n

/-- Every step keeps the canonical form of memory. -/
def Obligations.StepKeepsMemory : Prop :=
  ∀ s t : State, Memory.wf s.mem = true → step s = .next t → Memory.wf t.mem = true

namespace Sys2Proof.Claims

open Sys2Proof.Machine

/-- FLAGS.B and FLAGS.O of a context have not been cleared (R66). -/
def Sticky (c d : Ctx) : Prop := (c.flags.b = true → d.flags.b = true) ∧ (c.flags.o = true → d.flags.o = true)

/-- A live context under its CXID, which is no wave context, of which no core keeps a part of a save image, and whose CXID
no launch under way is about to give to another. -/
def standing (s : State) (key : Nat) : Prop :=
  let c := s.ctx key
  key < 2 ^ 20 ∧ c.live = true ∧ c.cxid.toNat = key ∧ c.wave = none ∧ (∀ k, noParts s k key) ∧
    ∀ g ∈ s.groups, ∀ p ∈ g.2.plan, ∀ i, i < p.count → BitVec.ofNat 20 (g.2.cxbase + p.base + i) ≠ c.cxid

/-- A RESUME that may bring a context back from its image. -/
def resumes (s : State) (i : Instr) (key : Nat) : Prop :=
  (∃ x y a b c, i = .resume x y a b c) ∧ ¬(key = s.cur ∧ s.me.run ≠ .faulted ∧ ∀ k, s.me.place ≠ .saved k)

/-- R66: no instruction of classes 0 to 5 clears FLAGS.B or FLAGS.O, whatever the state. -/
def FlagsStickyHere : Prop :=
  ∀ (i : Instr) (f : Fields) (s t : State), i.fields = some f → (bits f.opc 5 3).toNat ≤ 5 → exec i s = .next t →
    t.cur = s.cur ∧ Sticky s.me t.me

/-- R66: no instruction clears FLAGS.B or FLAGS.O of a standing context, its own or another's, but for a RESUME that brings
it back. -/
def FlagsStickyAll : Prop :=
  ∀ (i : Instr) (s t : State) (key : Nat), standing s key → i.fields.isSome = true → ¬resumes s i key → exec i s = .next t →
    Sticky (s.ctx key) (t.ctx key)

/-- R66: nor does a step of the device, but for a boot, whose image may name the context; the steps of streams are those of
their own contexts. -/
def FlagsStickyDevice : Prop :=
  ∀ (i : Instr) (s t : State) (key : Nat), standing s key → i.fields = none → (∀ d, i ≠ .boot d) →
    (∀ st k, i ≠ .waveStep st k) →
    (∀ cx j, i = .parkResume cx → (s.ctx cx).instr = some j → j.fields.isSome = true ∧ ¬resumes { s with cur := cx } j key) →
    exec i s = .next t → Sticky (s.ctx key) (t.ctx key)

end Sys2Proof.Claims

/-- R66: no instruction clears FLAGS.B or FLAGS.O: of its own context whatever the state in classes 0 to 5, and in every
class of any context that stands; nor does a step of the device. A RESUME gives a context the flags of its image, and a boot
makes the contexts of its own. -/
def Obligations.FlagsSticky : Prop :=
  Sys2Proof.Claims.FlagsStickyHere ∧ Sys2Proof.Claims.FlagsStickyAll ∧ Sys2Proof.Claims.FlagsStickyDevice
end

