-- ==== Sys2Proof/Laws/State.lean ====
section
/-!
SUPPORT. The laws of State: keyed maps, one lemma per field per update, and reads after updates.
-/

namespace Sys2Proof.Machine

/-! ### Keyed maps -/

@[simp] theorem Map.find_put_same {α : Type} (m : Map α) (k : Nat) (a : α) : (m.put k a).find k = some a := by
  induction m with
  | nil => simp [Map.put, Map.find]
  | cons p m ih =>
    obtain ⟨j, b⟩ := p
    simp only [Map.put]
    split
    · simp [Map.find]
    · split
      · simp [Map.find]
      · rename_i h
        simp [Map.find, Ne.symm h, ih]

@[simp] theorem Map.find_put_other {α : Type} (m : Map α) {j k : Nat} (a : α) (h : j ≠ k) :
    (m.put k a).find j = m.find j := by
  induction m with
  | nil => simp [Map.put, Map.find, Ne.symm h]
  | cons p m ih =>
    obtain ⟨i, b⟩ := p
    simp only [Map.put]
    split
    · simp [Map.find, Ne.symm h]
    · split
      · rename_i e
        subst e
        simp [Map.find, Ne.symm h]
      · simp [Map.find, ih]

@[simp] theorem Map.put_put {α : Type} (m : Map α) (k : Nat) (a b : α) : (m.put k a).put k b = m.put k b := by
  induction m with
  | nil => simp [Map.put]
  | cons p m ih =>
    obtain ⟨j, c⟩ := p
    by_cases h1 : k < j
    · simp [Map.put, h1]
    · by_cases h2 : k = j
      · subst h2; simp [Map.put]
      · simp [Map.put, h1, h2, ih]

theorem Map.find_del_same {α : Type} (m : Map α) (k : Nat) : (m.del k).find k = none := by
  induction m with
  | nil => rfl
  | cons p m ih =>
    obtain ⟨j, b⟩ := p
    simp only [Map.del, List.filter_cons] at ih ⊢
    by_cases h : j = k
    · simp [h, ih]
    · simp [Map.find, h, ih]

theorem Map.find_del_other {α : Type} (m : Map α) {j k : Nat} (h : j ≠ k) : (m.del k).find j = m.find j := by
  induction m with
  | nil => rfl
  | cons p m ih =>
    obtain ⟨i, b⟩ := p
    simp only [Map.del, List.filter_cons] at ih ⊢
    by_cases h1 : i = k
    · subst h1
      simp [Map.find, Ne.symm h, ih]
    · simp [Map.find, h1, ih]

@[simp] theorem Map.getD_put_same {α : Type} (m : Map α) (k : Nat) (a d : α) : (m.put k a).getD k d = a := by
  simp [Map.getD]

@[simp] theorem Map.getD_put_other {α : Type} (m : Map α) {j k : Nat} (a d : α) (h : j ≠ k) :
    (m.put k a).getD j d = m.getD j d := by
  simp [Map.getD, h]

namespace State

/-! ### setCtx -/

@[simp] theorem setCtx_cycle (s : State) (k : Nat) (c : Ctx) : (s.setCtx k c).cycle = s.cycle := rfl
@[simp] theorem setCtx_draws (s : State) (k : Nat) (c : Ctx) : (s.setCtx k c).draws = s.draws := rfl
@[simp] theorem setCtx_nextId (s : State) (k : Nat) (c : Ctx) : (s.setCtx k c).nextId = s.nextId := rfl
@[simp] theorem setCtx_cur (s : State) (k : Nat) (c : Ctx) : (s.setCtx k c).cur = s.cur := rfl
@[simp] theorem setCtx_cores (s : State) (k : Nat) (c : Ctx) : (s.setCtx k c).cores = s.cores := rfl
@[simp] theorem setCtx_clusters (s : State) (k : Nat) (c : Ctx) : (s.setCtx k c).clusters = s.clusters := rfl
@[simp] theorem setCtx_dies (s : State) (k : Nat) (c : Ctx) : (s.setCtx k c).dies = s.dies := rfl
@[simp] theorem setCtx_mem (s : State) (k : Nat) (c : Ctx) : (s.setCtx k c).mem = s.mem := rfl
@[simp] theorem setCtx_bad (s : State) (k : Nat) (c : Ctx) : (s.setCtx k c).bad = s.bad := rfl
@[simp] theorem setCtx_units (s : State) (k : Nat) (c : Ctx) : (s.setCtx k c).units = s.units := rfl
@[simp] theorem setCtx_net (s : State) (k : Nat) (c : Ctx) : (s.setCtx k c).net = s.net := rfl
@[simp] theorem setCtx_marks (s : State) (k : Nat) (c : Ctx) : (s.setCtx k c).marks = s.marks := rfl
@[simp] theorem setCtx_waiters (s : State) (k : Nat) (c : Ctx) : (s.setCtx k c).waiters = s.waiters := rfl
@[simp] theorem setCtx_timers (s : State) (k : Nat) (c : Ctx) : (s.setCtx k c).timers = s.timers := rfl
@[simp] theorem setCtx_due (s : State) (k : Nat) (c : Ctx) : (s.setCtx k c).due = s.due := rfl
@[simp] theorem setCtx_pending (s : State) (k : Nat) (c : Ctx) : (s.setCtx k c).pending = s.pending := rfl
@[simp] theorem setCtx_inputs (s : State) (k : Nat) (c : Ctx) : (s.setCtx k c).inputs = s.inputs := rfl
@[simp] theorem setCtx_images (s : State) (k : Nat) (c : Ctx) : (s.setCtx k c).images = s.images := rfl
@[simp] theorem setCtx_todo (s : State) (k : Nat) (c : Ctx) : (s.setCtx k c).todo = s.todo := rfl
@[simp] theorem setCtx_groups (s : State) (k : Nat) (c : Ctx) : (s.setCtx k c).groups = s.groups := rfl
@[simp] theorem setCtx_streams (s : State) (k : Nat) (c : Ctx) : (s.setCtx k c).streams = s.streams := rfl
@[simp] theorem setCtx_hostOut (s : State) (k : Nat) (c : Ctx) : (s.setCtx k c).hostOut = s.hostOut := rfl
@[simp] theorem setCtx_sideband (s : State) (k : Nat) (c : Ctx) : (s.setCtx k c).sideband = s.sideband := rfl
@[simp] theorem setCtx_portOut (s : State) (k : Nat) (c : Ctx) : (s.setCtx k c).portOut = s.portOut := rfl
@[simp] theorem setCtx_portIn (s : State) (k : Nat) (c : Ctx) : (s.setCtx k c).portIn = s.portIn := rfl
@[simp] theorem setCtx_chip (s : State) (k : Nat) (c : Ctx) : (s.setCtx k c).chip = s.chip := rfl
@[simp] theorem setCtx_reclaim (s : State) (k : Nat) (c : Ctx) : (s.setCtx k c).reclaim = s.reclaim := rfl
@[simp] theorem setCtx_unitSeq (s : State) (k : Nat) (c : Ctx) : (s.setCtx k c).unitSeq = s.unitSeq := rfl
@[simp] theorem setCtx_core (s : State) (k : Nat) (c : Ctx) (j : Nat) : (s.setCtx k c).core j = s.core j := rfl
@[simp] theorem setCtx_cluster (s : State) (k : Nat) (c : Ctx) (j : Nat) : (s.setCtx k c).cluster j = s.cluster j := rfl
@[simp] theorem setCtx_die (s : State) (k : Nat) (c : Ctx) (j : Nat) : (s.setCtx k c).die j = s.die j := rfl
@[simp] theorem setCtx_byte (s : State) (k : Nat) (c : Ctx) (a : Nat) : (s.setCtx k c).byte a = s.byte a := rfl

/-! ### setMe -/

@[simp] theorem setMe_cycle (s : State) (c : Ctx) : (s.setMe c).cycle = s.cycle := rfl
@[simp] theorem setMe_draws (s : State) (c : Ctx) : (s.setMe c).draws = s.draws := rfl
@[simp] theorem setMe_nextId (s : State) (c : Ctx) : (s.setMe c).nextId = s.nextId := rfl
@[simp] theorem setMe_cur (s : State) (c : Ctx) : (s.setMe c).cur = s.cur := rfl
@[simp] theorem setMe_cores (s : State) (c : Ctx) : (s.setMe c).cores = s.cores := rfl
@[simp] theorem setMe_clusters (s : State) (c : Ctx) : (s.setMe c).clusters = s.clusters := rfl
@[simp] theorem setMe_dies (s : State) (c : Ctx) : (s.setMe c).dies = s.dies := rfl
@[simp] theorem setMe_mem (s : State) (c : Ctx) : (s.setMe c).mem = s.mem := rfl
@[simp] theorem setMe_bad (s : State) (c : Ctx) : (s.setMe c).bad = s.bad := rfl
@[simp] theorem setMe_units (s : State) (c : Ctx) : (s.setMe c).units = s.units := rfl
@[simp] theorem setMe_net (s : State) (c : Ctx) : (s.setMe c).net = s.net := rfl
@[simp] theorem setMe_marks (s : State) (c : Ctx) : (s.setMe c).marks = s.marks := rfl
@[simp] theorem setMe_waiters (s : State) (c : Ctx) : (s.setMe c).waiters = s.waiters := rfl
@[simp] theorem setMe_timers (s : State) (c : Ctx) : (s.setMe c).timers = s.timers := rfl
@[simp] theorem setMe_due (s : State) (c : Ctx) : (s.setMe c).due = s.due := rfl
@[simp] theorem setMe_pending (s : State) (c : Ctx) : (s.setMe c).pending = s.pending := rfl
@[simp] theorem setMe_inputs (s : State) (c : Ctx) : (s.setMe c).inputs = s.inputs := rfl
@[simp] theorem setMe_images (s : State) (c : Ctx) : (s.setMe c).images = s.images := rfl
@[simp] theorem setMe_todo (s : State) (c : Ctx) : (s.setMe c).todo = s.todo := rfl
@[simp] theorem setMe_groups (s : State) (c : Ctx) : (s.setMe c).groups = s.groups := rfl
@[simp] theorem setMe_streams (s : State) (c : Ctx) : (s.setMe c).streams = s.streams := rfl
@[simp] theorem setMe_hostOut (s : State) (c : Ctx) : (s.setMe c).hostOut = s.hostOut := rfl
@[simp] theorem setMe_sideband (s : State) (c : Ctx) : (s.setMe c).sideband = s.sideband := rfl
@[simp] theorem setMe_portOut (s : State) (c : Ctx) : (s.setMe c).portOut = s.portOut := rfl
@[simp] theorem setMe_portIn (s : State) (c : Ctx) : (s.setMe c).portIn = s.portIn := rfl
@[simp] theorem setMe_chip (s : State) (c : Ctx) : (s.setMe c).chip = s.chip := rfl
@[simp] theorem setMe_reclaim (s : State) (c : Ctx) : (s.setMe c).reclaim = s.reclaim := rfl
@[simp] theorem setMe_unitSeq (s : State) (c : Ctx) : (s.setMe c).unitSeq = s.unitSeq := rfl
@[simp] theorem setMe_core (s : State) (c : Ctx) (j : Nat) : (s.setMe c).core j = s.core j := rfl
@[simp] theorem setMe_cluster (s : State) (c : Ctx) (j : Nat) : (s.setMe c).cluster j = s.cluster j := rfl
@[simp] theorem setMe_die (s : State) (c : Ctx) (j : Nat) : (s.setMe c).die j = s.die j := rfl
@[simp] theorem setMe_byte (s : State) (c : Ctx) (a : Nat) : (s.setMe c).byte a = s.byte a := rfl

/-! ### modCtx -/

@[simp] theorem modCtx_cycle (s : State) (k : Nat) (f : Ctx → Ctx) : (s.modCtx k f).cycle = s.cycle := rfl
@[simp] theorem modCtx_draws (s : State) (k : Nat) (f : Ctx → Ctx) : (s.modCtx k f).draws = s.draws := rfl
@[simp] theorem modCtx_nextId (s : State) (k : Nat) (f : Ctx → Ctx) : (s.modCtx k f).nextId = s.nextId := rfl
@[simp] theorem modCtx_cur (s : State) (k : Nat) (f : Ctx → Ctx) : (s.modCtx k f).cur = s.cur := rfl
@[simp] theorem modCtx_cores (s : State) (k : Nat) (f : Ctx → Ctx) : (s.modCtx k f).cores = s.cores := rfl
@[simp] theorem modCtx_clusters (s : State) (k : Nat) (f : Ctx → Ctx) : (s.modCtx k f).clusters = s.clusters := rfl
@[simp] theorem modCtx_dies (s : State) (k : Nat) (f : Ctx → Ctx) : (s.modCtx k f).dies = s.dies := rfl
@[simp] theorem modCtx_mem (s : State) (k : Nat) (f : Ctx → Ctx) : (s.modCtx k f).mem = s.mem := rfl
@[simp] theorem modCtx_bad (s : State) (k : Nat) (f : Ctx → Ctx) : (s.modCtx k f).bad = s.bad := rfl
@[simp] theorem modCtx_units (s : State) (k : Nat) (f : Ctx → Ctx) : (s.modCtx k f).units = s.units := rfl
@[simp] theorem modCtx_net (s : State) (k : Nat) (f : Ctx → Ctx) : (s.modCtx k f).net = s.net := rfl
@[simp] theorem modCtx_marks (s : State) (k : Nat) (f : Ctx → Ctx) : (s.modCtx k f).marks = s.marks := rfl
@[simp] theorem modCtx_waiters (s : State) (k : Nat) (f : Ctx → Ctx) : (s.modCtx k f).waiters = s.waiters := rfl
@[simp] theorem modCtx_timers (s : State) (k : Nat) (f : Ctx → Ctx) : (s.modCtx k f).timers = s.timers := rfl
@[simp] theorem modCtx_due (s : State) (k : Nat) (f : Ctx → Ctx) : (s.modCtx k f).due = s.due := rfl
@[simp] theorem modCtx_pending (s : State) (k : Nat) (f : Ctx → Ctx) : (s.modCtx k f).pending = s.pending := rfl
@[simp] theorem modCtx_inputs (s : State) (k : Nat) (f : Ctx → Ctx) : (s.modCtx k f).inputs = s.inputs := rfl
@[simp] theorem modCtx_images (s : State) (k : Nat) (f : Ctx → Ctx) : (s.modCtx k f).images = s.images := rfl
@[simp] theorem modCtx_todo (s : State) (k : Nat) (f : Ctx → Ctx) : (s.modCtx k f).todo = s.todo := rfl
@[simp] theorem modCtx_groups (s : State) (k : Nat) (f : Ctx → Ctx) : (s.modCtx k f).groups = s.groups := rfl
@[simp] theorem modCtx_streams (s : State) (k : Nat) (f : Ctx → Ctx) : (s.modCtx k f).streams = s.streams := rfl
@[simp] theorem modCtx_hostOut (s : State) (k : Nat) (f : Ctx → Ctx) : (s.modCtx k f).hostOut = s.hostOut := rfl
@[simp] theorem modCtx_sideband (s : State) (k : Nat) (f : Ctx → Ctx) : (s.modCtx k f).sideband = s.sideband := rfl
@[simp] theorem modCtx_portOut (s : State) (k : Nat) (f : Ctx → Ctx) : (s.modCtx k f).portOut = s.portOut := rfl
@[simp] theorem modCtx_portIn (s : State) (k : Nat) (f : Ctx → Ctx) : (s.modCtx k f).portIn = s.portIn := rfl
@[simp] theorem modCtx_chip (s : State) (k : Nat) (f : Ctx → Ctx) : (s.modCtx k f).chip = s.chip := rfl
@[simp] theorem modCtx_reclaim (s : State) (k : Nat) (f : Ctx → Ctx) : (s.modCtx k f).reclaim = s.reclaim := rfl
@[simp] theorem modCtx_unitSeq (s : State) (k : Nat) (f : Ctx → Ctx) : (s.modCtx k f).unitSeq = s.unitSeq := rfl
@[simp] theorem modCtx_core (s : State) (k : Nat) (f : Ctx → Ctx) (j : Nat) : (s.modCtx k f).core j = s.core j := rfl
@[simp] theorem modCtx_cluster (s : State) (k : Nat) (f : Ctx → Ctx) (j : Nat) : (s.modCtx k f).cluster j = s.cluster j := rfl
@[simp] theorem modCtx_die (s : State) (k : Nat) (f : Ctx → Ctx) (j : Nat) : (s.modCtx k f).die j = s.die j := rfl
@[simp] theorem modCtx_byte (s : State) (k : Nat) (f : Ctx → Ctx) (a : Nat) : (s.modCtx k f).byte a = s.byte a := rfl

/-! ### modMe -/

@[simp] theorem modMe_cycle (s : State) (f : Ctx → Ctx) : (s.modMe f).cycle = s.cycle := rfl
@[simp] theorem modMe_draws (s : State) (f : Ctx → Ctx) : (s.modMe f).draws = s.draws := rfl
@[simp] theorem modMe_nextId (s : State) (f : Ctx → Ctx) : (s.modMe f).nextId = s.nextId := rfl
@[simp] theorem modMe_cur (s : State) (f : Ctx → Ctx) : (s.modMe f).cur = s.cur := rfl
@[simp] theorem modMe_cores (s : State) (f : Ctx → Ctx) : (s.modMe f).cores = s.cores := rfl
@[simp] theorem modMe_clusters (s : State) (f : Ctx → Ctx) : (s.modMe f).clusters = s.clusters := rfl
@[simp] theorem modMe_dies (s : State) (f : Ctx → Ctx) : (s.modMe f).dies = s.dies := rfl
@[simp] theorem modMe_mem (s : State) (f : Ctx → Ctx) : (s.modMe f).mem = s.mem := rfl
@[simp] theorem modMe_bad (s : State) (f : Ctx → Ctx) : (s.modMe f).bad = s.bad := rfl
@[simp] theorem modMe_units (s : State) (f : Ctx → Ctx) : (s.modMe f).units = s.units := rfl
@[simp] theorem modMe_net (s : State) (f : Ctx → Ctx) : (s.modMe f).net = s.net := rfl
@[simp] theorem modMe_marks (s : State) (f : Ctx → Ctx) : (s.modMe f).marks = s.marks := rfl
@[simp] theorem modMe_waiters (s : State) (f : Ctx → Ctx) : (s.modMe f).waiters = s.waiters := rfl
@[simp] theorem modMe_timers (s : State) (f : Ctx → Ctx) : (s.modMe f).timers = s.timers := rfl
@[simp] theorem modMe_due (s : State) (f : Ctx → Ctx) : (s.modMe f).due = s.due := rfl
@[simp] theorem modMe_pending (s : State) (f : Ctx → Ctx) : (s.modMe f).pending = s.pending := rfl
@[simp] theorem modMe_inputs (s : State) (f : Ctx → Ctx) : (s.modMe f).inputs = s.inputs := rfl
@[simp] theorem modMe_images (s : State) (f : Ctx → Ctx) : (s.modMe f).images = s.images := rfl
@[simp] theorem modMe_todo (s : State) (f : Ctx → Ctx) : (s.modMe f).todo = s.todo := rfl
@[simp] theorem modMe_groups (s : State) (f : Ctx → Ctx) : (s.modMe f).groups = s.groups := rfl
@[simp] theorem modMe_streams (s : State) (f : Ctx → Ctx) : (s.modMe f).streams = s.streams := rfl
@[simp] theorem modMe_hostOut (s : State) (f : Ctx → Ctx) : (s.modMe f).hostOut = s.hostOut := rfl
@[simp] theorem modMe_sideband (s : State) (f : Ctx → Ctx) : (s.modMe f).sideband = s.sideband := rfl
@[simp] theorem modMe_portOut (s : State) (f : Ctx → Ctx) : (s.modMe f).portOut = s.portOut := rfl
@[simp] theorem modMe_portIn (s : State) (f : Ctx → Ctx) : (s.modMe f).portIn = s.portIn := rfl
@[simp] theorem modMe_chip (s : State) (f : Ctx → Ctx) : (s.modMe f).chip = s.chip := rfl
@[simp] theorem modMe_reclaim (s : State) (f : Ctx → Ctx) : (s.modMe f).reclaim = s.reclaim := rfl
@[simp] theorem modMe_unitSeq (s : State) (f : Ctx → Ctx) : (s.modMe f).unitSeq = s.unitSeq := rfl
@[simp] theorem modMe_core (s : State) (f : Ctx → Ctx) (j : Nat) : (s.modMe f).core j = s.core j := rfl
@[simp] theorem modMe_cluster (s : State) (f : Ctx → Ctx) (j : Nat) : (s.modMe f).cluster j = s.cluster j := rfl
@[simp] theorem modMe_die (s : State) (f : Ctx → Ctx) (j : Nat) : (s.modMe f).die j = s.die j := rfl
@[simp] theorem modMe_byte (s : State) (f : Ctx → Ctx) (a : Nat) : (s.modMe f).byte a = s.byte a := rfl

/-! ### setCore -/

@[simp] theorem setCore_cycle (s : State) (k : Nat) (c : Core) : (s.setCore k c).cycle = s.cycle := rfl
@[simp] theorem setCore_draws (s : State) (k : Nat) (c : Core) : (s.setCore k c).draws = s.draws := rfl
@[simp] theorem setCore_nextId (s : State) (k : Nat) (c : Core) : (s.setCore k c).nextId = s.nextId := rfl
@[simp] theorem setCore_cur (s : State) (k : Nat) (c : Core) : (s.setCore k c).cur = s.cur := rfl
@[simp] theorem setCore_ctxs (s : State) (k : Nat) (c : Core) : (s.setCore k c).ctxs = s.ctxs := rfl
@[simp] theorem setCore_clusters (s : State) (k : Nat) (c : Core) : (s.setCore k c).clusters = s.clusters := rfl
@[simp] theorem setCore_dies (s : State) (k : Nat) (c : Core) : (s.setCore k c).dies = s.dies := rfl
@[simp] theorem setCore_mem (s : State) (k : Nat) (c : Core) : (s.setCore k c).mem = s.mem := rfl
@[simp] theorem setCore_bad (s : State) (k : Nat) (c : Core) : (s.setCore k c).bad = s.bad := rfl
@[simp] theorem setCore_units (s : State) (k : Nat) (c : Core) : (s.setCore k c).units = s.units := rfl
@[simp] theorem setCore_net (s : State) (k : Nat) (c : Core) : (s.setCore k c).net = s.net := rfl
@[simp] theorem setCore_marks (s : State) (k : Nat) (c : Core) : (s.setCore k c).marks = s.marks := rfl
@[simp] theorem setCore_waiters (s : State) (k : Nat) (c : Core) : (s.setCore k c).waiters = s.waiters := rfl
@[simp] theorem setCore_timers (s : State) (k : Nat) (c : Core) : (s.setCore k c).timers = s.timers := rfl
@[simp] theorem setCore_due (s : State) (k : Nat) (c : Core) : (s.setCore k c).due = s.due := rfl
@[simp] theorem setCore_pending (s : State) (k : Nat) (c : Core) : (s.setCore k c).pending = s.pending := rfl
@[simp] theorem setCore_inputs (s : State) (k : Nat) (c : Core) : (s.setCore k c).inputs = s.inputs := rfl
@[simp] theorem setCore_images (s : State) (k : Nat) (c : Core) : (s.setCore k c).images = s.images := rfl
@[simp] theorem setCore_todo (s : State) (k : Nat) (c : Core) : (s.setCore k c).todo = s.todo := rfl
@[simp] theorem setCore_groups (s : State) (k : Nat) (c : Core) : (s.setCore k c).groups = s.groups := rfl
@[simp] theorem setCore_streams (s : State) (k : Nat) (c : Core) : (s.setCore k c).streams = s.streams := rfl
@[simp] theorem setCore_hostOut (s : State) (k : Nat) (c : Core) : (s.setCore k c).hostOut = s.hostOut := rfl
@[simp] theorem setCore_sideband (s : State) (k : Nat) (c : Core) : (s.setCore k c).sideband = s.sideband := rfl
@[simp] theorem setCore_portOut (s : State) (k : Nat) (c : Core) : (s.setCore k c).portOut = s.portOut := rfl
@[simp] theorem setCore_portIn (s : State) (k : Nat) (c : Core) : (s.setCore k c).portIn = s.portIn := rfl
@[simp] theorem setCore_chip (s : State) (k : Nat) (c : Core) : (s.setCore k c).chip = s.chip := rfl
@[simp] theorem setCore_reclaim (s : State) (k : Nat) (c : Core) : (s.setCore k c).reclaim = s.reclaim := rfl
@[simp] theorem setCore_unitSeq (s : State) (k : Nat) (c : Core) : (s.setCore k c).unitSeq = s.unitSeq := rfl
@[simp] theorem setCore_ctx (s : State) (k : Nat) (c : Core) (j : Nat) : (s.setCore k c).ctx j = s.ctx j := rfl
@[simp] theorem setCore_cluster (s : State) (k : Nat) (c : Core) (j : Nat) : (s.setCore k c).cluster j = s.cluster j := rfl
@[simp] theorem setCore_die (s : State) (k : Nat) (c : Core) (j : Nat) : (s.setCore k c).die j = s.die j := rfl
@[simp] theorem setCore_me (s : State) (k : Nat) (c : Core) : (s.setCore k c).me = s.me := rfl
@[simp] theorem setCore_byte (s : State) (k : Nat) (c : Core) (a : Nat) : (s.setCore k c).byte a = s.byte a := rfl

/-! ### modCore -/

@[simp] theorem modCore_cycle (s : State) (k : Nat) (f : Core → Core) : (s.modCore k f).cycle = s.cycle := rfl
@[simp] theorem modCore_draws (s : State) (k : Nat) (f : Core → Core) : (s.modCore k f).draws = s.draws := rfl
@[simp] theorem modCore_nextId (s : State) (k : Nat) (f : Core → Core) : (s.modCore k f).nextId = s.nextId := rfl
@[simp] theorem modCore_cur (s : State) (k : Nat) (f : Core → Core) : (s.modCore k f).cur = s.cur := rfl
@[simp] theorem modCore_ctxs (s : State) (k : Nat) (f : Core → Core) : (s.modCore k f).ctxs = s.ctxs := rfl
@[simp] theorem modCore_clusters (s : State) (k : Nat) (f : Core → Core) : (s.modCore k f).clusters = s.clusters := rfl
@[simp] theorem modCore_dies (s : State) (k : Nat) (f : Core → Core) : (s.modCore k f).dies = s.dies := rfl
@[simp] theorem modCore_mem (s : State) (k : Nat) (f : Core → Core) : (s.modCore k f).mem = s.mem := rfl
@[simp] theorem modCore_bad (s : State) (k : Nat) (f : Core → Core) : (s.modCore k f).bad = s.bad := rfl
@[simp] theorem modCore_units (s : State) (k : Nat) (f : Core → Core) : (s.modCore k f).units = s.units := rfl
@[simp] theorem modCore_net (s : State) (k : Nat) (f : Core → Core) : (s.modCore k f).net = s.net := rfl
@[simp] theorem modCore_marks (s : State) (k : Nat) (f : Core → Core) : (s.modCore k f).marks = s.marks := rfl
@[simp] theorem modCore_waiters (s : State) (k : Nat) (f : Core → Core) : (s.modCore k f).waiters = s.waiters := rfl
@[simp] theorem modCore_timers (s : State) (k : Nat) (f : Core → Core) : (s.modCore k f).timers = s.timers := rfl
@[simp] theorem modCore_due (s : State) (k : Nat) (f : Core → Core) : (s.modCore k f).due = s.due := rfl
@[simp] theorem modCore_pending (s : State) (k : Nat) (f : Core → Core) : (s.modCore k f).pending = s.pending := rfl
@[simp] theorem modCore_inputs (s : State) (k : Nat) (f : Core → Core) : (s.modCore k f).inputs = s.inputs := rfl
@[simp] theorem modCore_images (s : State) (k : Nat) (f : Core → Core) : (s.modCore k f).images = s.images := rfl
@[simp] theorem modCore_todo (s : State) (k : Nat) (f : Core → Core) : (s.modCore k f).todo = s.todo := rfl
@[simp] theorem modCore_groups (s : State) (k : Nat) (f : Core → Core) : (s.modCore k f).groups = s.groups := rfl
@[simp] theorem modCore_streams (s : State) (k : Nat) (f : Core → Core) : (s.modCore k f).streams = s.streams := rfl
@[simp] theorem modCore_hostOut (s : State) (k : Nat) (f : Core → Core) : (s.modCore k f).hostOut = s.hostOut := rfl
@[simp] theorem modCore_sideband (s : State) (k : Nat) (f : Core → Core) : (s.modCore k f).sideband = s.sideband := rfl
@[simp] theorem modCore_portOut (s : State) (k : Nat) (f : Core → Core) : (s.modCore k f).portOut = s.portOut := rfl
@[simp] theorem modCore_portIn (s : State) (k : Nat) (f : Core → Core) : (s.modCore k f).portIn = s.portIn := rfl
@[simp] theorem modCore_chip (s : State) (k : Nat) (f : Core → Core) : (s.modCore k f).chip = s.chip := rfl
@[simp] theorem modCore_reclaim (s : State) (k : Nat) (f : Core → Core) : (s.modCore k f).reclaim = s.reclaim := rfl
@[simp] theorem modCore_unitSeq (s : State) (k : Nat) (f : Core → Core) : (s.modCore k f).unitSeq = s.unitSeq := rfl
@[simp] theorem modCore_ctx (s : State) (k : Nat) (f : Core → Core) (j : Nat) : (s.modCore k f).ctx j = s.ctx j := rfl
@[simp] theorem modCore_cluster (s : State) (k : Nat) (f : Core → Core) (j : Nat) : (s.modCore k f).cluster j = s.cluster j := rfl
@[simp] theorem modCore_die (s : State) (k : Nat) (f : Core → Core) (j : Nat) : (s.modCore k f).die j = s.die j := rfl
@[simp] theorem modCore_me (s : State) (k : Nat) (f : Core → Core) : (s.modCore k f).me = s.me := rfl
@[simp] theorem modCore_byte (s : State) (k : Nat) (f : Core → Core) (a : Nat) : (s.modCore k f).byte a = s.byte a := rfl

/-! ### setCluster -/

@[simp] theorem setCluster_cycle (s : State) (k : Nat) (c : Cluster) : (s.setCluster k c).cycle = s.cycle := rfl
@[simp] theorem setCluster_draws (s : State) (k : Nat) (c : Cluster) : (s.setCluster k c).draws = s.draws := rfl
@[simp] theorem setCluster_nextId (s : State) (k : Nat) (c : Cluster) : (s.setCluster k c).nextId = s.nextId := rfl
@[simp] theorem setCluster_cur (s : State) (k : Nat) (c : Cluster) : (s.setCluster k c).cur = s.cur := rfl
@[simp] theorem setCluster_ctxs (s : State) (k : Nat) (c : Cluster) : (s.setCluster k c).ctxs = s.ctxs := rfl
@[simp] theorem setCluster_cores (s : State) (k : Nat) (c : Cluster) : (s.setCluster k c).cores = s.cores := rfl
@[simp] theorem setCluster_dies (s : State) (k : Nat) (c : Cluster) : (s.setCluster k c).dies = s.dies := rfl
@[simp] theorem setCluster_mem (s : State) (k : Nat) (c : Cluster) : (s.setCluster k c).mem = s.mem := rfl
@[simp] theorem setCluster_bad (s : State) (k : Nat) (c : Cluster) : (s.setCluster k c).bad = s.bad := rfl
@[simp] theorem setCluster_units (s : State) (k : Nat) (c : Cluster) : (s.setCluster k c).units = s.units := rfl
@[simp] theorem setCluster_net (s : State) (k : Nat) (c : Cluster) : (s.setCluster k c).net = s.net := rfl
@[simp] theorem setCluster_marks (s : State) (k : Nat) (c : Cluster) : (s.setCluster k c).marks = s.marks := rfl
@[simp] theorem setCluster_waiters (s : State) (k : Nat) (c : Cluster) : (s.setCluster k c).waiters = s.waiters := rfl
@[simp] theorem setCluster_timers (s : State) (k : Nat) (c : Cluster) : (s.setCluster k c).timers = s.timers := rfl
@[simp] theorem setCluster_due (s : State) (k : Nat) (c : Cluster) : (s.setCluster k c).due = s.due := rfl
@[simp] theorem setCluster_pending (s : State) (k : Nat) (c : Cluster) : (s.setCluster k c).pending = s.pending := rfl
@[simp] theorem setCluster_inputs (s : State) (k : Nat) (c : Cluster) : (s.setCluster k c).inputs = s.inputs := rfl
@[simp] theorem setCluster_images (s : State) (k : Nat) (c : Cluster) : (s.setCluster k c).images = s.images := rfl
@[simp] theorem setCluster_todo (s : State) (k : Nat) (c : Cluster) : (s.setCluster k c).todo = s.todo := rfl
@[simp] theorem setCluster_groups (s : State) (k : Nat) (c : Cluster) : (s.setCluster k c).groups = s.groups := rfl
@[simp] theorem setCluster_streams (s : State) (k : Nat) (c : Cluster) : (s.setCluster k c).streams = s.streams := rfl
@[simp] theorem setCluster_hostOut (s : State) (k : Nat) (c : Cluster) : (s.setCluster k c).hostOut = s.hostOut := rfl
@[simp] theorem setCluster_sideband (s : State) (k : Nat) (c : Cluster) : (s.setCluster k c).sideband = s.sideband := rfl
@[simp] theorem setCluster_portOut (s : State) (k : Nat) (c : Cluster) : (s.setCluster k c).portOut = s.portOut := rfl
@[simp] theorem setCluster_portIn (s : State) (k : Nat) (c : Cluster) : (s.setCluster k c).portIn = s.portIn := rfl
@[simp] theorem setCluster_chip (s : State) (k : Nat) (c : Cluster) : (s.setCluster k c).chip = s.chip := rfl
@[simp] theorem setCluster_reclaim (s : State) (k : Nat) (c : Cluster) : (s.setCluster k c).reclaim = s.reclaim := rfl
@[simp] theorem setCluster_unitSeq (s : State) (k : Nat) (c : Cluster) : (s.setCluster k c).unitSeq = s.unitSeq := rfl
@[simp] theorem setCluster_ctx (s : State) (k : Nat) (c : Cluster) (j : Nat) : (s.setCluster k c).ctx j = s.ctx j := rfl
@[simp] theorem setCluster_core (s : State) (k : Nat) (c : Cluster) (j : Nat) : (s.setCluster k c).core j = s.core j := rfl
@[simp] theorem setCluster_die (s : State) (k : Nat) (c : Cluster) (j : Nat) : (s.setCluster k c).die j = s.die j := rfl
@[simp] theorem setCluster_me (s : State) (k : Nat) (c : Cluster) : (s.setCluster k c).me = s.me := rfl
@[simp] theorem setCluster_byte (s : State) (k : Nat) (c : Cluster) (a : Nat) : (s.setCluster k c).byte a = s.byte a := rfl

/-! ### modCluster -/

@[simp] theorem modCluster_cycle (s : State) (k : Nat) (f : Cluster → Cluster) : (s.modCluster k f).cycle = s.cycle := rfl
@[simp] theorem modCluster_draws (s : State) (k : Nat) (f : Cluster → Cluster) : (s.modCluster k f).draws = s.draws := rfl
@[simp] theorem modCluster_nextId (s : State) (k : Nat) (f : Cluster → Cluster) : (s.modCluster k f).nextId = s.nextId := rfl
@[simp] theorem modCluster_cur (s : State) (k : Nat) (f : Cluster → Cluster) : (s.modCluster k f).cur = s.cur := rfl
@[simp] theorem modCluster_ctxs (s : State) (k : Nat) (f : Cluster → Cluster) : (s.modCluster k f).ctxs = s.ctxs := rfl
@[simp] theorem modCluster_cores (s : State) (k : Nat) (f : Cluster → Cluster) : (s.modCluster k f).cores = s.cores := rfl
@[simp] theorem modCluster_dies (s : State) (k : Nat) (f : Cluster → Cluster) : (s.modCluster k f).dies = s.dies := rfl
@[simp] theorem modCluster_mem (s : State) (k : Nat) (f : Cluster → Cluster) : (s.modCluster k f).mem = s.mem := rfl
@[simp] theorem modCluster_bad (s : State) (k : Nat) (f : Cluster → Cluster) : (s.modCluster k f).bad = s.bad := rfl
@[simp] theorem modCluster_units (s : State) (k : Nat) (f : Cluster → Cluster) : (s.modCluster k f).units = s.units := rfl
@[simp] theorem modCluster_net (s : State) (k : Nat) (f : Cluster → Cluster) : (s.modCluster k f).net = s.net := rfl
@[simp] theorem modCluster_marks (s : State) (k : Nat) (f : Cluster → Cluster) : (s.modCluster k f).marks = s.marks := rfl
@[simp] theorem modCluster_waiters (s : State) (k : Nat) (f : Cluster → Cluster) : (s.modCluster k f).waiters = s.waiters := rfl
@[simp] theorem modCluster_timers (s : State) (k : Nat) (f : Cluster → Cluster) : (s.modCluster k f).timers = s.timers := rfl
@[simp] theorem modCluster_due (s : State) (k : Nat) (f : Cluster → Cluster) : (s.modCluster k f).due = s.due := rfl
@[simp] theorem modCluster_pending (s : State) (k : Nat) (f : Cluster → Cluster) : (s.modCluster k f).pending = s.pending := rfl
@[simp] theorem modCluster_inputs (s : State) (k : Nat) (f : Cluster → Cluster) : (s.modCluster k f).inputs = s.inputs := rfl
@[simp] theorem modCluster_images (s : State) (k : Nat) (f : Cluster → Cluster) : (s.modCluster k f).images = s.images := rfl
@[simp] theorem modCluster_todo (s : State) (k : Nat) (f : Cluster → Cluster) : (s.modCluster k f).todo = s.todo := rfl
@[simp] theorem modCluster_groups (s : State) (k : Nat) (f : Cluster → Cluster) : (s.modCluster k f).groups = s.groups := rfl
@[simp] theorem modCluster_streams (s : State) (k : Nat) (f : Cluster → Cluster) : (s.modCluster k f).streams = s.streams := rfl
@[simp] theorem modCluster_hostOut (s : State) (k : Nat) (f : Cluster → Cluster) : (s.modCluster k f).hostOut = s.hostOut := rfl
@[simp] theorem modCluster_sideband (s : State) (k : Nat) (f : Cluster → Cluster) : (s.modCluster k f).sideband = s.sideband := rfl
@[simp] theorem modCluster_portOut (s : State) (k : Nat) (f : Cluster → Cluster) : (s.modCluster k f).portOut = s.portOut := rfl
@[simp] theorem modCluster_portIn (s : State) (k : Nat) (f : Cluster → Cluster) : (s.modCluster k f).portIn = s.portIn := rfl
@[simp] theorem modCluster_chip (s : State) (k : Nat) (f : Cluster → Cluster) : (s.modCluster k f).chip = s.chip := rfl
@[simp] theorem modCluster_reclaim (s : State) (k : Nat) (f : Cluster → Cluster) : (s.modCluster k f).reclaim = s.reclaim := rfl
@[simp] theorem modCluster_unitSeq (s : State) (k : Nat) (f : Cluster → Cluster) : (s.modCluster k f).unitSeq = s.unitSeq := rfl
@[simp] theorem modCluster_ctx (s : State) (k : Nat) (f : Cluster → Cluster) (j : Nat) : (s.modCluster k f).ctx j = s.ctx j := rfl
@[simp] theorem modCluster_core (s : State) (k : Nat) (f : Cluster → Cluster) (j : Nat) : (s.modCluster k f).core j = s.core j := rfl
@[simp] theorem modCluster_die (s : State) (k : Nat) (f : Cluster → Cluster) (j : Nat) : (s.modCluster k f).die j = s.die j := rfl
@[simp] theorem modCluster_me (s : State) (k : Nat) (f : Cluster → Cluster) : (s.modCluster k f).me = s.me := rfl
@[simp] theorem modCluster_byte (s : State) (k : Nat) (f : Cluster → Cluster) (a : Nat) : (s.modCluster k f).byte a = s.byte a := rfl

/-! ### setDie -/

@[simp] theorem setDie_cycle (s : State) (k : Nat) (d : Die) : (s.setDie k d).cycle = s.cycle := rfl
@[simp] theorem setDie_draws (s : State) (k : Nat) (d : Die) : (s.setDie k d).draws = s.draws := rfl
@[simp] theorem setDie_nextId (s : State) (k : Nat) (d : Die) : (s.setDie k d).nextId = s.nextId := rfl
@[simp] theorem setDie_cur (s : State) (k : Nat) (d : Die) : (s.setDie k d).cur = s.cur := rfl
@[simp] theorem setDie_ctxs (s : State) (k : Nat) (d : Die) : (s.setDie k d).ctxs = s.ctxs := rfl
@[simp] theorem setDie_cores (s : State) (k : Nat) (d : Die) : (s.setDie k d).cores = s.cores := rfl
@[simp] theorem setDie_clusters (s : State) (k : Nat) (d : Die) : (s.setDie k d).clusters = s.clusters := rfl
@[simp] theorem setDie_mem (s : State) (k : Nat) (d : Die) : (s.setDie k d).mem = s.mem := rfl
@[simp] theorem setDie_bad (s : State) (k : Nat) (d : Die) : (s.setDie k d).bad = s.bad := rfl
@[simp] theorem setDie_units (s : State) (k : Nat) (d : Die) : (s.setDie k d).units = s.units := rfl
@[simp] theorem setDie_net (s : State) (k : Nat) (d : Die) : (s.setDie k d).net = s.net := rfl
@[simp] theorem setDie_marks (s : State) (k : Nat) (d : Die) : (s.setDie k d).marks = s.marks := rfl
@[simp] theorem setDie_waiters (s : State) (k : Nat) (d : Die) : (s.setDie k d).waiters = s.waiters := rfl
@[simp] theorem setDie_timers (s : State) (k : Nat) (d : Die) : (s.setDie k d).timers = s.timers := rfl
@[simp] theorem setDie_due (s : State) (k : Nat) (d : Die) : (s.setDie k d).due = s.due := rfl
@[simp] theorem setDie_pending (s : State) (k : Nat) (d : Die) : (s.setDie k d).pending = s.pending := rfl
@[simp] theorem setDie_inputs (s : State) (k : Nat) (d : Die) : (s.setDie k d).inputs = s.inputs := rfl
@[simp] theorem setDie_images (s : State) (k : Nat) (d : Die) : (s.setDie k d).images = s.images := rfl
@[simp] theorem setDie_todo (s : State) (k : Nat) (d : Die) : (s.setDie k d).todo = s.todo := rfl
@[simp] theorem setDie_groups (s : State) (k : Nat) (d : Die) : (s.setDie k d).groups = s.groups := rfl
@[simp] theorem setDie_streams (s : State) (k : Nat) (d : Die) : (s.setDie k d).streams = s.streams := rfl
@[simp] theorem setDie_hostOut (s : State) (k : Nat) (d : Die) : (s.setDie k d).hostOut = s.hostOut := rfl
@[simp] theorem setDie_sideband (s : State) (k : Nat) (d : Die) : (s.setDie k d).sideband = s.sideband := rfl
@[simp] theorem setDie_portOut (s : State) (k : Nat) (d : Die) : (s.setDie k d).portOut = s.portOut := rfl
@[simp] theorem setDie_portIn (s : State) (k : Nat) (d : Die) : (s.setDie k d).portIn = s.portIn := rfl
@[simp] theorem setDie_chip (s : State) (k : Nat) (d : Die) : (s.setDie k d).chip = s.chip := rfl
@[simp] theorem setDie_reclaim (s : State) (k : Nat) (d : Die) : (s.setDie k d).reclaim = s.reclaim := rfl
@[simp] theorem setDie_unitSeq (s : State) (k : Nat) (d : Die) : (s.setDie k d).unitSeq = s.unitSeq := rfl
@[simp] theorem setDie_ctx (s : State) (k : Nat) (d : Die) (j : Nat) : (s.setDie k d).ctx j = s.ctx j := rfl
@[simp] theorem setDie_core (s : State) (k : Nat) (d : Die) (j : Nat) : (s.setDie k d).core j = s.core j := rfl
@[simp] theorem setDie_cluster (s : State) (k : Nat) (d : Die) (j : Nat) : (s.setDie k d).cluster j = s.cluster j := rfl
@[simp] theorem setDie_me (s : State) (k : Nat) (d : Die) : (s.setDie k d).me = s.me := rfl
@[simp] theorem setDie_byte (s : State) (k : Nat) (d : Die) (a : Nat) : (s.setDie k d).byte a = s.byte a := rfl

/-! ### modDie -/

@[simp] theorem modDie_cycle (s : State) (k : Nat) (f : Die → Die) : (s.modDie k f).cycle = s.cycle := rfl
@[simp] theorem modDie_draws (s : State) (k : Nat) (f : Die → Die) : (s.modDie k f).draws = s.draws := rfl
@[simp] theorem modDie_nextId (s : State) (k : Nat) (f : Die → Die) : (s.modDie k f).nextId = s.nextId := rfl
@[simp] theorem modDie_cur (s : State) (k : Nat) (f : Die → Die) : (s.modDie k f).cur = s.cur := rfl
@[simp] theorem modDie_ctxs (s : State) (k : Nat) (f : Die → Die) : (s.modDie k f).ctxs = s.ctxs := rfl
@[simp] theorem modDie_cores (s : State) (k : Nat) (f : Die → Die) : (s.modDie k f).cores = s.cores := rfl
@[simp] theorem modDie_clusters (s : State) (k : Nat) (f : Die → Die) : (s.modDie k f).clusters = s.clusters := rfl
@[simp] theorem modDie_mem (s : State) (k : Nat) (f : Die → Die) : (s.modDie k f).mem = s.mem := rfl
@[simp] theorem modDie_bad (s : State) (k : Nat) (f : Die → Die) : (s.modDie k f).bad = s.bad := rfl
@[simp] theorem modDie_units (s : State) (k : Nat) (f : Die → Die) : (s.modDie k f).units = s.units := rfl
@[simp] theorem modDie_net (s : State) (k : Nat) (f : Die → Die) : (s.modDie k f).net = s.net := rfl
@[simp] theorem modDie_marks (s : State) (k : Nat) (f : Die → Die) : (s.modDie k f).marks = s.marks := rfl
@[simp] theorem modDie_waiters (s : State) (k : Nat) (f : Die → Die) : (s.modDie k f).waiters = s.waiters := rfl
@[simp] theorem modDie_timers (s : State) (k : Nat) (f : Die → Die) : (s.modDie k f).timers = s.timers := rfl
@[simp] theorem modDie_due (s : State) (k : Nat) (f : Die → Die) : (s.modDie k f).due = s.due := rfl
@[simp] theorem modDie_pending (s : State) (k : Nat) (f : Die → Die) : (s.modDie k f).pending = s.pending := rfl
@[simp] theorem modDie_inputs (s : State) (k : Nat) (f : Die → Die) : (s.modDie k f).inputs = s.inputs := rfl
@[simp] theorem modDie_images (s : State) (k : Nat) (f : Die → Die) : (s.modDie k f).images = s.images := rfl
@[simp] theorem modDie_todo (s : State) (k : Nat) (f : Die → Die) : (s.modDie k f).todo = s.todo := rfl
@[simp] theorem modDie_groups (s : State) (k : Nat) (f : Die → Die) : (s.modDie k f).groups = s.groups := rfl
@[simp] theorem modDie_streams (s : State) (k : Nat) (f : Die → Die) : (s.modDie k f).streams = s.streams := rfl
@[simp] theorem modDie_hostOut (s : State) (k : Nat) (f : Die → Die) : (s.modDie k f).hostOut = s.hostOut := rfl
@[simp] theorem modDie_sideband (s : State) (k : Nat) (f : Die → Die) : (s.modDie k f).sideband = s.sideband := rfl
@[simp] theorem modDie_portOut (s : State) (k : Nat) (f : Die → Die) : (s.modDie k f).portOut = s.portOut := rfl
@[simp] theorem modDie_portIn (s : State) (k : Nat) (f : Die → Die) : (s.modDie k f).portIn = s.portIn := rfl
@[simp] theorem modDie_chip (s : State) (k : Nat) (f : Die → Die) : (s.modDie k f).chip = s.chip := rfl
@[simp] theorem modDie_reclaim (s : State) (k : Nat) (f : Die → Die) : (s.modDie k f).reclaim = s.reclaim := rfl
@[simp] theorem modDie_unitSeq (s : State) (k : Nat) (f : Die → Die) : (s.modDie k f).unitSeq = s.unitSeq := rfl
@[simp] theorem modDie_ctx (s : State) (k : Nat) (f : Die → Die) (j : Nat) : (s.modDie k f).ctx j = s.ctx j := rfl
@[simp] theorem modDie_core (s : State) (k : Nat) (f : Die → Die) (j : Nat) : (s.modDie k f).core j = s.core j := rfl
@[simp] theorem modDie_cluster (s : State) (k : Nat) (f : Die → Die) (j : Nat) : (s.modDie k f).cluster j = s.cluster j := rfl
@[simp] theorem modDie_me (s : State) (k : Nat) (f : Die → Die) : (s.modDie k f).me = s.me := rfl
@[simp] theorem modDie_byte (s : State) (k : Nat) (f : Die → Die) (a : Nat) : (s.modDie k f).byte a = s.byte a := rfl

/-! ### writeBytes -/

@[simp] theorem writeBytes_cycle (s : State) (a : Nat) (bs : List Byte) : (s.writeBytes a bs).cycle = s.cycle := rfl
@[simp] theorem writeBytes_draws (s : State) (a : Nat) (bs : List Byte) : (s.writeBytes a bs).draws = s.draws := rfl
@[simp] theorem writeBytes_nextId (s : State) (a : Nat) (bs : List Byte) : (s.writeBytes a bs).nextId = s.nextId := rfl
@[simp] theorem writeBytes_cur (s : State) (a : Nat) (bs : List Byte) : (s.writeBytes a bs).cur = s.cur := rfl
@[simp] theorem writeBytes_ctxs (s : State) (a : Nat) (bs : List Byte) : (s.writeBytes a bs).ctxs = s.ctxs := rfl
@[simp] theorem writeBytes_cores (s : State) (a : Nat) (bs : List Byte) : (s.writeBytes a bs).cores = s.cores := rfl
@[simp] theorem writeBytes_clusters (s : State) (a : Nat) (bs : List Byte) : (s.writeBytes a bs).clusters = s.clusters := rfl
@[simp] theorem writeBytes_dies (s : State) (a : Nat) (bs : List Byte) : (s.writeBytes a bs).dies = s.dies := rfl
@[simp] theorem writeBytes_bad (s : State) (a : Nat) (bs : List Byte) : (s.writeBytes a bs).bad = s.bad := rfl
@[simp] theorem writeBytes_units (s : State) (a : Nat) (bs : List Byte) : (s.writeBytes a bs).units = s.units := rfl
@[simp] theorem writeBytes_net (s : State) (a : Nat) (bs : List Byte) : (s.writeBytes a bs).net = s.net := rfl
@[simp] theorem writeBytes_marks (s : State) (a : Nat) (bs : List Byte) : (s.writeBytes a bs).marks = s.marks := rfl
@[simp] theorem writeBytes_waiters (s : State) (a : Nat) (bs : List Byte) : (s.writeBytes a bs).waiters = s.waiters := rfl
@[simp] theorem writeBytes_timers (s : State) (a : Nat) (bs : List Byte) : (s.writeBytes a bs).timers = s.timers := rfl
@[simp] theorem writeBytes_due (s : State) (a : Nat) (bs : List Byte) : (s.writeBytes a bs).due = s.due := rfl
@[simp] theorem writeBytes_pending (s : State) (a : Nat) (bs : List Byte) : (s.writeBytes a bs).pending = s.pending := rfl
@[simp] theorem writeBytes_inputs (s : State) (a : Nat) (bs : List Byte) : (s.writeBytes a bs).inputs = s.inputs := rfl
@[simp] theorem writeBytes_images (s : State) (a : Nat) (bs : List Byte) : (s.writeBytes a bs).images = s.images := rfl
@[simp] theorem writeBytes_todo (s : State) (a : Nat) (bs : List Byte) : (s.writeBytes a bs).todo = s.todo := rfl
@[simp] theorem writeBytes_groups (s : State) (a : Nat) (bs : List Byte) : (s.writeBytes a bs).groups = s.groups := rfl
@[simp] theorem writeBytes_streams (s : State) (a : Nat) (bs : List Byte) : (s.writeBytes a bs).streams = s.streams := rfl
@[simp] theorem writeBytes_hostOut (s : State) (a : Nat) (bs : List Byte) : (s.writeBytes a bs).hostOut = s.hostOut := rfl
@[simp] theorem writeBytes_sideband (s : State) (a : Nat) (bs : List Byte) : (s.writeBytes a bs).sideband = s.sideband := rfl
@[simp] theorem writeBytes_portOut (s : State) (a : Nat) (bs : List Byte) : (s.writeBytes a bs).portOut = s.portOut := rfl
@[simp] theorem writeBytes_portIn (s : State) (a : Nat) (bs : List Byte) : (s.writeBytes a bs).portIn = s.portIn := rfl
@[simp] theorem writeBytes_chip (s : State) (a : Nat) (bs : List Byte) : (s.writeBytes a bs).chip = s.chip := rfl
@[simp] theorem writeBytes_reclaim (s : State) (a : Nat) (bs : List Byte) : (s.writeBytes a bs).reclaim = s.reclaim := rfl
@[simp] theorem writeBytes_unitSeq (s : State) (a : Nat) (bs : List Byte) : (s.writeBytes a bs).unitSeq = s.unitSeq := rfl
@[simp] theorem writeBytes_ctx (s : State) (a : Nat) (bs : List Byte) (j : Nat) : (s.writeBytes a bs).ctx j = s.ctx j := rfl
@[simp] theorem writeBytes_core (s : State) (a : Nat) (bs : List Byte) (j : Nat) : (s.writeBytes a bs).core j = s.core j := rfl
@[simp] theorem writeBytes_cluster (s : State) (a : Nat) (bs : List Byte) (j : Nat) : (s.writeBytes a bs).cluster j = s.cluster j := rfl
@[simp] theorem writeBytes_die (s : State) (a : Nat) (bs : List Byte) (j : Nat) : (s.writeBytes a bs).die j = s.die j := rfl
@[simp] theorem writeBytes_me (s : State) (a : Nat) (bs : List Byte) : (s.writeBytes a bs).me = s.me := rfl

/-! ### writeNat -/

@[simp] theorem writeNat_cycle (s : State) (a n v : Nat) : (s.writeNat a n v).cycle = s.cycle := by rw [writeNat, writeBytes_cycle]
@[simp] theorem writeNat_draws (s : State) (a n v : Nat) : (s.writeNat a n v).draws = s.draws := by rw [writeNat, writeBytes_draws]
@[simp] theorem writeNat_nextId (s : State) (a n v : Nat) : (s.writeNat a n v).nextId = s.nextId := by rw [writeNat, writeBytes_nextId]
@[simp] theorem writeNat_cur (s : State) (a n v : Nat) : (s.writeNat a n v).cur = s.cur := by rw [writeNat, writeBytes_cur]
@[simp] theorem writeNat_ctxs (s : State) (a n v : Nat) : (s.writeNat a n v).ctxs = s.ctxs := by rw [writeNat, writeBytes_ctxs]
@[simp] theorem writeNat_cores (s : State) (a n v : Nat) : (s.writeNat a n v).cores = s.cores := by rw [writeNat, writeBytes_cores]
@[simp] theorem writeNat_clusters (s : State) (a n v : Nat) : (s.writeNat a n v).clusters = s.clusters := by rw [writeNat, writeBytes_clusters]
@[simp] theorem writeNat_dies (s : State) (a n v : Nat) : (s.writeNat a n v).dies = s.dies := by rw [writeNat, writeBytes_dies]
@[simp] theorem writeNat_bad (s : State) (a n v : Nat) : (s.writeNat a n v).bad = s.bad := by rw [writeNat, writeBytes_bad]
@[simp] theorem writeNat_units (s : State) (a n v : Nat) : (s.writeNat a n v).units = s.units := by rw [writeNat, writeBytes_units]
@[simp] theorem writeNat_net (s : State) (a n v : Nat) : (s.writeNat a n v).net = s.net := by rw [writeNat, writeBytes_net]
@[simp] theorem writeNat_marks (s : State) (a n v : Nat) : (s.writeNat a n v).marks = s.marks := by rw [writeNat, writeBytes_marks]
@[simp] theorem writeNat_waiters (s : State) (a n v : Nat) : (s.writeNat a n v).waiters = s.waiters := by rw [writeNat, writeBytes_waiters]
@[simp] theorem writeNat_timers (s : State) (a n v : Nat) : (s.writeNat a n v).timers = s.timers := by rw [writeNat, writeBytes_timers]
@[simp] theorem writeNat_due (s : State) (a n v : Nat) : (s.writeNat a n v).due = s.due := by rw [writeNat, writeBytes_due]
@[simp] theorem writeNat_pending (s : State) (a n v : Nat) : (s.writeNat a n v).pending = s.pending := by rw [writeNat, writeBytes_pending]
@[simp] theorem writeNat_inputs (s : State) (a n v : Nat) : (s.writeNat a n v).inputs = s.inputs := by rw [writeNat, writeBytes_inputs]
@[simp] theorem writeNat_images (s : State) (a n v : Nat) : (s.writeNat a n v).images = s.images := by rw [writeNat, writeBytes_images]
@[simp] theorem writeNat_todo (s : State) (a n v : Nat) : (s.writeNat a n v).todo = s.todo := by rw [writeNat, writeBytes_todo]
@[simp] theorem writeNat_groups (s : State) (a n v : Nat) : (s.writeNat a n v).groups = s.groups := by rw [writeNat, writeBytes_groups]
@[simp] theorem writeNat_streams (s : State) (a n v : Nat) : (s.writeNat a n v).streams = s.streams := by rw [writeNat, writeBytes_streams]
@[simp] theorem writeNat_hostOut (s : State) (a n v : Nat) : (s.writeNat a n v).hostOut = s.hostOut := by rw [writeNat, writeBytes_hostOut]
@[simp] theorem writeNat_sideband (s : State) (a n v : Nat) : (s.writeNat a n v).sideband = s.sideband := by rw [writeNat, writeBytes_sideband]
@[simp] theorem writeNat_portOut (s : State) (a n v : Nat) : (s.writeNat a n v).portOut = s.portOut := by rw [writeNat, writeBytes_portOut]
@[simp] theorem writeNat_portIn (s : State) (a n v : Nat) : (s.writeNat a n v).portIn = s.portIn := by rw [writeNat, writeBytes_portIn]
@[simp] theorem writeNat_chip (s : State) (a n v : Nat) : (s.writeNat a n v).chip = s.chip := by rw [writeNat, writeBytes_chip]
@[simp] theorem writeNat_reclaim (s : State) (a n v : Nat) : (s.writeNat a n v).reclaim = s.reclaim := by rw [writeNat, writeBytes_reclaim]
@[simp] theorem writeNat_unitSeq (s : State) (a n v : Nat) : (s.writeNat a n v).unitSeq = s.unitSeq := by rw [writeNat, writeBytes_unitSeq]
@[simp] theorem writeNat_ctx (s : State) (a n v : Nat) (j : Nat) : (s.writeNat a n v).ctx j = s.ctx j := by rw [writeNat, writeBytes_ctx]
@[simp] theorem writeNat_core (s : State) (a n v : Nat) (j : Nat) : (s.writeNat a n v).core j = s.core j := by rw [writeNat, writeBytes_core]
@[simp] theorem writeNat_cluster (s : State) (a n v : Nat) (j : Nat) : (s.writeNat a n v).cluster j = s.cluster j := by rw [writeNat, writeBytes_cluster]
@[simp] theorem writeNat_die (s : State) (a n v : Nat) (j : Nat) : (s.writeNat a n v).die j = s.die j := by rw [writeNat, writeBytes_die]
@[simp] theorem writeNat_me (s : State) (a n v : Nat) : (s.writeNat a n v).me = s.me := by rw [writeNat, writeBytes_me]

/-! ### writeLine -/

@[simp] theorem writeLine_cycle (s : State) (a : Nat) (l : Line) : (s.writeLine a l).cycle = s.cycle := by rw [writeLine, writeBytes_cycle]
@[simp] theorem writeLine_draws (s : State) (a : Nat) (l : Line) : (s.writeLine a l).draws = s.draws := by rw [writeLine, writeBytes_draws]
@[simp] theorem writeLine_nextId (s : State) (a : Nat) (l : Line) : (s.writeLine a l).nextId = s.nextId := by rw [writeLine, writeBytes_nextId]
@[simp] theorem writeLine_cur (s : State) (a : Nat) (l : Line) : (s.writeLine a l).cur = s.cur := by rw [writeLine, writeBytes_cur]
@[simp] theorem writeLine_ctxs (s : State) (a : Nat) (l : Line) : (s.writeLine a l).ctxs = s.ctxs := by rw [writeLine, writeBytes_ctxs]
@[simp] theorem writeLine_cores (s : State) (a : Nat) (l : Line) : (s.writeLine a l).cores = s.cores := by rw [writeLine, writeBytes_cores]
@[simp] theorem writeLine_clusters (s : State) (a : Nat) (l : Line) : (s.writeLine a l).clusters = s.clusters := by rw [writeLine, writeBytes_clusters]
@[simp] theorem writeLine_dies (s : State) (a : Nat) (l : Line) : (s.writeLine a l).dies = s.dies := by rw [writeLine, writeBytes_dies]
@[simp] theorem writeLine_bad (s : State) (a : Nat) (l : Line) : (s.writeLine a l).bad = s.bad := by rw [writeLine, writeBytes_bad]
@[simp] theorem writeLine_units (s : State) (a : Nat) (l : Line) : (s.writeLine a l).units = s.units := by rw [writeLine, writeBytes_units]
@[simp] theorem writeLine_net (s : State) (a : Nat) (l : Line) : (s.writeLine a l).net = s.net := by rw [writeLine, writeBytes_net]
@[simp] theorem writeLine_marks (s : State) (a : Nat) (l : Line) : (s.writeLine a l).marks = s.marks := by rw [writeLine, writeBytes_marks]
@[simp] theorem writeLine_waiters (s : State) (a : Nat) (l : Line) : (s.writeLine a l).waiters = s.waiters := by rw [writeLine, writeBytes_waiters]
@[simp] theorem writeLine_timers (s : State) (a : Nat) (l : Line) : (s.writeLine a l).timers = s.timers := by rw [writeLine, writeBytes_timers]
@[simp] theorem writeLine_due (s : State) (a : Nat) (l : Line) : (s.writeLine a l).due = s.due := by rw [writeLine, writeBytes_due]
@[simp] theorem writeLine_pending (s : State) (a : Nat) (l : Line) : (s.writeLine a l).pending = s.pending := by rw [writeLine, writeBytes_pending]
@[simp] theorem writeLine_inputs (s : State) (a : Nat) (l : Line) : (s.writeLine a l).inputs = s.inputs := by rw [writeLine, writeBytes_inputs]
@[simp] theorem writeLine_images (s : State) (a : Nat) (l : Line) : (s.writeLine a l).images = s.images := by rw [writeLine, writeBytes_images]
@[simp] theorem writeLine_todo (s : State) (a : Nat) (l : Line) : (s.writeLine a l).todo = s.todo := by rw [writeLine, writeBytes_todo]
@[simp] theorem writeLine_groups (s : State) (a : Nat) (l : Line) : (s.writeLine a l).groups = s.groups := by rw [writeLine, writeBytes_groups]
@[simp] theorem writeLine_streams (s : State) (a : Nat) (l : Line) : (s.writeLine a l).streams = s.streams := by rw [writeLine, writeBytes_streams]
@[simp] theorem writeLine_hostOut (s : State) (a : Nat) (l : Line) : (s.writeLine a l).hostOut = s.hostOut := by rw [writeLine, writeBytes_hostOut]
@[simp] theorem writeLine_sideband (s : State) (a : Nat) (l : Line) : (s.writeLine a l).sideband = s.sideband := by rw [writeLine, writeBytes_sideband]
@[simp] theorem writeLine_portOut (s : State) (a : Nat) (l : Line) : (s.writeLine a l).portOut = s.portOut := by rw [writeLine, writeBytes_portOut]
@[simp] theorem writeLine_portIn (s : State) (a : Nat) (l : Line) : (s.writeLine a l).portIn = s.portIn := by rw [writeLine, writeBytes_portIn]
@[simp] theorem writeLine_chip (s : State) (a : Nat) (l : Line) : (s.writeLine a l).chip = s.chip := by rw [writeLine, writeBytes_chip]
@[simp] theorem writeLine_reclaim (s : State) (a : Nat) (l : Line) : (s.writeLine a l).reclaim = s.reclaim := by rw [writeLine, writeBytes_reclaim]
@[simp] theorem writeLine_unitSeq (s : State) (a : Nat) (l : Line) : (s.writeLine a l).unitSeq = s.unitSeq := by rw [writeLine, writeBytes_unitSeq]
@[simp] theorem writeLine_ctx (s : State) (a : Nat) (l : Line) (j : Nat) : (s.writeLine a l).ctx j = s.ctx j := by rw [writeLine, writeBytes_ctx]
@[simp] theorem writeLine_core (s : State) (a : Nat) (l : Line) (j : Nat) : (s.writeLine a l).core j = s.core j := by rw [writeLine, writeBytes_core]
@[simp] theorem writeLine_cluster (s : State) (a : Nat) (l : Line) (j : Nat) : (s.writeLine a l).cluster j = s.cluster j := by rw [writeLine, writeBytes_cluster]
@[simp] theorem writeLine_die (s : State) (a : Nat) (l : Line) (j : Nat) : (s.writeLine a l).die j = s.die j := by rw [writeLine, writeBytes_die]
@[simp] theorem writeLine_me (s : State) (a : Nat) (l : Line) : (s.writeLine a l).me = s.me := by rw [writeLine, writeBytes_me]

/-! ### Reads after updates -/

@[simp] theorem ctx_setCtx_same (s : State) (k : Nat) (x : Ctx) : (s.setCtx k x).ctx k = x := by simp [ctx, setCtx]
@[simp] theorem ctx_setCtx_other (s : State) {j k : Nat} (x : Ctx) (h : j ≠ k) : (s.setCtx k x).ctx j = s.ctx j := by
  simp [ctx, setCtx, h]
@[simp] theorem ctx_modCtx_same (s : State) (k : Nat) (f : Ctx → Ctx) : (s.modCtx k f).ctx k = f (s.ctx k) := by simp [modCtx]
@[simp] theorem ctx_modCtx_other (s : State) {j k : Nat} (f : Ctx → Ctx) (h : j ≠ k) : (s.modCtx k f).ctx j = s.ctx j := by
  simp [modCtx, h]
@[simp] theorem setCtx_setCtx (s : State) (k : Nat) (x y : Ctx) : (s.setCtx k x).setCtx k y = s.setCtx k y := by simp [setCtx]
@[simp] theorem modCtx_modCtx (s : State) (k : Nat) (f g : Ctx → Ctx) :
    (s.modCtx k f).modCtx k g = s.modCtx k (fun x => g (f x)) := by
  simp [modCtx]

@[simp] theorem core_setCore_same (s : State) (k : Nat) (x : Core) : (s.setCore k x).core k = x := by simp [core, setCore]
@[simp] theorem core_setCore_other (s : State) {j k : Nat} (x : Core) (h : j ≠ k) : (s.setCore k x).core j = s.core j := by
  simp [core, setCore, h]
@[simp] theorem core_modCore_same (s : State) (k : Nat) (f : Core → Core) : (s.modCore k f).core k = f (s.core k) := by simp [modCore]
@[simp] theorem core_modCore_other (s : State) {j k : Nat} (f : Core → Core) (h : j ≠ k) : (s.modCore k f).core j = s.core j := by
  simp [modCore, h]
@[simp] theorem setCore_setCore (s : State) (k : Nat) (x y : Core) : (s.setCore k x).setCore k y = s.setCore k y := by simp [setCore]
@[simp] theorem modCore_modCore (s : State) (k : Nat) (f g : Core → Core) :
    (s.modCore k f).modCore k g = s.modCore k (fun x => g (f x)) := by
  simp [modCore]

@[simp] theorem cluster_setCluster_same (s : State) (k : Nat) (x : Cluster) : (s.setCluster k x).cluster k = x := by simp [cluster, setCluster]
@[simp] theorem cluster_setCluster_other (s : State) {j k : Nat} (x : Cluster) (h : j ≠ k) : (s.setCluster k x).cluster j = s.cluster j := by
  simp [cluster, setCluster, h]
@[simp] theorem cluster_modCluster_same (s : State) (k : Nat) (f : Cluster → Cluster) : (s.modCluster k f).cluster k = f (s.cluster k) := by simp [modCluster]
@[simp] theorem cluster_modCluster_other (s : State) {j k : Nat} (f : Cluster → Cluster) (h : j ≠ k) : (s.modCluster k f).cluster j = s.cluster j := by
  simp [modCluster, h]
@[simp] theorem setCluster_setCluster (s : State) (k : Nat) (x y : Cluster) : (s.setCluster k x).setCluster k y = s.setCluster k y := by simp [setCluster]
@[simp] theorem modCluster_modCluster (s : State) (k : Nat) (f g : Cluster → Cluster) :
    (s.modCluster k f).modCluster k g = s.modCluster k (fun x => g (f x)) := by
  simp [modCluster]

@[simp] theorem die_setDie_same (s : State) (k : Nat) (x : Die) : (s.setDie k x).die k = x := by simp [die, setDie]
@[simp] theorem die_setDie_other (s : State) {j k : Nat} (x : Die) (h : j ≠ k) : (s.setDie k x).die j = s.die j := by
  simp [die, setDie, h]
@[simp] theorem die_modDie_same (s : State) (k : Nat) (f : Die → Die) : (s.modDie k f).die k = f (s.die k) := by simp [modDie]
@[simp] theorem die_modDie_other (s : State) {j k : Nat} (f : Die → Die) (h : j ≠ k) : (s.modDie k f).die j = s.die j := by
  simp [modDie, h]
@[simp] theorem setDie_setDie (s : State) (k : Nat) (x y : Die) : (s.setDie k x).setDie k y = s.setDie k y := by simp [setDie]
@[simp] theorem modDie_modDie (s : State) (k : Nat) (f g : Die → Die) :
    (s.modDie k f).modDie k g = s.modDie k (fun x => g (f x)) := by
  simp [modDie]

@[simp] theorem me_setMe (s : State) (c : Ctx) : (s.setMe c).me = c := by simp [setMe, me]
@[simp] theorem me_modMe (s : State) (f : Ctx → Ctx) : (s.modMe f).me = f s.me := by simp [modMe]
@[simp] theorem ctx_modMe_cur (s : State) (f : Ctx → Ctx) : (s.modMe f).ctx s.cur = f s.me := by
  simp [modMe, setMe]
@[simp] theorem ctx_modMe_other (s : State) {j : Nat} (f : Ctx → Ctx) (h : j ≠ s.cur) : (s.modMe f).ctx j = s.ctx j := by
  simp [modMe, setMe, h]
@[simp] theorem modMe_modMe (s : State) (f g : Ctx → Ctx) : (s.modMe f).modMe g = s.modMe (fun c => g (f c)) := by
  simp [modMe, setMe, me]
theorem modMe_congr (s : State) {f g : Ctx → Ctx} (h : f s.me = g s.me) : s.modMe f = s.modMe g := by
  simp [modMe, h]
theorem ends_eq (s : State) (f : Ctx → Ctx) : (s.modMe f).modMe Ctx.settle = s.ends f := by simp [ends]
@[simp] theorem setCtx_setDie (s : State) (k j : Nat) (c : Ctx) (d : Die) :
    (s.setCtx k c).setDie j d = (s.setDie j d).setCtx k c := rfl
@[simp] theorem setCtx_setCore (s : State) (k j : Nat) (c : Ctx) (d : Core) :
    (s.setCtx k c).setCore j d = (s.setCore j d).setCtx k c := rfl
@[simp] theorem setCtx_setCluster (s : State) (k j : Nat) (c : Ctx) (d : Cluster) :
    (s.setCtx k c).setCluster j d = (s.setCluster j d).setCtx k c := rfl

end State

end Sys2Proof.Machine
end

