-- ==== Sys2Proof/Laws/Memory.lean ====
section
/-!
SUPPORT. The laws of memory: the canonical form, which every write keeps, and reads after writes.
-/

namespace Sys2Proof.Machine

/-! ### The canonical form -/

theorem Memory.wfFrom_mono {m : List Host.Cell} {lo hi : Nat} (h : Memory.wfFrom hi m = true) (le : lo ≤ hi) :
    Memory.wfFrom lo m = true := by
  cases m with
  | nil => rfl
  | cons p m =>
    obtain ⟨j, b⟩ := p
    simp only [Memory.wfFrom, Bool.and_eq_true, decide_eq_true_eq] at h ⊢
    exact ⟨⟨le.trans h.1.1, h.1.2⟩, h.2⟩

/-- A write above a bound keeps the form above it. -/
theorem Memory.wfFrom_set {m : List Host.Cell} {lo a : Nat} (b : Byte) (h : Memory.wfFrom lo m = true) (le : lo ≤ a) :
    Memory.wfFrom lo (Memory.set m a b) = true := by
  induction m generalizing lo with
  | nil =>
    unfold Memory.set
    split
    · rfl
    · simp_all [Memory.wfFrom]
  | cons p m ih =>
    obtain ⟨j, c⟩ := p
    simp only [Memory.wfFrom, Bool.and_eq_true, decide_eq_true_eq] at h
    unfold Memory.set
    split
    · split <;> simp_all [Memory.wfFrom]
    · split
      · split
        · exact Memory.wfFrom_mono h.2 (by omega)
        · simp_all [Memory.wfFrom]
      · simp only [Memory.wfFrom, Bool.and_eq_true, decide_eq_true_eq]
        exact ⟨h.1, ih h.2 (by omega)⟩

theorem Memory.wf_set {m : List Host.Cell} (a : Nat) (b : Byte) (h : Memory.wf m = true) :
    Memory.wf (Memory.set m a b) = true := Memory.wfFrom_set b h (Nat.zero_le a)

theorem Memory.wf_write {m : List Host.Cell} (a : Nat) (bs : List Byte) (h : Memory.wf m = true) :
    Memory.wf (Memory.write m a bs) = true := by
  induction bs generalizing m a with
  | nil => exact h
  | cons b bs ih => exact ih (a + 1) (Memory.wf_set a b h)

theorem Memory.wf_foldl_set {m : List Host.Cell} (cs : List Host.Cell) (h : Memory.wf m = true) :
    Memory.wf (cs.foldl (fun m c => Memory.set m c.1 c.2) m) = true := by
  induction cs generalizing m with
  | nil => exact h
  | cons c cs ih => exact ih (Memory.wf_set c.1 c.2 h)

/-! ### Reads after writes -/

/-- Below its first entry a memory reads as unlisted. -/
theorem Memory.get_below {m : List Host.Cell} {lo a : Nat} (h : Memory.wfFrom lo m = true) (lt : a < lo) :
    Memory.get m a = Memory.unlisted := by
  cases m with
  | nil => rfl
  | cons p m =>
    obtain ⟨j, b⟩ := p
    simp only [Memory.wfFrom, Bool.and_eq_true, decide_eq_true_eq] at h
    unfold Memory.get
    rw [if_neg (by omega), if_pos (by omega)]

theorem Memory.get_set_same {m : List Host.Cell} {lo : Nat} (a : Nat) (b : Byte) (h : Memory.wfFrom lo m = true) :
    Memory.get (Memory.set m a b) a = b := by
  induction m generalizing lo with
  | nil =>
    unfold Memory.set
    split <;> simp_all [Memory.get]
  | cons p m ih =>
    obtain ⟨j, c⟩ := p
    simp only [Memory.wfFrom, Bool.and_eq_true, decide_eq_true_eq] at h
    unfold Memory.set
    split
    · rename_i lt
      split
      · rename_i e
        rw [e]
        exact Memory.get_below (lo := j) (by simp_all [Memory.wfFrom]) lt
      · simp [Memory.get]
    · split
      · rename_i e
        subst e
        split
        · rename_i e
          rw [e]
          exact Memory.get_below h.2 (by omega)
        · simp [Memory.get]
      · unfold Memory.get
        rw [if_neg (by omega), if_neg (by omega)]
        exact ih h.2

theorem Memory.get_set_other {m : List Host.Cell} {lo a j : Nat} (b : Byte) (h : Memory.wfFrom lo m = true) (ne : j ≠ a) :
    Memory.get (Memory.set m a b) j = Memory.get m j := by
  induction m generalizing lo with
  | nil =>
    unfold Memory.set
    split
    · rfl
    · simp [Memory.get, Ne.symm ne]
  | cons p m ih =>
    obtain ⟨k, c⟩ := p
    simp only [Memory.wfFrom, Bool.and_eq_true, decide_eq_true_eq] at h
    unfold Memory.set
    split
    · split
      · rfl
      · rw [Memory.get, if_neg (Ne.symm ne)]
        split
        · rename_i lt
          exact (Memory.get_below (lo := k) (by simp_all [Memory.wfFrom]) (by omega)).symm
        · rfl
    · split
      · rename_i e
        subst e
        have old : Memory.get ((a, c) :: m) j = if j < a then Memory.unlisted else Memory.get m j := by
          rw [Memory.get, if_neg (Ne.symm ne)]
        rw [old]
        split
        · split
          · exact Memory.get_below h.2 (by omega)
          · rfl
        · rw [Memory.get, if_neg (Ne.symm ne)]
      · simp only [Memory.get]
        rw [ih h.2]

/-- A write of several bytes leaves every byte outside them alone. -/
theorem Memory.get_write_other {m : List Host.Cell} {a j : Nat} (bs : List Byte) (h : Memory.wf m = true)
    (out : j < a ∨ a + bs.length ≤ j) : Memory.get (Memory.write m a bs) j = Memory.get m j := by
  induction bs generalizing m a with
  | nil => rfl
  | cons b bs ih =>
    simp only [List.length_cons] at out
    rw [Memory.write, ih (Memory.wf_set a b h) (by omega), Memory.get_set_other b h (by omega)]

theorem Memory.length_read (m : List Host.Cell) (a n : Nat) : (Memory.read m a n).length = n := by
  induction n generalizing a with
  | zero => rfl
  | succ n ih => simp [Memory.read, ih]

/-! ### Memory in the state -/

theorem reset_memory_wf : Memory.wf State.reset.mem = true := rfl

theorem State.wf_writeBytes {s : State} (pa : Nat) (bs : List Byte) (h : Memory.wf s.mem = true) :
    Memory.wf (s.writeBytes pa bs).mem = true := Memory.wf_write _ _ h
theorem State.wf_writeNat {s : State} (pa n v : Nat) (h : Memory.wf s.mem = true) :
    Memory.wf (s.writeNat pa n v).mem = true := s.wf_writeBytes _ _ h
theorem State.wf_writeLine {s : State} (pa : Nat) (l : Line) (h : Memory.wf s.mem = true) :
    Memory.wf (s.writeLine pa l).mem = true := s.wf_writeBytes _ _ h

/-- The writes of memory change no other part of the state. -/
theorem State.writeBytes_frame (s : State) (pa : Nat) (bs : List Byte) :
    (s.writeBytes pa bs).ctxs = s.ctxs ∧ (s.writeBytes pa bs).cores = s.cores ∧ (s.writeBytes pa bs).clusters = s.clusters ∧
      (s.writeBytes pa bs).dies = s.dies ∧ (s.writeBytes pa bs).net = s.net := ⟨rfl, rfl, rfl, rfl, rfl⟩

end Sys2Proof.Machine
end

