-- ==== Sys2Proof/Laws/Run.lean ====
section
/-!
SUPPORT. How the pseudocode monad runs: sequencing, reads and writes of the state, early ends, and what runI and runE
answer for each end.
-/

namespace Sys2Proof.Machine

variable {α β : Type}

/-! ### Sequencing -/

@[simp] theorem run_pure (a : α) (s : State) : EStateM.run (pure a : M α) s = .ok a s := rfl
@[simp] theorem run_throw (e : Exc) (s : State) : EStateM.run (throw e : M α) s = .error e s := rfl
@[simp] theorem run_get (s : State) : EStateM.run (get : M State) s = .ok s s := rfl
@[simp] theorem run_set (s t : State) : EStateM.run (set t : M Unit) s = .ok () t := rfl
@[simp] theorem run_modify (f : State → State) (s : State) : EStateM.run (modify f : M Unit) s = .ok () (f s) := rfl

theorem run_bind (m : M α) (f : α → M β) (s : State) :
    (m >>= f).run s = match m.run s with
      | .ok a t => (f a).run t
      | .error e t => .error e t := by
  simp only [EStateM.run, bind, EStateM.bind]
  cases m s <;> rfl

@[simp] theorem run_bind_ok {m : M α} {f : α → M β} {s t : State} {a : α} (h : m.run s = .ok a t) :
    (m >>= f).run s = (f a).run t := by rw [run_bind, h]
@[simp] theorem run_bind_error {m : M α} {f : α → M β} {s t : State} {e : Exc} (h : m.run s = .error e t) :
    (m >>= f).run s = .error e t := by rw [run_bind, h]

theorem run_map (m : M α) (g : α → β) (s : State) :
    (g <$> m).run s = match m.run s with
      | .ok a t => .ok (g a) t
      | .error e t => .error e t := by
  simp only [EStateM.run, Functor.map, EStateM.map]
  cases m s <;> rfl

@[simp] theorem run_map_ok {m : M α} {g : α → β} {s t : State} {a : α} (h : m.run s = .ok a t) :
    (g <$> m).run s = .ok (g a) t := by rw [run_map, h]

/-! ### The elementary operations -/

@[simp] theorem run_me (s : State) : me.run s = .ok s.me s := rfl
@[simp] theorem run_modMe (f : Ctx → Ctx) (s : State) : (modMe f).run s = .ok () (s.modMe f) := rfl
@[simp] theorem run_modCore (k : Nat) (f : Core → Core) (s : State) : (modCore k f).run s = .ok () (s.modCore k f) := rfl
@[simp] theorem run_modCluster (k : Nat) (f : Cluster → Cluster) (s : State) :
    (modCluster k f).run s = .ok () (s.modCluster k f) := rfl
@[simp] theorem run_modDie (k : Nat) (f : Die → Die) (s : State) : (modDie k f).run s = .ok () (s.modDie k f) := rfl
@[simp] theorem run_myCore (s : State) : myCore.run s = .ok s.me.coreNo s := rfl
@[simp] theorem run_phase (s : State) : phase.run s = .ok s.me.phase s := rfl
@[simp] theorem run_setPhase (n : Nat) (s : State) :
    (setPhase n).run s = .ok () (s.modMe fun c => { c with phase := n }) := rfl
@[simp] theorem run_modFlags (f : Flags → Flags) (s : State) :
    (modFlags f).run s = .ok () (s.modMe fun c => { c with flags := f c.flags }) := rfl
@[simp] theorem run_rdFlags (s : State) : rdFlags.run s = .ok s.me.seen.flags s := rfl
@[simp] theorem run_addPending (i : Instr) (s : State) :
    (addPending i).run s = .ok () { s with pending := s.pending ++ [i] } := rfl
@[simp] theorem run_addTimer (n : Nat) (i : Instr) (s : State) :
    (addTimer n i).run s = .ok () { s with timers := s.timers ++ [(n, i)] } := rfl
@[simp] theorem run_raise (f : FaultRec) (s : State) : (raise f : M α).run s = .error (.fault [f]) s := rfl
@[simp] theorem run_fault (code : BitVec 8) (info : List Word) (taddr : Pc) (src : BitVec 4) (s : State) :
    (fault code info taddr src : M α).run s = .error (.fault [{ code, info, taddr, src }]) s := rfl
@[simp] theorem run_parkUnless_true (s : State) : (parkUnless true).run s = .ok () s := rfl
@[simp] theorem run_parkUnless_false (s : State) : (parkUnless false).run s = .error .park s := rfl
@[simp] theorem run_freshId (s : State) : freshId.run s = .ok s.nextId { s with nextId := s.nextId + 1 } := rfl
@[simp] theorem run_draw (s : State) : draw.run s = .ok s.draws { s with draws := s.draws + 1 } := rfl
@[simp] theorem run_openOp (k : OpenKind) (counted : Bool) (s : State) :
    (openOp k counted).run s = .ok s.nextId
      (({ s with nextId := s.nextId + 1 } : State).modMe fun c =>
        { c with
          opens := c.opens.put s.nextId { kind := k, pc := c.pc, counted }
          ctl := if counted then { c.ctl with stq := c.ctl.stq + 1 } else c.ctl }) := rfl
@[simp] theorem run_addWait (op : Nat) (s : State) :
    (addWait op).run s = .ok () (s.modMe fun c => { c with waits := c.waits ++ [op] }) := rfl

@[simp] theorem run_needAlign {va : Pc} {n : Nat} {s : State} (h : va.toNat % n = 0) : (needAlign va n).run s = .ok () s := by
  simp [needAlign, h]

theorem run_stage_now {n : Nat} {m : M Unit} {s t : State} (h : s.me.phase = n) (hm : m.run s = .ok () t) :
    (stage n m).run s = .ok () (t.modMe fun c => { c with phase := n + 1 }) := by
  simp [stage, h, run_bind_ok hm]

theorem run_stage_past {n : Nat} {m : M Unit} {s : State} (h : s.me.phase ≠ n) : (stage n m).run s = .ok () s := by
  simp [stage, h]

/-- No earlier fault stands between an instruction and a wait for STQ = 0 that holds (R75). -/
theorem run_waitStq {s : State} (h : s.me.ctl.stq = 0) (h' : s.me.owed = []) : waitStq.run s = .ok () s := by
  simp [waitStq, h, h']

theorem run_forM_nil {f : α → M Unit} {s : State} : (List.forM [] f : M Unit).run s = .ok () s := rfl

/-- A loop whose body leaves the state alone does so too. -/
theorem run_forM_same {l : List α} {f : α → M Unit} {s : State} (h : ∀ a ∈ l, (f a).run s = .ok () s) :
    (l.forM f).run s = .ok () s := by
  induction l with
  | nil => rfl
  | cons a l ih =>
    show (f a >>= fun _ => l.forM f).run s = _
    rw [run_bind_ok (h a (List.mem_cons_self ..))]
    exact ih fun b hb => h b (List.mem_cons_of_mem _ hb)

/-! ### What an instruction or event answers -/

theorem runI_ok {m : M Unit} {i : Instr} {s t : State} (h : m.run s = .ok () t) :
    runI m i s = .next (t.modMe Ctx.settle) := by simp [runI, h]
theorem runI_park {m : M Unit} {i : Instr} {s t : State} (h : m.run s = .error .park t) :
    runI m i s = .next (t.modMe (Ctx.parkIn i)) := by simp [runI, h]
theorem runI_fault {m : M Unit} {i : Instr} {s t : State} {fs : List FaultRec} (h : m.run s = .error (.fault fs) t) :
    runI m i s = .next (takeException (fs.map (FaultRec.withCode i)) (t.modMe Ctx.settle)) := by simp [runI, h]
theorem runE_ok {m : M Unit} {s t : State} (h : m.run s = .ok () t) : runE m s = .next t := by simp [runE, h]

/-- An instruction answers a next state unless its pseudocode refuses. -/
theorem runI_next (m : M Unit) (i : Instr) (s : State) (hr : ∀ r t, m.run s ≠ .error (.refuse r) t) :
    ∃ t, runI m i s = .next t := by
  unfold runI
  split
  · exact ⟨_, rfl⟩
  · exact ⟨_, rfl⟩
  · exact ⟨_, rfl⟩
  · exact ⟨_, rfl⟩
  · rename_i h; exact absurd h (hr _ _)

end Sys2Proof.Machine
end

