-- ==== Sys2Proof/Laws/Operands.lean ====
section
/-!
SUPPORT. The operand forms: what the register checks, the reads and the writes of plain operands do (R62, R63, R72).
-/

namespace Sys2Proof.Machine

theorem filterMap_queue_nil (l : List Spec) (h : l.all (fun r => !Spec.isQueue r) = true) :
    l.filterMap Spec.queue? = [] := by
  induction l with
  | nil => rfl
  | cons r l ih =>
    simp only [List.all_cons, Bool.and_eq_true] at h
    cases r <;> simp_all [Spec.isQueue, Spec.queue?]

/-- No queue among the operands: nothing is popped. -/
theorem run_popQueues_none {l : List Spec} (n : Nat) (s : State) (h : l.all (fun r => !Spec.isQueue r) = true) :
    (popQueues l n).run s = .ok () s := by
  simp [popQueues, filterMap_queue_nil l h]

theorem run_checkRead_full {r : Spec} {s : State} (h : s.me.regSt r = .full) : (checkRead r).run s = .ok () s := by
  simp [checkRead, h]

theorem run_checkRead_dead {r : Spec} {s : State} (h : s.me.regSt r = .dead) :
    (checkRead r).run s = .error (.fault [{ code := 0x05, info := [r.code.setWidth 64] }]) s := by
  simp [checkRead, h]

theorem run_checkWrite_open {r : Spec} {s : State} (h : s.me.regSt r = .full ∨ s.me.regSt r = .dead) :
    (checkWrite r).run s = .ok () s := by
  rcases h with h | h <;> simp [checkWrite, h]

theorem run_checkDst_open {r : Spec} {s : State} (h : s.me.regSt r = .full ∨ s.me.regSt r = .dead) :
    (checkDst r).run s = .ok () s := by
  cases r with
  | q j => rfl
  | _ => exact run_checkWrite_open h

theorem run_checkRoom_plain {r : Spec} (s : State) (h : Spec.isQueue r = false) : (checkRoom r).run s = .ok () s := by
  cases r <;> first | rfl | simp [Spec.isQueue] at h

@[simp] theorem run_whenM_true (m : M Unit) (s : State) : (whenM true m).run s = m.run s := rfl
@[simp] theorem run_whenM_false (m : M Unit) (s : State) : (whenM false m).run s = .ok () s := rfl

theorem run_whenM_same {m : M Unit} {s : State} (b : Bool) (h : m.run s = .ok () s) : (whenM b m).run s = .ok () s := by
  cases b <;> simp [h]

/-- The register checks of an instruction that starts or goes on leave the state alone. -/
theorem run_checkRegs {i : Instr} {s : State} (h : starts i s = true ∨ goesOn s = true) :
    (checkRegs i).run s = .ok () s := by
  unfold checkRegs
  rw [run_bind_ok (run_me s)]
  rcases h with h | h
  · simp only [starts, Bool.and_eq_true, beq_iff_eq, List.isEmpty_iff, Bool.or_eq_true] at h
    obtain ⟨⟨⟨⟨hp, hq⟩, hs⟩, hd⟩, hv⟩ := h
    by_cases hw : s.me.view.isSome = true
    · simp [hw]
    · simp only [hw, Bool.false_eq_true, false_or] at hv
      obtain ⟨h1, h2⟩ := hv
      have reads : (i.srcs.forM checkRead : M Unit).run s = .ok () s :=
        run_forM_same fun r hr => run_checkRead_full (by simpa using List.all_eq_true.mp h1 r hr)
      have writes : (i.dsts.forM checkDst : M Unit).run s = .ok () s :=
        run_forM_same fun r hr => run_checkDst_open (by simpa using List.all_eq_true.mp h2 r hr)
      have room : (i.dsts.forM checkRoom : M Unit).run s = .ok () s :=
        run_forM_same fun r hr => run_checkRoom_plain s (by simpa using List.all_eq_true.mp hd r hr)
      have pops := run_popQueues_none s.me.popped.length s hs
      rw [if_neg (by simp [hp, hw]), run_bind_ok (run_whenM_same _ pops), run_bind_ok reads, run_bind_ok writes,
        run_bind_ok (run_whenM_same _ pops), room]
  · simp only [goesOn, bne_iff_ne, ne_eq] at h
    simp [h]

@[simp] theorem run_rdSn (n : BitVec 5) (s : State) : (rdSn n).run s = .ok (s.me.seen.getS n) s := rfl
@[simp] theorem run_rdVn (n : BitVec 4) (s : State) : (rdVn n).run s = .ok (s.me.seen.getV n) s := rfl
@[simp] theorem run_rdBn (n : BitVec 3) (s : State) : (rdBn n).run s = .ok (s.me.seen.getB n) s := rfl
@[simp] theorem run_wrVn (n : BitVec 4) (x : Row) (s : State) : (wrVn n x).run s = .ok () (s.modMe fun c => c.putV n x) := rfl
@[simp] theorem run_wrBn (n : BitVec 3) (x : BReg) (s : State) : (wrBn n x).run s = .ok () (s.modMe fun c => c.putB n x) := rfl

/-- A read of a plain scalar operand. -/
theorem run_rdS {r : Spec} (s : State) (h : Spec.isQueue r = false) : (rdS r).run s = .ok (s.val r) s := by
  cases r <;> first | rfl | simp [Spec.isQueue] at h

theorem run_rdMask {r : Spec} (s : State) (h : Spec.isQueue r = false) : (rdMask r).run s = .ok (s.mask r) s := by
  unfold rdMask State.mask
  split
  · rfl
  · rw [run_bind_ok (run_rdS s h)]
    rfl

theorem run_rdSrc {r : Src} (s : State) (h : r.regs.all (fun r => !Spec.isQueue r) = true) :
    (rdSrc r).run s = .ok (s.srcVal r) s := by
  cases r with
  | imm x => rfl
  | reg r => exact run_rdS s (by simpa [Src.regs] using h)

/-- A write of a plain scalar destination. -/
theorem run_wrS {r : Spec} (w : Bool) (x : Word) (s : State) (hd : r.isDL w = true) (hq : Spec.isQueue r = false) :
    (wrS r x).run s = .ok () (s.modMe fun c => c.put r x) := by
  cases r <;> first | rfl | exact Bool.noConfusion hq | simp [Spec.isDL, Spec.isS] at hd

end Sys2Proof.Machine
end

