-- ==== Sys2Proof/Laws/Ops.lean ====
section
/-!
SUPPORT. The shared operations: what the scalar courses, translation, the scratchpad checks, the waits for answers, taking
an exception and returning from one answer in each of their cases.
-/

namespace Sys2Proof.Machine

/-! ### The courses of class 0 -/

/-- The state after a binary instruction: its result in D, and with .f its flags. -/
def binDone (s : State) (o : Bin) (f : Word → Word → AluOut) : State :=
  let r := f (s.val o.a) (s.srcVal o.src)
  s.ends fun c =>
    let c := c.put o.d r.r
    if o.f then { c with flags := c.flags.arith r.r r.c r.v } else c

theorem runI_binOp {i : Instr} {w : Bool} {o : Bin} (f : Word → Word → AluOut) {s : State} (hi : starts i s = true)
    (hw : o.wf w = true) (hs : i.srcs = o.a :: o.src.regs) (hd : i.dsts = [o.d]) :
    runI (binOp i o f) i s = .next (binDone s o f) := by
  have hq := hi
  simp only [starts, Bool.and_eq_true, hs, hd, List.all_cons, List.all_nil, Bool.and_true, Bool.not_eq_true'] at hq
  obtain ⟨⟨⟨_, ha, hsrc⟩, hdq⟩, _⟩ := hq
  simp only [Bin.wf, Bool.and_eq_true] at hw
  have e : (binOp i o f).run s = .ok () (s.modMe fun c =>
      let r := f (s.val o.a) (s.srcVal o.src)
      let c := c.put o.d r.r
      if o.f then { c with flags := c.flags.arith r.r r.c r.v } else c) := by
    unfold binOp
    rw [run_bind_ok (run_checkRegs (.inl hi)), run_bind_ok (run_rdS s ha), run_bind_ok (run_rdSrc s hsrc),
      run_bind_ok (run_wrS w _ s hw.1.1 hdq)]
    by_cases hf : o.f = true <;> simp [hf]
  rw [runI_ok e]
  simp [State.ends, binDone]

theorem runI_unOp {i : Instr} {w : Bool} {d a : Spec} (f : Word → Word) {s : State} (hi : starts i s = true)
    (hw : d.isDL w = true) (hs : i.srcs = [a]) (hd : i.dsts = [d]) :
    runI (unOp i d a f) i s = .next (s.ends fun c => c.put d (f (s.val a))) := by
  have hq := hi
  simp only [starts, Bool.and_eq_true, hs, hd, List.all_cons, List.all_nil, Bool.and_true, Bool.not_eq_true'] at hq
  obtain ⟨⟨⟨_, ha⟩, hdq⟩, _⟩ := hq
  have e : (unOp i d a f).run s = .ok () (s.modMe fun c => c.put d (f (s.val a))) := by
    unfold unOp
    rw [run_bind_ok (run_checkRegs (.inl hi)), run_bind_ok (run_rdS s ha), run_wrS w _ s hw hdq]
  rw [runI_ok e]
  simp [State.ends]

/-! ### Translation (R116, R117) -/

/-- A translation that is kept, or that the L1 TLB holds, and that permits the access. -/
theorem run_translate_held {k : AccKind} {va : Pc} {t : Tlb} {s : State} (h : s.maps k va t = true) :
    (translate k va).run s = .ok t (s.keeps k va t) := by
  simp only [State.maps, Bool.and_eq_true, beq_iff_eq] at h
  unfold translate State.keeps
  rw [run_bind_ok (run_get s)]
  dsimp only
  cases hp : tlbFind s.me.pages s.me.asid va with
  | some u =>
    simp only [hp, Option.some_or, Option.some.injEq] at h
    simp [h.1, h.2]
  | none =>
    simp only [hp, Option.none_or] at h
    rw [h.1]
    unfold keepPage
    by_cases hk : k = .fetch
    · subst hk; simp [h.2]
    · simp [hk, h.2]

/-- One that does not permit it faults with 0x10. -/
theorem run_translate_denied {k : AccKind} {va : Pc} {t : Tlb} {s : State}
    (h : tlbFind s.me.pages s.me.asid va = some t) (hp : permitted s.me.priv k t.e = false) :
    (translate k va).run s
      = .error (.fault [{ code := 0x10, info := [va.setWidth 64, BitVec.ofNat 64 k.code], taddr := va, src := 0 }]) s := by
  unfold translate
  rw [run_bind_ok (run_get s)]
  dsimp only
  rw [h]
  simp [hp, xlatFault]

/-- One that is not at hand parks or faults: it never answers a translation. -/
theorem run_translate_absent {k : AccKind} {va : Pc} {s : State} (hp : tlbFind s.me.pages s.me.asid va = none)
    (h : tlbFind (s.core s.me.coreNo).tlb s.me.asid va = none) : ∃ e t, (translate k va).run s = .error e t := by
  unfold translate
  rw [run_bind_ok (run_get s)]
  simp only [h, hp]
  split
  · rw [run_bind_ok (run_modMe _ s)]
    split <;> exact ⟨_, _, rfl⟩
  · split
    · exact ⟨_, _, rfl⟩
    · rw [run_bind]
      split <;> exact ⟨_, _, rfl⟩

/-! ### Code (R54, R376) -/

/-- A line of code of this package whose units are free, and that is not spoilt, is what its home holds. -/
theorem run_codeLine {t : Tlb} {va : Pc} {s : State} (h : s.codeReady t va = true) :
    (codeLine t va).run s = .ok (homeLine s t.e (t.pa va)) s := by
  simp only [State.codeReady, Bool.and_eq_true, Bool.not_eq_true', Option.isNone_iff_eq_none] at h
  obtain ⟨⟨⟨here, lasting⟩, fenced⟩, spoilt⟩ := h
  unfold codeLine
  rw [run_bind_ok (run_get s)]
  simp [here, lasting, fenced, spoilt]

/-! ### The scratchpad (R173, R174, R208) -/

theorem run_checkPad {o n al : Nat} {g : Region} {s : State} (h : s.padRegion o n al = some g) :
    (checkPad o n al).run s = .ok g s := by
  unfold State.padRegion at h
  unfold checkPad
  rw [run_bind_ok (run_get s)]
  dsimp only
  split at h
  · simp at h
  · rename_i al0
    rw [if_neg al0]
    split at h
    · rename_i r eq
      rw [eq]
      split at h
      · rename_i ok
        simp only [Option.some.injEq] at h
        subst h
        simp only [Bool.and_eq_true, Bool.or_eq_true, beq_iff_eq] at ok
        have own : (s.me.wave.isNone && !r.shared && r.cxid != s.me.cxid) = false := by
          rcases ok.2 with (e | e) | e
          · cases hw : s.me.wave <;> simp_all
          · simp [e]
          · simp [e]
        simp [ok.1, own]
      · simp at h
    · simp at h

theorem run_padFreePath {p o n : Nat} {w : Bool} {s : State} (h : s.padOpen p o n w = true) :
    (padFreePath p o n w).run s = .ok () s := by
  unfold padFreePath
  rw [run_bind_ok (run_get s)]
  refine run_forM_same fun r hr => ?_
  have hr' := List.all_eq_true.mp h r hr
  simp only [Bool.and_eq_true, Bool.or_eq_true, Bool.not_eq_true'] at hr'
  rw [run_bind_ok (t := s) (a := ()) (by simp [hr'.1])]
  rcases hr'.2 with hw | hw
  · have : s.me.wave.isNone = false := by cases e : s.me.wave <;> simp_all
    simp [this]
  · cases e : s.me.wave <;> simp [hw]

theorem run_padFree {o n : Nat} {w : Bool} {s : State} (h : s.padOpen 0 o n w = true) : (padFree o n w).run s = .ok () s :=
  run_padFreePath h

theorem run_padFilled {g : Region} {o n : Nat} {s : State} (h : s.padFull g o n = true) :
    (padFilled g o n).run s = .ok () s := by
  unfold padFilled
  rw [run_bind_ok (run_get s)]
  simp only [State.padFull, Bool.and_eq_true, Bool.or_eq_true, Bool.not_eq_true'] at h
  have full (e : ¬ g.shared = false) : ((rowsOf o n).forM fun r => parkUnless ((s.core s.me.coreNo).fillOf r).full).run s = .ok () s :=
    run_forM_same fun r hr => by simp [List.all_eq_true.mp (h.1.resolve_left e) r hr]
  dsimp only
  split
  · rename_i e
    rw [run_bind_ok (full (by simp [e]))]
    simp [h.2]
  · simp [h.2]

/-! ### Answers (R75) -/

/-- Every awaited operation has an answer without a fault: the answers are taken, in order. -/
theorem run_waitAnswers {s : State} (h : answered s = true) :
    waitAnswers.run s = .ok (s.me.waits.filterMap fun w => s.me.answers.find w)
      (s.modMe fun c => { c with answers := c.answers.filter fun a => !c.waits.contains a.1 }) := by
  simp only [answered, Bool.and_eq_true] at h
  unfold waitAnswers
  rw [run_bind_ok (run_me s), run_bind_ok (t := s) (a := ()) (by simp [h.1]), run_bind_ok (run_modMe _ s)]
  have : ((s.me.waits.filterMap fun w => s.me.answers.find w).flatMap (·.faults)) = [] := by
    simp only [List.flatMap_eq_nil_iff]
    intro a ha
    simpa using List.all_eq_true.mp h.2 a ha
  simp [this]

theorem run_waitAnswers_open {s : State} (h : (s.me.waits.all fun w => (s.me.opens.find w).isNone) = false) :
    waitAnswers.run s = .error .park s := by
  unfold waitAnswers
  rw [run_bind_ok (run_me s)]
  exact run_bind_error (by simp [h])

/-! ### Taking an exception and returning from one (R76, R166) -/

/-- A fault of the handler class enters the handler of a context that has one and is not in it. -/
theorem takeException_handler {f : FaultRec} {s : State} (hc : handlerClass f = true) (ht : s.me.ctl.thnd ≠ 0)
    (hn : s.me.ctl.tcause = 0)
    (ok : checkTarget s s.me.priv (peek s s.me.coreNo s.me.asid s.me.ctl.thnd) s.me.ctl.thnd = .ok) :
    takeException [f] s = s.modMe (enterHandler f) := by
  have : (handlerClass f && s.me.ctl.thnd != 0 && s.me.ctl.tcause == 0) = true := by
    simp only [Bool.and_eq_true, bne_iff_ne, beq_iff_eq]
    exact ⟨⟨hc, ht⟩, hn⟩
  unfold takeException
  dsimp only
  rw [if_pos this, ok]

/-- Without a handler, inside one, or with a fault of another class, the fault is posted to the mailbox. -/
theorem takeException_record {f : FaultRec} {s : State}
    (h : handlerClass f = false ∨ s.me.ctl.thnd = 0 ∨ s.me.ctl.tcause ≠ 0) : takeException [f] s = deliverByRecord [f] s := by
  have : (handlerClass f && s.me.ctl.thnd != 0 && s.me.ctl.tcause == 0) = false := by
    rcases h with h | h | h
    · simp [h]
    · simp [h]
    · rw [Bool.and_eq_false_iff]
      exact .inr (by simpa using h)
  unfold takeException
  dsimp only
  rw [this]
  rfl

theorem postCtx_me (c : Ctx) (f : FaultRec) (s : State) : (postCtx c f s).me = s.me ∧ (postCtx c f s).mem = s.mem ∧
    (postCtx c f s).cores = s.cores ∧ (postCtx c f s).cur = s.cur := ⟨rfl, rfl, rfl, rfl⟩

/-- Taking an exception changes neither memory nor a core, whatever the faults. -/
theorem takeException_stores (fs : List FaultRec) (s : State) :
    (takeException fs s).mem = s.mem ∧ (takeException fs s).cores = s.cores ∧ (takeException fs s).clusters = s.clusters := by
  have post : ∀ (c : Ctx) (fs : List FaultRec) (s : State),
      (fs.foldl (fun s f => postCtx c f s) s).mem = s.mem ∧ (fs.foldl (fun s f => postCtx c f s) s).cores = s.cores ∧
        (fs.foldl (fun s f => postCtx c f s) s).clusters = s.clusters := by
    intro c fs
    induction fs with
    | nil => exact fun s => ⟨rfl, rfl, rfl⟩
    | cons f fs ih => exact fun s => ih (postCtx c f s)
  have one : ∀ (fs : List FaultRec) (s : State), (deliverByRecord fs s).mem = s.mem ∧ (deliverByRecord fs s).cores = s.cores ∧
      (deliverByRecord fs s).clusters = s.clusters := fun fs s => post s.me fs s
  unfold takeException
  split
  · dsimp only
    split
    · split
      · exact ⟨rfl, rfl, rfl⟩
      · exact one _ s
      · exact one _ s
    · exact one _ s
  · exact one _ s

theorem run_returnFromException {s : State} (h : pcShape s.me.ctl.tpc = true) :
    returnFromException.run s = .ok () (s.modMe fun c =>
      { c with pc := s.me.ctl.tpc, xfer := true, entry := true, ctl := { c.ctl with tcause := 0 } }) := by
  unfold returnFromException
  rw [run_bind_ok (run_me s)]
  simp only [h]
  rfl

end Sys2Proof.Machine
end

