-- ==== Sys2Proof/Laws/Keeps.lean ====
section
/-!
SUPPORT. Properties of the state that a piece of pseudocode keeps, whichever way it ends, and how they compose.
-/

namespace Sys2Proof.Machine

variable {α β : Type}

/-- The state in which a run ends. -/
def endState : EStateM.Result Exc State α → State
  | .ok _ s => s
  | .error _ s => s

/-- `m` keeps `P`, whichever way it ends. -/
def Keeps (P : State → Prop) (m : M α) : Prop := ∀ s, P s → P (endState (m.run s))

variable {P : State → Prop}

theorem keeps_pure (a : α) : Keeps P (pure a : M α) := fun _ h => h
theorem keeps_throw (e : Exc) : Keeps P (throw e : M α) := fun _ h => h
theorem keeps_get : Keeps P (get : M State) := fun _ h => h
theorem keeps_me : Keeps P me := fun _ h => h
theorem keeps_fault (code : BitVec 8) (info : List Word) (taddr : Pc) (src : BitVec 4) :
    Keeps P (fault code info taddr src : M α) := fun _ h => h
theorem keeps_raise (f : FaultRec) : Keeps P (raise f : M α) := fun _ h => h
theorem keeps_modify {f : State → State} (h : ∀ s, P s → P (f s)) : Keeps P (modify f : M Unit) := h

theorem keeps_bind {m : M α} {f : α → M β} (hm : Keeps P m) (hf : ∀ a, Keeps P (f a)) : Keeps P (m >>= f) := by
  intro s h
  have hs := hm s h
  rw [run_bind]
  cases e : m.run s with
  | ok a t =>
    rw [e] at hs
    exact hf a t hs
  | error x t =>
    rw [e] at hs
    exact hs

theorem keeps_map {m : M α} {g : α → β} (hm : Keeps P m) : Keeps P (g <$> m) := by
  intro s h
  have hs := hm s h
  rw [run_map]
  cases e : m.run s <;> (rw [e] at hs; exact hs)

theorem keeps_ite {c : Prop} [Decidable c] {m n : M α} (hm : Keeps P m) (hn : Keeps P n) : Keeps P (if c then m else n) := by
  split
  · exact hm
  · exact hn

theorem keeps_parkUnless (c : Bool) : Keeps P (parkUnless c) := keeps_ite (keeps_pure ()) (keeps_throw _)
theorem keeps_whenM {c : Bool} {m : M Unit} (h : Keeps P m) : Keeps P (whenM c m) := keeps_ite h (keeps_pure ())

theorem keeps_forM {l : List α} {f : α → M Unit} (h : ∀ a ∈ l, Keeps P (f a)) : Keeps P (l.forM f) := by
  induction l with
  | nil => exact keeps_pure ()
  | cons a l ih =>
    exact keeps_bind (h a (List.mem_cons_self ..)) fun _ => ih fun b hb => h b (List.mem_cons_of_mem _ hb)

/-- An instruction keeps what its pseudocode, its bookkeeping and taking an exception keep. -/
theorem runI_keeps {m : M Unit} {i : Instr} {s t : State} (hm : Keeps P m) (settle : ∀ s, P s → P (s.modMe Ctx.settle))
    (park : ∀ s, P s → P (s.modMe (Ctx.parkIn i))) (take : ∀ fs s, P s → P (takeException fs s)) (h : P s)
    (e : runI m i s = .next t) : P t := by
  have hs := hm s h
  unfold runI at e
  split at e <;> rename_i r <;> simp only [r, endState] at hs <;> cases e
  · exact settle _ hs
  · exact park _ hs
  · exact settle _ hs
  · exact take _ _ (settle _ hs)

theorem runE_keeps {m : M Unit} {s t : State} (hm : Keeps P m) (h : P s) (e : runE m s = .next t) : P t := by
  have hs := hm s h
  unfold runE at e
  split at e <;> rename_i r <;> simp only [r, endState] at hs <;> cases e <;> exact hs

/-- The canonical form of memory depends on memory alone. -/
def MemWf (s : State) : Prop := Memory.wf s.mem = true

theorem memWf_of_mem {s t : State} (h : MemWf s) (e : t.mem = s.mem) : MemWf t := by rw [MemWf, e]; exact h
theorem keeps_modMe_mem (f : Ctx → Ctx) : Keeps MemWf (modMe f) := fun _ h => h
theorem keeps_writeBytes (pa : Nat) (bs : List Byte) : Keeps MemWf (modify fun s => s.writeBytes pa bs : M Unit) :=
  fun _ h => State.wf_writeBytes pa bs h

end Sys2Proof.Machine
end

