-- ==== Sys2Proof/Tests/Slice0.lean ====
section
/-!
SUPPORT. Tests: words written out from the spec's encodings, ill-formed terms that the checks refuse, single steps on small
states, and for each statement a state and operands that meet its hypotheses.
-/

namespace Sys2Proof.Tests

open Sys2Proof.Machine
set_option Elab.async false

/-! ## States -/

/-- A context (key 1, CXID 1) in slot 0 of core 0 of die 0 at 0x10000, its page in the TLB, and a line of NOPs. -/
def base : State := State.reset.withFetchWord 96 0
/-- The context of `base`, changed. -/
def on (f : Ctx → Ctx) : State := base.modMe f
/-- s-registers given values. -/
def sregs (l : List (BitVec 5 × Word)) (s : State) : State := s.modMe fun c => l.foldl (fun c p => c.putS p.1 p.2) c
/-- v-registers given values. -/
def vregs (l : List (BitVec 4 × Row)) (s : State) : State := s.modMe fun c => l.foldl (fun c p => c.putV p.1 p.2) c
/-- b-registers given values. -/
def bregs (l : List (BitVec 3 × BReg)) (s : State) : State := s.modMe fun c => l.foldl (fun c p => c.putB p.1 p.2) c
/-- s1 = 7, s2 = 3, s4 = 0x10040. -/
def small : State := sregs [(1, 7), (2, 3), (4, 0x10040)] base

/-! ## Witnesses -/

def addO : Bin := ⟨true, .s 3, .s 1, .reg (.s 2)⟩
def shiftO : Bin := ⟨false, .s 3, .s 1, .imm 5⟩

theorem test_hyp_scalarBinary : addO.wf false = true ∧ (∀ m ∈ [SatMode.wrap, .ss, .us], starts (.add m addO) small = true) ∧
    starts (.sub .wrap addO) small = true ∧ starts (.mul addO) small = true ∧ starts (.mulh true addO) small = true ∧
    starts (.div true addO) small = true ∧ starts (.rem false addO) small = true ∧ starts (.and addO) small = true ∧
    starts (.or addO) small = true ∧ starts (.xor addO) small = true ∧ starts (.andn addO) small = true ∧
    starts (.min true addO) small = true ∧ starts (.max true addO) small = true := by decide +kernel
theorem test_hyp_scalarShifts : shiftO.wfShift false = true ∧ starts (.shl shiftO) small = true ∧
    starts (.shr shiftO) small = true ∧ starts (.sar shiftO) small = true ∧ starts (.rotl shiftO) small = true := by
  decide +kernel

/-- The class-0 instructions with register operands, as ScalarUnary and ScalarCompare take them. -/
def unaries : List Instr :=
  [.clz (.s 3) (.s 1), .popc (.s 0) (.s 1), .bfx true (.s 3) (.s 1) 63 0, .bfi (.s 2) (.s 1) 0 63, .li (.s 3) 5,
    .lea 7 (.s 3) (.s 1) (.s 2) 1, .sel (.s 3) (.s 1) (.s 2), .crand (.s 3) (.s 1) (.id .slot), .sext .w8 (.s 3) (.s 1),
    .zext .w32 (.s 3) (.s 1), .cmp .lt 3 (.s 1) (.s 2), .cmpi .geu 0 (.s 1) 7, .test true 1 (.s 1) (.imm 8),
    .test false 1 (.s 1) (.reg (.s 2))]
theorem test_hyp_scalarUnary : unaries.all (fun i => Instr.wf false i && starts i small) = true := by decide +kernel

/-- `base` with a stage queue 1 of stage 0 that holds 9. -/
def queued : State :=
  let e : QEntry := { tag := 0, val := 9, eos := false, ready := 0 }
  let q : StageQ := { depth := 4, sender := none, prod := 0, cons := 0, entries := [e] }
  (sregs [(1, 7)] (on fun c => { c with stage := some { rep := false, input := some 1, output := some 1 } })).modCore 0
    fun k => { k with queues := k.queues.put 1 q }
theorem test_hyp_scalarQueues : queued.me.phase = 0 ∧ queued.me.view = none ∧ queued.me.popped = [] ∧
    queued.me.stage.all (fun g => !g.rep) = true ∧ queued.me.regSt (.s 2) = .dead ∧ queued.me.popIx = 0 ∧
    ((queued.core queued.me.coreNo).queues.find 1).any (fun q => queued.me.ofStage q q.cons && q.sender.isNone &&
      queued.me.ofStage q q.prod && decide ((queued.me.pushes.getD 1 0 - q.expect).toNat < q.depth) &&
      (q.entries.find? (fun e => e.tag == q.expect && decide (e.ready ≤ queued.cycle))).any fun e => !e.eos) = true ∧
    queued.me.regSt (.s 1) = .full := by decide +kernel

/-- s1 dead, s2 reserved, s3 deposited, s4 broken. -/
def states : State :=
  on fun c => ((c.setRegSt (.s 2) (.reserved .wave 9)).setRegSt (.s 3) (.prot .wave none)).setRegSt (.s 4) .broken
theorem test_hyp_registerFaults : states.me.phase = 0 ∧ states.me.view = none ∧ states.me.popped = [] ∧
    states.me.regSt (.s 1) = .dead ∧ states.me.regSt (.s 2) = .reserved .wave 9 ∧ states.me.regSt (.s 3) = .prot .wave none ∧
    states.me.regSt (.s 4) = .broken := by decide +kernel

/-- `small` with a second line, at 0x10040, whose slots 0 and 2 carry TGT bits. -/
def targets : State :=
  let l : Line := setBits (setBits 0 507 (1 : BitVec 1)) 509 (1 : BitVec 1)
  small.writeLine 0x10040 (setBits l 480 (LineWord.parity l))
theorem test_hyp_branches :
    (pcShape (branchTarget targets.me.pc ⟨1, 2⟩) = true ∧ targets.maps .fetch (branchTarget targets.me.pc ⟨1, 2⟩) fetchTlb = true ∧
      tgtBit (homeLine targets fetchTlb.e (fetchTlb.pa (branchTarget targets.me.pc ⟨1, 2⟩)))
        (bits (branchTarget targets.me.pc ⟨1, 2⟩) 0 3).toNat = true) ∧
    targets.me.seen.flags.holds .f = true ∧ targets.me.seen.flags.holds .t = false ∧ starts (.jmp (.s 4)) targets = true ∧
    (pcShape ((targets.val (.s 4)).setWidth 56) = true ∧ targets.maps .fetch ((targets.val (.s 4)).setWidth 56) fetchTlb = true ∧
      tgtBit (homeLine targets fetchTlb.e (fetchTlb.pa ((targets.val (.s 4)).setWidth 56)))
        (bits ((targets.val (.s 4)).setWidth 56 : Pc) 0 3).toNat = true) := by decide +kernel
theorem test_hyp_branchRefused : pcShape (branchTarget targets.me.pc ⟨1, 5⟩) = false ∧
    targets.maps .fetch (branchTarget targets.me.pc ⟨1, 1⟩) fetchTlb = true ∧
    tgtBit (homeLine targets fetchTlb.e (fetchTlb.pa (branchTarget targets.me.pc ⟨1, 1⟩)))
      (bits (branchTarget targets.me.pc ⟨1, 1⟩) 0 3).toNat = false ∧ targets.me.seen.flags.holds .f = true ∧
    starts (.jmp (.s 4)) (sregs [(4, 0x10045)] targets) = true ∧ starts (.call (.direct ⟨1, 5⟩) 6) targets = true ∧
    starts (.ret (.s 4)) (sregs [(4, 0x10048)] targets) = true ∧
    pcShape (((sregs [(4, 0x10048)] targets).val (.s 4)).setWidth 56) = false := by decide +kernel
theorem test_hyp_callReturn : starts (.call (.direct ⟨1, 2⟩) 5) targets = true ∧
    starts (.call (.indirect (.s 4)) 4) targets = true ∧ starts (.ret (.s 4)) targets = true ∧
    pcShape ((targets.val (.s 4)).setWidth 56) = true := by decide +kernel
theorem test_hyp_loopStart : starts (.loop true (.s 1) ⟨0, 3⟩) small = true ∧ small.val (.s 1) ≠ 0 ∧
    starts (.loop false (.s 0) ⟨0, 3⟩) small = true ∧ small.val (.s 0) = 0 := by decide +kernel

/-- A context at the end of both loop levels, with these counts. -/
def loopEnd (n1 n0 : Word) (q : Option (BitVec 2)) : Ctx :=
  { loop1 := { count := n1, start := 0x40, stop := 3, active := true, queue := q }
    loop0 := { count := n0, start := 0x80, stop := 3, active := true }, head := 3, npc := 4 }
theorem test_hyp_backEdge : (loopEnd 5 1 none).xfer = false ∧ (loopEnd 5 1 none).loop1.active = true ∧
    (loopEnd 5 1 none).loop1.stop = (loopEnd 5 1 none).head ∧ (loopEnd 5 1 none).loop1.count ≠ 1 ∧
    (loopEnd 5 1 (some 2)).loop1.queue = some 2 ∧ (loopEnd 1 6 none).loop1.count = 1 ∧ (loopEnd 1 6 none).loop0.count ≠ 1 ∧
    (loopEnd 1 6 none).loop0.active = true ∧ (loopEnd 1 6 none).loop0.stop = 3 ∧
    ({} : Ctx).loop1.active = false ∧ ({} : Ctx).loop0.active = false ∧ ({ xfer := true } : Ctx).xfer = true := by decide +kernel

/-- Parked in ALIGN or SLEEP, with the wait over. -/
def waitOver (i : Instr) : State :=
  on fun c => { c with instr := some i, run := .parked, phase := 1, until_ := some 0, expired := true }
theorem test_hyp_spacing : (waitOver (.align 3)).me.phase = 1 ∧ (waitOver (.align 3)).me.expired = true ∧
    small.me.phase = 0 ∧ (∀ p ∈ small.ctxs, p.1 ≠ small.cur → p.2.group = none) ∧ small.me.remain = 0 ∧
    (waitOver (.sleep 3)).me.phase = 1 ∧ (waitOver (.sleep 3)).me.expired = true ∧
    ((waitOver (.sleep 3)).ctx 1).instr = some (.sleep 3) ∧ ((waitOver (.sleep 3)).ctx 1).until_ = some 0 ∧
    ((waitOver (.align 3)).ctx 1).instr = some (.align 3) ∧ ((waitOver (.align 3)).ctx 1).until_ = some 0 ∧
    0 ≤ (waitOver (.sleep 3)).cycle := by decide +kernel

/-- `small` in privileged mode. -/
def privileged : State := small.modMe fun c => { c with priv := true }
theorem test_hyp_controlReads : Instr.wf false (.mfc (.s 3) .stq) = true ∧ starts (.mfc (.s 3) .stq) small = true ∧
    CReg.access .stq = .ro ∧ Instr.wf false (.mfc (.s 0) .flags) = true ∧ starts (.mfc (.s 0) .flags) small = true ∧
    CReg.access .flags = .rw ∧ starts (.mfc (.s 3) .wstep) small = true ∧ streamActive small small.me.coreNo = false := by
  decide +kernel
theorem test_hyp_controlWrites :
    [CReg.thnd, .tcause, .tpc, .taddr, .tinfo, .cvmt, .cvma, .cvmr, .waitlim, .srk, .pc, .orient].all
      (fun r => starts (.mtc r (.s 1)) small) = true ∧ starts (.flagsWrite (.s 1)) small = true ∧
    starts (.loopCounterWrite true (.s 0)) small = true := by decide +kernel
/-- Values for a region register: rows 0 to 15, private, of CXID 1; and kind 3. -/
def regionVals : State := sregs [(5, 0x00001400000F0000), (6, 0x00001C00000F0000)] privileged
theorem test_hyp_privilegedWrites : privileged.me.priv = true ∧
    [CReg.qcap, .tlim, .sptb, .astb, .crtb, .lqbase, .lqasid].all (fun r => starts (.mtc r (.s 1)) privileged) = true ∧
    starts (.regionWrite 2 (.s 6)) regionVals = true ∧ bits (regionVals.val (.s 6)) 42 2 = 3 ∧
    starts (.regionWrite 2 (.s 1)) regionVals = true ∧ bits (regionVals.val (.s 1)) 42 2 ≠ 3 ∧
    (bits (regionVals.val (.s 1)) 0 12).toNat + (bits (regionVals.val (.s 1)) 16 12).toNat ≤ 2047 ∧
    (CReg.lse 3).isLinkStatus = true ∧ starts (.linkStatusClear (.lse 3) (.s 1)) privileged = true ∧
    starts (.alarmWrite (.s 1)) privileged = true ∧ starts (.holdtr (.s 1)) privileged = true := by decide +kernel

/-- A deposit from CXID 7 for s3 waits at the core. -/
def depositWaits : State :=
  small.modCore 0 fun k =>
    { k with deposits := [{ cx := 1, source := 7, ord := 0, reg := .s 3, val := 99, pc := 0, thread := 0, sender := 7 }] }
theorem test_hyp_reservations : (Spec.s 3).isDeposit = true ∧ starts (.rsv (.s 3) (.s 1)) small = true ∧
    small.me.view = none ∧ bits (small.val (.s 1)) 28 36 = 0 ∧ small.me.regSt (.s 3) = .dead ∧
    (∀ p ∈ (small.core small.me.coreNo).deposits, p.cx ≠ small.cur) ∧
    starts (.rsv (.s 3) (.s 1)) depositWaits = true ∧
    ((depositWaits.core 0).deposits.find? (fun p => p.cx == 1 && p.source == 7 && p.ord == 0)).isSome = true ∧
    bits ((sregs [(1, 0x10000000)] small).val (.s 1)) 28 36 ≠ 0 ∧
    (∀ r ∈ DeadMask.regs (.sv 1 6), small.me.regSt r = .full ∨ small.me.regSt r = .dead) := by decide +kernel
theorem test_hyp_trapReturn : starts (.trap (.s 1) 5) small = true ∧ pcShape small.me.ctl.tpc = true ∧
    pcShape (on fun c => { c with ctl := { c.ctl with tpc := 5 } }).me.ctl.tpc = false := by decide +kernel
/-- A mark of another context, and one of this context on path 3. -/
def marked : State := { small with marks := [⟨.line 0, 1, true, 2, 5⟩, ⟨.line 64, 3, true, 1, 6⟩] }
theorem test_hyp_fence : marked.marks.all (fun m => !(m.cx == marked.cur && decide (m.path < 5) &&
    ((7 : BitVec 5).getLsbD m.path && (List.range 5).any fun p => p != m.path && (8 : BitVec 5).getLsbD p))) = true := by
  decide +kernel
/-- `targets` with a handler at 0x10042, and one inside its handler. -/
def handled : State := targets.modMe fun c => { c with ctl := { c.ctl with thnd := 0x10042 } }
theorem test_hyp_takeException : handlerClass { code := 0x14 } = true ∧ handled.me.ctl.thnd ≠ 0 ∧ handled.me.ctl.tcause = 0 ∧
    checkTarget handled handled.me.priv (peek handled handled.me.coreNo handled.me.asid handled.me.ctl.thnd)
      handled.me.ctl.thnd = .ok ∧ handlerClass { code := 0x05 } = false ∧ small.me.ctl.thnd = 0 := by decide +kernel

/-! ### Pages, lines and regions -/

/-- A leaf entry of a user page (R115): join type, width code, format, tile geometry, FROZENPAGE, page number, owner. -/
def leafE (jt ew fmt tg frozen page owner : Nat) : Entry :=
  BitVec.ofNat 128 (3 + jt * 2 ^ 3 + ew * 2 ^ 7 + fmt * 2 ^ 9 + tg * 2 ^ 13 + frozen * 2 ^ 17 + 2 ^ 20 + 2 ^ 24
    + page * 2 ^ 28 + 0x800 * 2 ^ 64 + owner * 2 ^ 108)
def tlbOf (n : Nat) (e : Entry) : Tlb := { asid := 0, base := BitVec.ofNat 56 (n * 65536), size := 16, e }
/-- The TLB of core 0 maps page `n`. -/
def withPage (n : Nat) (e : Entry) (s : State) : State := s.modCore 0 fun c => { c with tlb := tlbOf n e :: c.tlb }
/-- The L1 of core 0 holds a line of CXID 1. -/
def withL1 (va : Nat) (l : Line) (s : State) : State :=
  s.modCore 0 fun c => { c with l1 := c.l1 ++ [{ va := BitVec.ofNat 56 va, asid := 0, cxid := 1, own := true, pa := va, data := l }] }
/-- Region register `g` of core 0: CXID 1, kind, first row, rows. -/
def withRegion (g : Nat) (kind : BitVec 2) (first rows : Nat) (s : State) : State :=
  s.modCore 0 fun c => { c with regions := c.regions.put g { cxid := 1, kind, rowsM1 := BitVec.ofNat 12 (rows - 1), base := BitVec.ofNat 12 first } }
/-- Page tables of die 0 for address space 0, with these leaves (R113, R375). -/
def withTables (pages : List (Nat × Entry)) (s : State) : State :=
  let t (k : Nat) : Nat := 1 + k * 2 ^ 26
  let s := s.modDie 0 fun d => { d with astb := 0xF0000 }
  let s := s.writeNat 0xF0000 8 (t 64)
  let s := (s.writeNat 0x100000 16 (t 65)).writeNat 0x104000 16 (t 66)
  let s := s.writeNat 0x108000 16 (t 67)
  pages.foldl (fun s p => s.writeNat (0x10C000 + 16 * p.1) 16 p.2.toNat) s

/-- A private INT32 page of CXID 1 at 0x20000, its first three lines in the L1; s1 its address, v2 lanes of 5. -/
def paged : State :=
  vregs [(2, Row.splat 5)] (withL1 0x20080 3 (withL1 0x20040 2 (withL1 0x20000 0xFFFFFFFF00000001
    (withPage 2 (leafE 0 2 3 0 0 2 1) (sregs [(1, 0x20000), (2, 9)] base)))))
def paged2 : Tlb := tlbOf 2 (leafE 0 2 3 0 0 2 1)

/-- Parked in an instruction that has its data: these lines; `held` is what the instruction keeps. -/
def withData (i : Instr) (held : List Word) (lines : Map Line) (s : State) : State :=
  s.modMe fun c => { c with instr := some i, run := .parked, phase := 1, held, lineBuf := lines }
def line0 : Line := 0xFFFFFFFF00000001
theorem test_hyp_scalarLoad : let i (x : BitVec 48) : Instr := .ld .w32 true (.s 3) (.s 1) x
    let loaded := withData (i 4) [] [(0x20000, line0)] paged
    Instr.wf false (i 4) = true ∧ paged.maps .load 0x20004 paged2 = true ∧ effAddr (paged.val (.s 1)) (4 : BitVec 48) = 0x20004 ∧
    starts (i 4) paged = true ∧ Claims.lineOpen paged .load paged2 0x20004 false ∧ Claims.cached paged 0x20004 = some line0 ∧
    starts (i 0x100) paged = true ∧ Claims.lineOpen paged .load paged2 0x20100 false ∧ Claims.cached paged 0x20100 = none ∧
    runs (i 4) loaded = true ∧ Claims.hasData loaded ∧ loaded.me.lineBuf.find (lineVa 0x20004).toNat = some line0 := by
  unfold Claims.lineOpen Claims.hasData; decide +kernel
theorem test_hyp_loadFaults : let i : Instr := .ld .w32 true (.s 3) (.s 1) 0
    let st (e : Entry) : State := withPage 2 e (sregs [(1, 0x20000)] base)
    starts i paged = true ∧ paged.me.ctl.thnd = 0 ∧ paged.me.pages = [] ∧
    tlbFind ((st (leafE 0 2 3 0 0 2 1 - 2 ^ 20)).core 0).tlb 0 0x20000 = some (tlbOf 2 (leafE 0 2 3 0 0 2 1 - 2 ^ 20)) ∧
    permitted base.me.priv .load (leafE 0 2 3 0 0 2 1 - 2 ^ 20) = false ∧
    paged.maps .load (effAddr (paged.val (.s 1)) (1 : BitVec 48)) paged2 = true ∧ (effAddr (paged.val (.s 1)) (1 : BitVec 48)).toNat % 4 ≠ 0 ∧
    (st (leafE 0 2 3 0 0 2 5)).maps .load 0x20000 (tlbOf 2 (leafE 0 2 3 0 0 2 5)) = true ∧
    pageKind (leafE 0 2 3 0 0 2 5) 1 (ownerLive paged 5) = .privQuit ∧
    (st (leafE 12 2 3 0 0 2 1)).maps .load 0x20000 (tlbOf 2 (leafE 12 2 3 0 0 2 1)) = true ∧
    Leaf.jt (leafE 12 2 3 0 0 2 1) = .bpriv := by decide +kernel
def ldvO : LvOp := ⟨.i32, false, .rne, 2, .s 1, .s 0, 0⟩
/-- A line may be read, or written, at once (Claims.lineOpen). -/
def openAt (s : State) (acc : PageAcc) (t : Tlb) (write : Bool) (l : Pc) : Bool :=
  s.pageLets acc t && s.plain t l && !markBlocks s (.line (t.pa l / 64 * 64)) 0 write
def lines2 : List Pc := [0x20000, 0x20040]
theorem test_hyp_vectorLoad : (laneLines .i32 .int32 32 (BitVec.allOnes 32) 0x20000 = lines2 ∧
    Instr.wf false (.ldv ldvO) = true ∧ paged.maps .load 0x20000 paged2 = true ∧
    Leaf.fmt? paged2.e = some .int32 ∧ Leaf.ew paged2.e = 32 ∧ loadOk .i32 .int32 32 = true ∧
    lines2.all (fun l => paged.maps .load l paged2 && openAt paged .load paged2 false l) = true ∧
    starts (.ldv ldvO) paged = true ∧ starts (.ldv { ldvO with c := .s 3 }) (sregs [(3, 0)] paged) = true ∧
    let loaded := withData (.ldv ldvO) [] [(0x20000, line0), (0x20040, 2)] paged
    runs (.ldv ldvO) loaded = true ∧ loaded.me.phase = 1 ∧ answered loaded = true) ∧
    Claims.agree paged (fun _ => paged2) (0x20000 :: lines2) := ⟨by decide +kernel, fun _ _ _ _ _ => rfl⟩
theorem test_hyp_scalarStore : let i : Instr := .st .w16 (.s 1) (.s 2) 6
    let loaded (held : Word) := withData i [held] [(0x20000, line0)] paged
    Instr.wf false i = true ∧ starts i paged = true ∧ paged.maps .store 0x20006 paged2 = true ∧
    effAddr (paged.val (.s 1)) (6 : BitVec 48) = 0x20006 ∧ Claims.lineOpen paged .store paged2 0x20006 true ∧
    l1Share 0 (paged.core 0) ≠ 0 ∧ l1Share 0 ((withRegion 0 1 0 2048 paged).core 0) = 0 ∧
    runs i (loaded 0) = true ∧ Claims.hasData (loaded 0) ∧ (Claims.lineHad (loaded 0) 0x20006).isSome = true ∧
    (paged.core 0).l1.length < l1Share 0 (paged.core 0) ∧ runs i (loaded 1) = true ∧ Claims.hasData (loaded 1) := by
  unfold Claims.lineOpen Claims.hasData; decide +kernel
theorem test_hyp_vectorStore : (Instr.wf false (.stv ldvO) = true ∧ starts (.stv ldvO) paged = true ∧
    paged.maps .store 0x20000 paged2 = true ∧ storeOk .i32 .int32 32 = true ∧
    lines2.all (fun l => paged.maps .store l paged2 && openAt paged .store paged2 true l) = true ∧
    starts (.stv { ldvO with c := .s 3 }) (sregs [(3, 0)] paged) = true ∧
    let loaded := withData (.stv ldvO) [0] [] paged
    runs (.stv ldvO) loaded = true ∧ loaded.me.phase = 1 ∧ answered loaded = true ∧
    lines2.all (fun l => (Claims.lineHad loaded l).isSome) = true ∧
    (paged.core 0).l1.length + lines2.length < l1Share 0 (paged.core 0)) ∧
    Claims.agree paged (fun _ => paged2) (0x20000 :: lines2) := ⟨by decide +kernel, fun _ _ _ _ _ => rfl⟩

/-- Rows 0 to 15 private (region 0), rows 16 to 31 shared (region 1), row 17 full, of writer 0x77. -/
def pads : State :=
  (withRegion 1 2 16 16 (withRegion 0 1 0 16 (sregs [(1, 256), (2, 9), (3, 17 * 128)] base))).modCore 0 fun c =>
    (c.setRow 2 (Row.splat 6)).setFill 17 { full := true, bound := some 0x77 }
theorem test_hyp_scratchpad :
    Instr.wf true (.spld .w32 true (.s 4) (.s 1) 4) = true ∧ starts (.spld .w32 true (.s 4) (.s 1) 4) pads = true ∧
    (pads.padRegion 260 4 4).any (fun g => pads.padFull g 260 4 && !g.shared) = true ∧ pads.padOpen 0 260 4 false = true ∧
    starts (.spst .w32 (.s 1) (.s 2) 4) pads = true ∧ pads.padOpen 0 260 4 true = true ∧
    starts (.drain true (.s 3) 0) pads = true ∧
    ((pads.core 0).regionOf 17).any (fun g => g.shared && g.cxid == pads.me.cxid) = true ∧
    pads.padOpen 0 (17 * 128) 1 true = true ∧ ((pads.core 0).fillOf 17).full = true := by decide +kernel
theorem test_hyp_fillRules : let c := pads.core 0
    (c.fillOf 16).full = false ∧ (c.fillOf 16).bound = none ∧ (c.fillOf 17).bound = some 0x77 ∧ (c.fillOf 17).full = true ∧
    ((c.setFill 17 { full := false, bound := some 0x77 }).fillOf 17).full = false := by decide +kernel

/-- A packet that has reached the home slice of cluster 0. -/
def atHome0 (k : PKind) (cx : Nat) (va : Nat) (e : Entry) : Packet :=
  { kind := k, op := 8, cx, dst := 4096, va := BitVec.ofNat 56 va, pa := va, e, node := 0, arrived := true }
def asked : State :=
  ({ paged with net := [(3, atHome0 .lineReq 1 0x20000 (leafE 0 2 3 0 0 2 1))] }).modMe fun c =>
    { c with opens := [(8, { kind := .other, pc := 0, counted := true })], waits := [8] }
def respond : State :=
  { asked with net := [(3, { atHome0 .lineResp 1 0x20000 0 with dst := 0, data := List.replicate 64 7 })] }
/-- A walk for page 3 that context 1 waits for. -/
def walking : State :=
  (withTables [(3, leafE 2 2 3 0 0 3 0)] base).modDie 0 fun d =>
    { d with walks := [{ id := 4, asid := 0, va := 0x30000, leaf := 0x30000, cxs := [(1, 0x30000)] }] }
theorem test_hyp_lineEvents : let p := atHome0 .lineReq 1 0x20000 (leafE 0 2 3 0 0 2 1)
    asked.net.find 3 = some p ∧ p.arrived = true ∧ p.flag = false ∧ p.cx ≠ nobody ∧
    firstLasting asked (lineUnits asked (p.dst - 4096) p.pa (Leaf.const p.e)) = none ∧
    anyFenced asked (lineUnits asked (p.dst - 4096) p.pa (Leaf.const p.e)) = false ∧
    markBlocks asked (.line p.pa) p.ord false = false ∧ heldBehind asked (.line p.pa) p.ord p.cx p.op false = false ∧
    lineSpoilt asked p.pa = false ∧ Leaf.const p.e = false ∧
    flowBlocked asked 3 p = false ∧
    (respond.net.find 3).any (fun q => q.arrived && !q.flag && q.faults.isEmpty && ((respond.ctx q.cx).opens.find q.op).isSome &&
      (respond.ctx q.cx).waits.contains q.op) = true ∧
    (walking.die 0).walks.map (fun w => (w.id, w.cxs)) = [(4, [(1, 0x30000)])] ∧ (∀ d ∈ [1, 2, 3], (walking.die d).walks = []) ∧
    walkWith walking [] 0 0 0x30000 = .found { tlbOf 3 (leafE 2 2 3 0 0 3 0) with at_ := 0x10C030 } := by decide +kernel

/-! ### Joins -/

/-- Lattice pages: MAXU, 32 bits at 3; FILL, 64 bits at 4; CNT at 5; FILLT tiles of 64 INT8 at 6; frozen MAXU at 7. -/
def lattices : State :=
  withPage 7 (leafE 2 2 3 0 1 7 0) (withPage 6 (leafE 8 0 1 1 0 6 0) (withPage 5 (leafE 9 3 4 0 0 5 0)
    (withPage 4 (leafE 7 3 4 0 0 4 0) (withPage 3 (leafE 2 2 3 0 0 3 0)
      (vregs [(1, Row.splat 4)] (sregs [(1, 0x30000), (2, 9), (3, 0x50000), (4, 3), (5, 0x60000), (6, 0), (7, 0x40000), (8, 0x70000)] pads))))))
theorem test_hyp_joinSend :
    Instr.wf false (.jst .maxu false (.s 1) (.s 2) 4) = true ∧ starts (.jst .maxu false (.s 1) (.s 2) 4) lattices = true ∧
    lattices.maps .join 0x30004 (tlbOf 3 (leafE 2 2 3 0 0 3 0)) = true ∧ settledStores lattices = true ∧
    Instr.wf false (.jst .fill false (.s 7) (.s 2) 8) = true ∧ starts (.jst .fill false (.s 7) (.s 2) 8) lattices = true ∧
    Instr.wf false (.bump false false (.s 3) (.s 4) 8) = true ∧ starts (.bump false false (.s 3) (.s 4) 8) lattices = true ∧
    lattices.maps .join 0x50008 (tlbOf 5 (leafE 9 3 4 0 0 5 0)) = true ∧
    Instr.wf false (.jstv .maxu false (.s 1) 1 (.s 2) 0) = true ∧ starts (.jstv .maxu false (.s 1) 1 (.s 2) 0) lattices = true ∧
    lattices.maps .join 0x30000 (tlbOf 3 (leafE 2 2 3 0 0 3 0)) = true ∧
    Instr.wf false (.tfill false (.s 5) (.s 6) .t8 .int8) = true ∧
    starts (.tfill false (.s 5) (.s 6) .t8 .int8) lattices = true ∧
    lattices.maps .join 0x60000 (tlbOf 6 (leafE 8 0 1 1 0 6 0)) = true ∧ tileBytes .int8 8 (tgElems (TG.code' .t8)) = 64 ∧
    (lattices.padRegion 0 64 1).any (fun g => lattices.padFull g 0 64) = true ∧ lattices.padOpen 1 0 64 false = true := by
  decide +kernel

/-- Parked in an instruction in a phase, with its one operation answered. -/
def answeredBy (i : Instr) (n : Nat) (a : Ans) (s : State) : State :=
  s.modMe fun c => { c with instr := some i, run := .parked, phase := n, waits := [8], answers := [(8, a)] }
theorem test_hyp_joinWait : let s := answeredBy (.jst .maxu true (.s 1) (.s 2) 4) 1 {} lattices
    s.me.phase = 1 ∧ answered s = true ∧ Instr.wf false (.jst .maxu true (.s 1) (.s 2) 4) = true ∧
    Instr.wf false (.jstv .maxu true (.s 1) 1 (.s 2) 4) = true ∧ Instr.wf false (.bump false true (.s 1) (.s 2) 4) = true ∧
    Instr.wf false (.tfill true (.s 1) (.s 2) .t8 .int8) = true := by decide +kernel
theorem test_hyp_exactReads : let s := answeredBy (.xrd true (.s 10) (.s 1) 4) 1 { words := [0x80], flag := true } lattices
    let h (n : Word) : State := s.modMe fun c => { c with held := [n] }
    s.me.phase = 1 ∧ answered s = true ∧ s.me.expired = false ∧
    Instr.wf false (.trd false (.vals 2 0) (.s 10) (.s 1) 4) = true ∧ runs (.trd false (.vals 2 0) (.s 10) (.s 1) 4) s = true ∧
    Instr.wf false (.xrd true (.s 10) (.s 1) 4) = true ∧ runs (.xrd true (.s 10) (.s 1) 4) (h 8) = true ∧
    Instr.wf false (.xrdv ⟨.i32, false, .rne, 2, .s 1, .s 0, 0⟩) = true ∧
    runs (.xrdv ⟨.i32, false, .rne, 2, .s 1, .s 0, 0⟩) s = true ∧ ((s.answer 0).words.drop 1).all (· == 0) = true ∧
    Instr.wf false (.xrdt .raw false (.s 6) (.s 5) .rne) = true ∧ runs (.xrdt .raw false (.s 6) (.s 5) .rne) (h 64) = true ∧
    (h 64).padOpen 1 0 64 true = true := by decide +kernel
theorem test_hyp_thresholdRequest : let i : Instr := .trd false (.vals 2 0) (.s 10) (.s 1) 4
    let t := tlbOf 3 (leafE 2 2 3 0 0 3 0)
    let i2 : Instr := .trd false (.vals 2 1) (.s 10) (.s 1) 4
    let s2 := sregs [(3, 9)] lattices
    Instr.wf false i = true ∧ starts i lattices = true ∧ lattices.maps .wait 0x30004 t = true ∧ lattices.pageLets .trd t = true ∧
    triggersValid (Loc.ofTlb t 0x30004) (some [9]) = true ∧ Instr.wf false i2 = true ∧ starts i2 s2 = true ∧
    triggersValid (Loc.ofTlb t 0x30004) (some [9, 9]) = false := by decide +kernel

/-- Tables for page 2, which s1 names, and its size in s2. -/
def handing : State :=
  sregs [(2, 65536), (9, 0), (10, 5)] (withTables [(2, leafE 0 2 3 0 0 2 1)] paged)
theorem test_hyp_freezeHandOff : let s := answeredBy (.fix (.s 1) 0) 2 {} lattices
    Instr.wf false (.fix (.s 1) 0) = true ∧ s.me.phase = 2 ∧ answered s = true ∧
    starts (.fix (.s 8) 0) lattices = true ∧ lattices.me.waits = [] ∧
    lattices.maps .freeze 0x70000 (tlbOf 7 (leafE 2 2 3 0 1 7 0)) = true ∧
    pageKind (leafE 2 2 3 0 1 7 0) 1 false = .frozenLattice ∧ settledStores lattices = true ∧
    Instr.wf false (.fixr (.s 1) (.s 2)) = true ∧ runs (.fixr (.s 1) (.s 2)) s = true ∧
    starts (.fixr (.s 1) (.s 9)) handing = true ∧ handing.val (.s 9) = 0 ∧ Instr.wf false (.pub (.s 1) (.s 9)) = true ∧
    starts (.pub (.s 1) (.s 9)) handing = true ∧ Instr.wf false (.xfer (.s 1) (.s 9) (.s 10)) = true ∧
    starts (.xfer (.s 1) (.s 2) (.s 10)) handing = true ∧ handing.maps .handoff 0x20000 paged2 = true ∧
    handing.pageLets .pub paged2 = true ∧ handing.pageLets .xfer paged2 = true ∧ (handing.val (.s 2)).toNat = 2 ^ 16 ∧
    handing.me.unf = 0 ∧ settledStores handing = true ∧ (handing.val (.s 10)).toNat ≤ 0xFFFFE := by decide +kernel
/-- Path 1 has marked lines of page 2. -/
def unfenced : State := handing.modMe fun c => { c with unf := 2, env := [(1, (0x20000, 0x20040))] }
theorem test_hyp_handOffRefused : Instr.wf false (.pub (.s 1) (.s 2)) = true ∧ starts (.pub (.s 1) (.s 2)) unfenced = true ∧
    (unfenced.val (.s 2)).toNat ≠ 0 ∧ bitAt unfenced.me.unf 1 = true ∧ bitAt unfenced.me.unf 0 = false ∧
    unfenced.me.env.find 1 = some (0x20000, 0x20040) := by decide +kernel

/-- The locations of the tests of homes. -/
def maxLoc : Loc := Loc.ofTlb (tlbOf 3 (leafE 2 2 3 0 0 3 0)) 0x30004
def fillLoc : Loc := Loc.ofTlb (tlbOf 4 (leafE 7 3 4 0 0 4 0)) 0x40008
def cntLoc : Loc := Loc.ofTlb (tlbOf 5 (leafE 9 3 4 0 0 5 0)) 0x50008
def frozenLoc : Loc := Loc.ofTlb (tlbOf 7 (leafE 2 2 3 0 1 7 0)) 0x70008
theorem test_hyp_joinHome : Leaf.jt maxLoc.e = .maxu ∧ Leaf.ew maxLoc.e = 32 ∧ maxLoc.frozen lattices = false ∧
    Leaf.jt fillLoc.e = .fill ∧ Leaf.ew fillLoc.e = 64 ∧ fillLoc.frozen lattices = false ∧ fillLoc.filled lattices = false ∧
    Leaf.jt cntLoc.e = .cnt ∧ Leaf.ew cntLoc.e = 64 ∧ frozenLoc.frozen lattices = true ∧ Leaf.jt frozenLoc.e = .maxu := by
  decide +kernel

/-- A join of 9 into `maxLoc` at its home, a request there, and an answer. -/
def joining : State :=
  { lattices with net := [(3, { atHome0 .join 1 0x30004 (leafE 2 2 3 0 0 3 0) with words := [2, 32, 9, 0, 0] })] }
def waiting : State := { lattices with net := [(3, { atHome0 .threshold 1 0x30004 (leafE 2 2 3 0 0 3 0) with words := [0] })] }
def exact0 : State := { lattices with net := [(3, atHome0 .exact 1 0x70008 (leafE 2 2 3 0 1 7 0))] }
def acked : State :=
  { asked with net := [(3, { kind := .answer, op := 8, cx := 1, dst := 0, arrived := true })] }
def trdParked : State :=
  on fun c =>
    { c with
      instr := some (.trd true (.vals 2 0) (.s 10) (.s 1) 4), run := .parked, phase := 1, waits := [8], until_ := some 0
      opens := [(8, { kind := .other, pc := 0, counted := false })] }
def tiling (k : PKind) : State :=
  { pads with net := [(3, { kind := k, cx := 1, words := [0, 0, 0, 0, 0, 0, 0, 64], data := List.replicate 64 1 })] }
theorem test_hyp_joinEvents :
    (joining.net.find 3).any (fun p => p.arrived && !flowBlocked joining 3 p && !p.flag && marksFree joining p.loc true &&
      (firstLasting joining (lineUnits joining 0 p.pa false)).isNone && !anyFenced joining (lineUnits joining 0 p.pa false) &&
      !lineSpoilt joining p.pa && (match applyJoin p.loc .maxu 32 0 0 9 [] p.thread joining with | .ok _ => true | _ => false)) =
      true ∧ joining.waiters = [] ∧ JT.ofCode 2 = some .maxu ∧
    (waiting.net.find 3).any (fun p => p.arrived && !flowBlocked waiting 3 p && marksFree waiting p.loc false &&
      decide (trdNow waiting p.loc p.triggers = .idx 0) && !p.loc.frozen waiting &&
      p.loc.unitLines.all fun l => !markBlocks waiting (.line (Leaf.place p.loc.e (l * 64))) 1 true) = true ∧
    (exact0.net.find 3).any (fun p => p.loc.frozen exact0 && (exactValue (pullLine p.pa { exact0 with net := [] }) p.loc).isSome) =
      true ∧
    ((acked.ctx 1).opens.find 8).any (·.counted) = true ∧ (acked.net.find 3).any (fun p => p.arrived && p.faults.isEmpty) = true ∧
    (trdParked.ctx 1).until_ = some 0 ∧ (trdParked.ctx 1).waits.any (fun w => ((trdParked.ctx 1).opens.find w).isSome) = true ∧
    rowsHeld (tiling .tdec) 0 1 1 3 (rowsOf 0 64) false = false ∧
    rowsHeld (tiling .tdec) 0 1 1 3 (rowsOf 0 64) true = false := by decide +kernel

/-! ### The vector unit and the matrix engine -/

/-- `pads` with v1 and v2, a lane mask in s5 and an index base in s6. -/
def vecs : State :=
  vregs [(1, Row.ofLanes fun l => BitVec.ofNat 32 (3 * l)), (2, Row.splat 0xFFFFFFFE)]
    (sregs [(5, 0xF), (6, 40), (8, 384)] pads)
def vO : VArith := ⟨.i32, true, .rne, .sp 8, .v 1, .spi 1, .s 5⟩
def vF : VArith := ⟨.f32, false, .rne, .v 3, .v 1, .s 2, .s 0⟩
def vB : VBin := ⟨.u32, .v 3, .v 1, .sp 1, .s 5⟩
def vU : VUn := ⟨.i16x2, true, .v 3, .v 2, .s 0⟩
/-- Operands of VecArith and the like: what is read and written there. -/
def opds (d a b : Spec) : List VOpd :=
  [{ r := d, rd := false, wr := true }, { r := a, rd := true, wr := false }, { r := b, rd := true, wr := false }]
theorem test_hyp_vectorArith :
    [Instr.vadd vO, .vsub vO, .vmul vO, .vadd vF, .vmul vF].all (fun i => Instr.wf true i && starts i vecs) = true ∧
    vecs.rowsReady (vecs.mask (.s 5)) (opds (.sp 8) (.v 1) (.spi 1)) = true ∧
    vecs.rowsReady (vecs.mask (.s 0)) (opds (.v 3) (.v 1) (.s 2)) = true ∧
    [Instr.vfma vO, .vfms vO].all (fun i => Instr.wf true i && starts i vecs) = true ∧
    vecs.rowsReady (vecs.mask (.s 5))
      [{ r := .sp 8, rd := true, wr := true }, { r := .v 1, rd := true, wr := false }, { r := .spi 1, rd := true, wr := false }] =
        true := by decide +kernel
theorem test_hyp_vectorElements : (5 < 2 ^ LaneT.i8x4.w) ∧ LaneT.i8x4.isFloat = false ∧ LaneT.bf16x2.isFloat = true ∧
    (LaneT.bf16x2.num.value 0x7FC0).isNan = true ∧ (LaneT.bf16x2.num.value 0x3F80).isNan = false := by decide +kernel
theorem test_hyp_vectorLogic :
    [Instr.vmin vB, .vmax vB, .vand vB, .vor vB, .vxor vB, .vshl vB, .vshr vB, .vabs vU, .vneg vU].all
      (fun i => Instr.wf true i && starts i vecs) = true ∧
    vecs.rowsReady (vecs.mask (.s 5)) (opds (.v 3) (.v 1) (.sp 1)) = true ∧
    vecs.rowsReady (vecs.mask (.s 0)) [{ r := .v 3, rd := false, wr := true }, { r := .v 2, rd := true, wr := false }] = true := by
  decide +kernel
/-- The register forms of VectorMoves. -/
def moves : List Instr :=
  [.vsel ⟨.i32, .v 3, .v 1, .v 2, .s 5⟩, .vperm ⟨.i32, .v 3, .v 1, .v 2, .s 0⟩, .vbcast .u32 (.v 3) (.v 1) (.s 0) 7,
    .vbcast .u32 (.v 3) (.s 2) (.s 5) 0, .vscan .i32 true .add (.v 3) (.v 1) (.s 5), .vcvt .i32 0 ⟨.f32, false, .sr, .v 3, .v 1, .s 6, .s 0⟩,
    .vcvt .f32 1 ⟨.bf16x2, false, .rne, .v 3, .v 1, .s 0, .s 5⟩, .vcrand true ⟨.f32, .v 3, .s 6, .s 2, .s 0⟩,
    .vcmp .lt ⟨.i32, .s 4, .v 1, .v 2, .s 5⟩, .vred .i32 .max (.s 4) (.v 1) (.s 5), .vext .i16x2 (.s 4) (.v 2) 63]
theorem test_hyp_vectorMoves : moves.all (fun i => Instr.wf true i && starts i vecs) = true ∧
    vecs.rowsReady (vecs.mask (.s 5)) (opds (.v 3) (.v 1) (.v 2)) = true ∧
    vecs.rowsReady (BitVec.allOnes 32) [{ r := .v 3, rd := true, wr := true }] = true := by decide +kernel
theorem test_hyp_vectorReduction : ((List.range 32).filter fun l => bitAt (0xF : BitVec 32) l) ≠ [] := by decide +kernel
theorem test_hyp_vectorScratch :
    Instr.wf true (.vld .i32 (.v 3) (.s 1) (.s 5) 128) = true ∧ starts (.vld .i32 (.v 3) (.s 1) (.s 5) 128) vecs = true ∧
    (vecs.padRegion 384 128 128).any (fun g => !g.shared && vecs.padFull g 384 128) = true ∧
    vecs.padOpen 0 384 128 false = true ∧ Instr.wf true (.vst .i32 (.s 1) (.v 1) (.s 5) 128) = true ∧
    starts (.vst .i32 (.s 1) (.v 1) (.s 5) 128) vecs = true ∧ vecs.padOpen 0 384 128 true = true ∧
    (vecs.padRegion 2048 128 128).any (·.shared) = true ∧ starts (.vst .i32 (.s 0) (.v 1) (.s 0) 2048) vecs = true ∧
    vecs.padOpen 0 2048 128 true = true ∧ vecs.mask (.s 0) = BitVec.allOnes 32 ∧
    (match (vecs.core 0).fill 16 0 vecs.me.thread with | .ok _ => true | _ => false) = true ∧
    Instr.wf true (.vgath ⟨.u32, .v 3, .s 1, .v 1, .s 5⟩) = true ∧ starts (.vgath ⟨.u32, .v 3, .s 1, .v 1, .s 5⟩) vecs = true ∧
    (vecs.val (.s 1)).toNat % 4 = 0 ∧ starts (.vscat ⟨.u32, .v 2, .s 1, .v 1, .s 5⟩) vecs = true ∧
    ((List.range 4).all fun l => (vecs.padRegion (256 + 12 * l) 4 4).any (fun g => vecs.padFull g 256 4)
      && vecs.padOpen 0 (256 + 12 * l) 4 true) = true := by decide +kernel
/-- A base just below 2^64: lane 1 of v1 takes the offset past it, where there is no row. -/
def faroff : State := sregs [(6, 0xFFFFFFFFFFFFFFFC), (5, 2)] vecs
theorem test_hyp_vectorScratchOutside : Instr.wf true (.vgath ⟨.u32, .v 3, .s 6, .v 1, .s 5⟩) = true ∧
    starts (.vgath ⟨.u32, .v 3, .s 6, .v 1, .s 5⟩) faroff = true ∧ (faroff.val (.s 6)).toNat % 4 = 0 ∧ faroff.me.ctl.thnd = 0 ∧
    faroff.me.wave = none ∧ bitAt (faroff.mask (.s 5)) 1 = true ∧ bitAt (faroff.mask (.s 5)) 0 = false ∧
    ((faroff.vec .u32 (.v 1)).lane 1).toNat = 3 ∧
    (faroff.core 0).regionOf (((faroff.val (.s 6)).toNat + 4 * 3) / 128) = none := by decide +kernel
def vT : VTr := ⟨.v 3, .v 1, .s 5⟩
def transDone : State :=
  vecs.modMe fun c =>
    { c with instr := some (.vrcp vT), run := .parked, phase := 1, until_ := some 0, expired := true, held := List.replicate 16 1 }
theorem test_hyp_vectorTranscendental :
    [Instr.vrcp vT, .vrsq vT, .vsqrt vT, .vexp2 vT, .vlog2 vT].all (fun i => Instr.wf true i && starts i vecs) = true ∧
    vecs.rowsReady (vecs.mask (.s 5)) [{ r := .v 3, rd := false, wr := true }, { r := .v 1, rd := true, wr := false }] = true ∧
    transDone.me.phase = 1 ∧ transDone.me.expired = true ∧ runs (.vrcp vT) transDone = true ∧
    (transDone.ctx 1).instr = some (.vrcp vT) ∧ (transDone.ctx 1).until_ = some 0 := by decide +kernel

/-- Region 2: rows 100 to 199, private; tiles t0 and t1 of CXID 1 and tile t2 of the wave set; operand offsets in s10 to s13:
A at row 100, B at row 140, scales none; descriptor s12: m = 2, n = 3. -/
def mats : State :=
  let t (w : Bool) (n : BitVec 2) : Tile := { wave := w, cx := 1, name := n, data := 0 }
  (withRegion 2 1 100 100 (sregs [(10, 12800), (11, 17920), (12, 0x30002), (13, 0)] vecs)).modCore 0 fun c =>
    { c with tiles := [t false 0, t false 1, t true 2] }
def mmaO : MmaOp := ⟨.e4e4, 0, .s 10, .s 11, 12, 32, 32, false, false, 0⟩
def mmagO : MmaOp := { mmaO with a := .v 4, d := 1 }
def tioO : TileIo := ⟨.int32, false, 0, .s 10, .s 12, false, 128⟩
theorem test_hyp_matrixTiles : mats.ordinary = true ∧ mats.me.phase = 0 ∧ (mats.core 0).tile false 1 3 = none ∧
    (mats.core 0).tileWait = [] ∧ (mats.core 0).tiles.length < 4 ∧ ((mats.core 0).tile true 1 2).isSome = true ∧
    streamActive mats 0 = false ∧ ((mats.core 0).tile true 1 2).any (fun t => t.cx == mats.cur) = true ∧
    tileBusy (mats.core 0) true 1 2 = false ∧ ((mats.core 0).tile false 1 0).isSome = true ∧ mats.me.wave = none ∧
    (mats.core 0).matrix.queue.length < 8 ∧
    (mats.modMe fun c => { c with wave := some { stream := 0, core := 0 } }).me.wave.isSome = true := by decide +kernel
theorem test_hyp_matrixMultiply : let z := Claims.shapeOf mats false mmaO
    Instr.wf false (.mma mmaO) = true ∧ starts (.mma mmaO) mats = true ∧ z.m = 2 ∧ z.n = 3 ∧ mmaO.pair.scaled = false ∧
    (z.runsA ++ z.runsB ++ z.runsS).all (Claims.runFits mats false) = true ∧ Claims.engineFree mats = true ∧
    Claims.rowsFree mats false z.runsA = true ∧ Claims.rowsFree mats false (z.runsB ++ z.runsS) = true ∧
    Instr.wf false (.mma { mmaO with c := 0 }) = true ∧ starts (.mma { mmaO with c := 0 }) mats = true ∧
    (Claims.shapeOf mats false { mmaO with c := 0 }).m = 0 := by decide +kernel
/-- `mats` with row indices for MMAG in v4. -/
def gathers : State := vregs [(4, Row.ofLanes fun l => BitVec.ofNat 32 (401 + l))] mats
theorem test_hyp_matrixGather : let z := Claims.shapeOf gathers true mmagO
    Instr.wf false (.mmag mmagO) = true ∧ starts (.mmag mmagO) gathers = true ∧ z.m = 2 ∧
    (z.runsA ++ z.runsB ++ z.runsS).all (Claims.runFits gathers false) = true ∧
    Claims.rowsFree gathers false z.runsA = true ∧ Claims.rowsFree gathers false (z.runsB ++ z.runsS) = true := by decide +kernel
theorem test_hyp_tileTransfer : let rs := tioRuns tioO 12800 2 3
    Claims.extentsOf mats false (mats.val (.s 12)) = (2, 3) ∧ Instr.wf false (.tst false .rne (.s 6) tioO) = true ∧
    starts (.tst false .rne (.s 6) tioO) mats = true ∧ rs.all (Claims.runFits mats true) = true ∧
    Claims.rowsFree mats true rs = true ∧ Instr.wf false (.tld tioO) = true ∧ starts (.tld tioO) mats = true ∧
    Claims.extentsOf mats false 0 = (0, 0) ∧ mats.val (.s 0) = 0 ∧ starts (.tld { tioO with c := .s 0 }) mats = true := by decide +kernel
/-- The engine of core 0 at level 4 with one operation whose work is done. -/
def engine (i : Instr) (args : List Word) : State :=
  mats.modCore 0 fun c =>
    { c with matrix := { level := 4, queue := [{ id := 6, cx := 1, instr := i, args, latch := List.replicate 64 0x38, work := 0 }] } }
theorem test_hyp_matrixEvents : let i : Instr := .mma mmaO
    ((engine i []).core 0).matrix.queue.head?.any (fun o => o.instr == i &&
      decide (o.work ≤ ((engine i []).core 0).matrix.prog + levelRate 4 * (0 - 0))) = true ∧
    ([0, 1].all fun i => !((mats.core 0).isShared ((12800 + 128 * i) / 128))) = true ∧
    ({ level := 3, since := 0 } : Matrix).since + 128 ≤ 200 := by decide +kernel
/-- Core 0 in a ramp state, at cycle 9000. -/
def ramp (m : Matrix) : State := { mats.modCore 0 fun c => { c with matrix := m } with cycle := 9000 }
theorem test_hyp_matrixRamp : (((ramp { level := 3 }).core 0).matrix.since + 128 ≤ (ramp { level := 3 }).cycle ∧
      ((ramp { level := 3 }).die 0).thr = false) ∧
    ((ramp { level := 4 }).core 0).matrix.queue = [] ∧ ((ramp { level := 4 }).core 0).matrix.idleSince + 640 ≤ 9000 ∧
    ((ramp { level := 4, hint := 3 }).core 0).matrix.hint ≠ 0 ∧
    ((ramp { level := 4, hint := 3 }).core 0).matrix.hintAt + 8192 ≤ 9000 := by decide +kernel
/-- The one core of a stream whose region is region 2. -/
def waved : State :=
  { mats.modMe (fun c => { c with wave := some { stream := 5, core := 0, step := 2 } }) with
    streams := [(5, { owner := 2, token := 1, phase := .active, h := 1, w := 1, region := 2 })] }
theorem test_hyp_waveMultiply : let i : Instr := .wmma false true true false false 2 10 11
    Instr.wf true i = true ∧ waved.ordinary = true ∧ waved.me.wave.isSome = true ∧ starts i waved = true ∧
    ((waved.core 0).tile true waved.cur 2).isSome = true ∧ (waved.padRegion 12800 1024 128).isSome = true ∧
    (waved.padRegion 17920 1024 128).isSome = true := by decide +kernel

/-! ### Bounded values and arrays -/

/-- 1 ± 1/4, 2 ± 0, -3 ± +∞ and a NaN in lanes 0 to 3 of b1; 4 ± 1/8 in b2; s8 the limits -1 and 3. -/
def bounds : State :=
  bregs [(1, BReg.ofLanes fun l => if l = 0 then ⟨0x3F800000, 0x3E800000⟩ else if l = 1 then ⟨0x40000000, 0⟩
      else if l = 2 then ⟨0xC0400000, f32Inf⟩ else if l = 3 then ⟨f32Nan, f32Inf⟩ else ⟨0, 0⟩),
    (2, BReg.ofLanes fun _ => ⟨0x40800000, 0x3E000000⟩)]
    (vregs [(1, Row.splat 0x40000000), (2, Row.splat 0xFFFFFFFD)] (sregs [(8, 0x40400000BF800000), (9, 0x3F000000)] pads))
theorem test_hyp_boundedArith :
    [Instr.badd 3 1 2, .baddSub 3 1 2, .bmul 3 1 (.s 9), .bmul 3 1 (.v 1), .bminmaxMin 3 1 2, .bminmaxMax 3 1 2, .bactRelu 3 1,
      .bactClamp 3 1 (.s 8), .bcvtF32 3 1, .bcvtI32 3 2, .bcvtBf16 3 1].all (fun i => Instr.wf false i && starts i bounds) = true ∧
    [Instr.bfma 2 1 (.s 9), .bfma 2 1 (.v 1)].all (fun i => Instr.wf false i && starts i bounds) = true := by decide +kernel
/-- A grid of 1: b2 rounds to it, b1 fails in lane 2. -/
theorem test_hyp_accept : starts (.acceptGrid true 3 2 0) bounds = true ∧ starts (.acceptGrid true 3 1 0) bounds = true ∧
    ((List.range 32).all fun l => acceptLane true 0 ((bounds.me.seen.getB 2).lane l) == some 4) = true ∧
    acceptLane true 0 ((bounds.me.seen.getB 1).lane 2) = none ∧
    ((List.range 2).all fun l => (acceptLane true 0 ((bounds.me.seen.getB 1).lane l)).isSome) = true ∧
    starts (.acceptRaw 3 1) bounds = true := by decide +kernel
/-- A page of pairs of CXID 1 at 0x80000 (s10), lines in the L1, and one in BQ16 at 0x90000 (s11). -/
def bpages : State :=
  withL1 0x800C0 0 (withL1 0x80080 0 (withL1 0x80040 0x3F80000000000000 (withL1 0x80000 0x3E8000003F800000
    (withPage 9 (leafE 12 1 12 0 0 9 1 + 2 ^ 18) (withPage 8 (leafE 12 2 5 0 0 8 1 + 2 ^ 18)
      (sregs [(10, 0x80000), (11, 0x90000), (1, 0x80000), (2, 0x90000)] bounds))))))
def bpage8 : Tlb := tlbOf 8 (leafE 12 2 5 0 0 8 1 + 2 ^ 18)
def bpage9 : Tlb := tlbOf 9 (leafE 12 1 12 0 0 9 1 + 2 ^ 18)
/-- A BLD that has its lines. -/
def loadedB : State :=
  withData (.bld 3 (.s 10) 0) [] [(0x80000, 0x3E8000003F800000), (0x80040, 0), (0x80080, 0), (0x800C0, 0)] bpages
theorem test_hyp_boundedLoad :
    Instr.wf false (.bld 3 (.s 10) 0) = true ∧ starts (.bld 3 (.s 10) 0) bpages = true ∧
    bpages.maps .analog (effAddr (bpages.val (.s 10)) (0 : BitVec 48)) bpage8 = true ∧ bLayout bpage8.e = some .pair ∧
    pageKind bpage8.e bpages.me.cxid (ownerLive bpages 1) = .bprivOwn ∧
    Claims.cached bpages 0x80040 = some 0x3F80000000000000 ∧
    Claims.cached (withPage 8 (leafE 12 2 5 0 0 8 1 + 2 ^ 18) (sregs [(10, 0x80000)] base)) 0x80040 = none ∧
    starts (.bld 3 (.s 10) 4) bpages = true ∧ bpages.me.ctl.thnd = 0 ∧
    (effAddr (bpages.val (.s 10)) (4 : BitVec 48)).toNat % BLayout.pair.bytes ≠ 0 ∧
    loadedB.maps .analog (effAddr (loadedB.val (.s 10)) (0 : BitVec 48)) bpage8 = true ∧
    runs (.bld 3 (.s 10) 0) loadedB = true ∧ Claims.hasData loadedB := by
  unfold Claims.hasData; decide +kernel
theorem test_hyp_boundedStore :
    Instr.wf false (.bst (.s 10) 1 0) = true ∧ starts (.bst (.s 10) 1 0) bpages = true ∧
    ((linesOf 0x80000 256).all fun l => !markBlocks bpages (.line (bpage8.pa l / 64 * 64)) 4 true
      && Claims.noDirty bpages (bpage8.pa l / 64 * 64)) = true ∧
    (match bstBytes .pair (bpages.me.seen.getB 1) with | .ok _ => true | _ => false) = true ∧
    bpages.maps .analog (effAddr (bpages.val (.s 11)) (64 : BitVec 48)) bpage9 = true ∧ bLayout bpage9.e = some (.bq16 0) ∧
    starts (.bst (.s 11) 1 64) bpages = true ∧ pageKind bpage9.e 1 true = .bprivOwn ∧
    (match bstBytes (.bq16 0) (bpages.me.seen.getB 1) with | .error l => l | _ => 99) = 2 := by decide +kernel
/-- A BST of 256 bytes of CXID 1 on its way. -/
def bstOut : State :=
  { bpages with net := [(8, { kind := .record, op := 8, cx := 1, va := 0x80000, pa := 0x80000, data := List.replicate 256 9 })]
                marks := (List.range 4).map fun k => { unit_ := .line (0x80000 + 64 * k), path := 4, write := true, cx := 1, op := 8 } }
theorem test_hyp_bstComplete : (bstOut.net.find 8).any (fun p => bstOut.here p.pa &&
    (let us := storeUnits bstOut p ((List.range (p.data.length / 64)).map fun k => p.pa + 64 * k)
     (firstLasting bstOut us).isNone && !anyFenced bstOut us) &&
    (List.range (p.data.length / 64)).all fun k => !heldBehind bstOut (.line (p.pa + 64 * k)) 4 p.cx 8 true) = true := by decide +kernel

/-- Array 1 of cluster 0. -/
def crossed (x : Array4) : State := pads.modCluster 0 fun c => { c with arrays := [(1, x)] }
def mine : State := crossed { claim := some 1 }
/-- Its context waits for an answer that has come. -/
def arrAnswered : State :=
  mine.modMe fun c => { c with phase := 1, waits := [5], answers := [(5, {})], instr := some (.acal 0 2 1), run := .parked }
theorem test_hyp_arrayCommands : arrOf mine.me.coreNo 1 = 1 ∧ mine.me.phase = 0 ∧ (pads.arr 1).claim = none ∧
    (pads.cluster 0).arrWait = [] ∧ unitLasting pads 0 (arrUnit pads 1) = false ∧ unitFenced pads 0 (arrUnit pads 1) = false ∧
    (mine.arr 1).claim = some mine.cur ∧ Claims.usable mine 1 = true ∧ (mine.arr 1).queue = [] ∧
    Instr.wf false (.awr (.s 2) (.s 1) 0 1) = true ∧ starts (.awr (.s 2) (.s 1) 0 1) mine = true ∧
    Claims.rowsRead mine (mine.val (.s 1)) 4 = true ∧ Instr.wf false (.amvm 5 (.s 1) 1) = true ∧
    starts (.amvm 5 (.s 1) 1) mine = true ∧ Claims.rowsRead mine (mine.val (.s 1)) 8 = true ∧ mine.me.regSt (.s 5) = .dead ∧
    starts (.astat 3 1) mine = true ∧ starts (.bldBuf 3 2 1) mine = true ∧ answered arrAnswered = true := by decide +kernel
/-- Array 1 of cluster 0 with a command that is done at cycle 0; s1 to s3 as in `pads`. -/
def ran (i : Instr) (args : List Word) (cal : Bool) : State :=
  (crossed { claim := some 1, calibrated := cal, bnd := 2, scale := 1, glim := 1, weights := [(3, 0x7F)],
             queue := [{ id := 6, cx := 1, core := 0, instr := i, args, due := some 0 }] }).modMe
    fun c => c.setRegSt (.s 5) (.reserved .amvm 6)
theorem test_hyp_arrayEvents :
    [ran (.awr (.s 2) (.s 1) 1 1) [1023, 256] false, ran (.avfy (.s 2) (.s 1) (.s 3) 0 1) (9 :: 4 :: List.replicate 64 3) false,
      ran (.acal 0 2 1) [] false, ran (.amvm 5 (.s 1) 1) [256] true, ran (.amvm 5 (.s 1) 1) [256] false].all
      (fun s => (s.arr 1).queue.head?.any fun c => c.due == some s.cycle) = true ∧
    ((ran (.amvm 5 (.s 1) 1) [256] true).ctx 1).regSt (.s 5) = .reserved .amvm 6 := by decide +kernel

/-! ### Messages, barriers and copies -/

/-- `pads` with v1, v2; s10 core 33, s11 a row of it, s12 the 2 by 2 rectangle from it, s13 a receiver. -/
def msgs : State :=
  vregs [(1, Row.splat 5), (2, 0)] (sregs [(10, 33), (11, 0x840900), (12, 0x2100021), (13, 5), (14, 0x100000021)] pads)
def rawW : Wire := ⟨.raw, .rne, false, false⟩
theorem test_hyp_messageSend :
    starts (.send (.s 10) (.s 2) (.s 0) 1 rawW) msgs = true ∧ Claims.coreOk (msgs.val (.s 10)) = true ∧
    openCount msgs.me .send < 16 ∧ starts (.send (.s 14) (.s 2) (.s 0) 1 rawW) msgs = true ∧
    Claims.coreOk (msgs.val (.s 14)) = false ∧
    starts (.dep (.s 4) (.s 13) (.v 1) (.s 0) rawW) msgs = true ∧ bits (msgs.val (.s 13)) 28 36 = (0 : BitVec 36) ∧
    starts (.dep (.s 4) (.s 14) (.s 2) (.s 0) rawW) msgs = true ∧ bits (msgs.val (.s 14)) 28 36 ≠ (0 : BitVec 36) ∧
    starts (.synst (.s 11) (.sp 1) (.s 0) rawW) msgs = true ∧ Claims.rowOk (msgs.val (.s 11)) = true ∧
    ((msgs.padRegion 256 128 128).any fun g => msgs.padFull g 256 128) = true ∧ msgs.padOpen 2 256 128 false = true ∧
    heldBehind msgs (.row 0 2) 2 msgs.cur msgs.nextId false = false ∧ msgs.me.held = [] ∧
    openCount msgs.me .synst + openCount msgs.me .mcast < 16 ∧
    Instr.wf false (.synld (.v 3) (.s 11) (.s 0) rawW) = true ∧ starts (.synld (.v 3) (.s 11) (.s 0) rawW) msgs = true ∧
    Instr.wf false (.synld (.sp 1) (.s 11) (.s 0) rawW) = true ∧ starts (.synld (.sp 1) (.s 11) (.s 0) rawW) msgs = true ∧
    (msgs.padRegion (msgs.me.seen.getS 1).toNat 128 128).isSome = true ∧
    starts (.mcastRow (.s 12) (.v 1) (.s 0) 2304 rawW) msgs = true ∧
    (Rect.of? (msgs.val (.s 12))).any (fun r => Claims.mcastFree msgs r && r.chip == msgs.chip) = true ∧
    starts (.mcastQ (.s 12) (.s 2) (.s 0) 1 rawW) msgs = true := by decide +kernel
/-- A message whose answer has come, with a row of data. -/
def msgAnswered : State :=
  msgs.modMe fun c => { c with phase := 1, waits := [5], answers := [(5, { data := List.replicate 128 3 })], run := .parked }
theorem test_hyp_messageWait : msgAnswered.me.phase = 1 ∧ answered msgAnswered = true ∧ msgAnswered.me.waits = [5] ∧
    (msgAnswered.me.answers.find 5).isSome = true ∧
    (msgAnswered.padRegion (msgAnswered.me.seen.getS 1).toNat 128 128).any (fun g => !g.shared) = true ∧
    msgAnswered.padOpen 2 256 128 true = true ∧
    heldBehind msgAnswered (.row 0 2) 2 msgAnswered.cur msgAnswered.nextId true = false := by decide +kernel
/-- A message of a context at core `dst`. -/
def arrive (k : PKind) (dst : Nat) (words : List Word) (data : List Byte) (s : State) : State :=
  { s with net := [(9, { kind := k, op := 8, cx := 1, dst, words, data, thread := 0x77, arrived := true })] }
/-- Queue 1 of core 0 takes entries of sender 7; CXID 1 has reserved s4 for CXID 7. -/
def inbox : State :=
  (msgs.modCore 0 fun k => { k with queues := [(1, { depth := 4, sender := some 7 })] }).modMe fun c =>
    { c.setRegSt (.s 4) (.reserved (.dep 0 7) 0) with rsvOpen := [(7, 0, .s 4)] }
def entryAt (sender : Word) : State := arrive .queueEntry 0 [1, sender] (bytesOf 8 (44 : Word)) inbox
/-- A deposit of ordinal `n` from CXID 7 for s4 of CXID 1. -/
def depAt (n : Word) : State :=
  arrive .deposit 0 [1, (Spec.code (.s 4)).setWidth 64, n, 7] (bytesOf 8 (77 : Word)) inbox
/-- A row 6, 6, … or a request for row `r`. -/
def rowAt (k : PKind) (r : Word) : State :=
  arrive k 0 (if k = .synld then [128 * r, 0, 0] else if k = .mcast then [0, 128 * r] else [128 * r])
    (if k = .synld then [] else bytesOf 128 (Row.splat 6)) inbox
def isAt (s : State) : Bool := (s.net.find 9).any fun p => p.arrived && !flowBlocked s 9 p
theorem test_hyp_messageEvents :
    [entryAt 7, entryAt 8, depAt 0, depAt 1, rowAt .row 16, rowAt .mcast 16, rowAt .synld 17].all isAt = true ∧
    ((inbox.core 0).queues.find 1).any (fun q => q.sender == some 7 && decide ((0 - q.expect).toNat < q.depth)) = true ∧
    cxidKey inbox 1 = some 1 ∧ (inbox.ctx 1).place ≠ .transit ∧ (inbox.ctx 1).coreNo = 0 ∧
    (inbox.ctx 1).rsvOpen.find? (fun r => r.1 == 7 && r.2.1 == 0) = some (7, 0, .s 4) ∧
    ((depAt 0).net.find 9).any (fun p => p.depReg == .s 4) = true ∧
    (inbox.ctx 1).rsvOpen.find? (fun r => r.1 == 7 && r.2.1 == 1) = none ∧
    rowRefused inbox 0 16 = none ∧ unitFenced inbox 0 (coreUnit inbox 0) = false ∧
    markBlocks inbox (.row 0 16) 2 true = false ∧
    (match (inbox.core 0).fill 16 (Row.splat 6) 0x77 with | .ok _ => true | _ => false) = true ∧
    widenPayload rawW 1024 (bytesOf 128 (Row.splat 6)) = Row.splat 6 ∧ unitLasting inbox 0 (coreUnit inbox 0) = false ∧
    (inbox.core 0).deposits.length < 16 ∧ (heldDeposit inbox 0 ⟨1, 7, 1, .s 4, 77, 0, 0x77, 7⟩).isSome = true ∧
    rowRefused inbox 0 17 = none ∧ ((inbox.core 0).fillOf 17).full = true ∧
    markBlocks inbox (.row 0 17) 2 false = false := by decide +kernel

/-- The barrier of cluster 0: CXID 1 is its one member at bit 0. -/
def barred (b : Barrier) : State := (sregs [(1, 4)] base).modCluster 0 fun c => { c with barrier := b }
def member : Barrier := { member := 1, holder := [(0, 1)], phase := 5 }
theorem test_hyp_barriers : let s := barred member
    s.ordinary = true ∧ 16 * qOfCore s.me.coreNo + s.me.slotNo = 0 ∧ bitAt member.member 0 = true ∧
    member.holder.find 0 = some s.me.cxid ∧ bitAt (base.cluster 0).barrier.member 0 = false ∧
    starts (.bara (.s 3)) s = true ∧ starts (.bara (.s 3)) base = true ∧ bitAt member.arrived 0 = false ∧
    starts (.barw (.s 1)) s = true ∧ starts (.barq (.s 3) (.s 1)) s = true ∧
    (let d := (member.phase.toNat + 2 ^ 32 - (s.val (.s 1)).toNat % 2 ^ 32) % 2 ^ 32; 1 ≤ d ∧ d < 2 ^ 31) ∧
    (let t := s.modMe fun c => { c with phase := 1, expired := true, held := [5, 3] }
     runs (.barq (.s 3) (.s 1)) t = true ∧ t.me.phase = 1 ∧ t.me.expired = true) ∧
    (let t := s.modMe fun c => { c with instr := some (.barq (.s 3) (.s 1)), until_ := some 0, held := [5] }
     (t.ctx 1).until_ = some 0 ∧ ¬(1 ≤ (5 + 2 ^ 32 - (((t.ctx 1).held.getD 0 0)).toNat % 2 ^ 32) % 2 ^ 32)) := by decide +kernel

def copyLines2 : List CopyLine := [copyLine paged2 0x20000]
/-- Pages 2 and 3 of CXID 1; s10 the first, s11 a remote row, s12, s13 and s14 to s16 descriptors, s17 and s18 as s12
for no element and for too many; s20 the second page. -/
def copying : State :=
  withPage 2 (leafE 0 2 3 0 0 2 1) (withPage 3 (leafE 0 2 3 0 0 3 1)
    (sregs [(10, 0x20000), (11, 0x840900), (12, 32), (13, 0), (14, 0x200000020), (15, 0x8000000080), (16, 0), (17, 0),
      (18, 0), (20, 0x30000), (21, 0x2000000), (22, 0)] pads))
def cpPM : CopyOp := ⟨3, .s 1, .s 10, 12, false, .rne, .raw, .int32, .m, .p⟩
def cpMR : CopyOp := ⟨3, .s 10, .s 11, 14, false, .rne, .int32, .raw, .r, .m⟩
theorem test_hyp_copies_source : Claims.EndOk copying (fun _ => paged2) .p (copying.val (.s 1)) .src 32 4 1
    fun e => 256 + 4 * (e : Int) where
  named := by decide +kernel
  mapped := by decide +kernel
  lines := by decide +kernel
  aligned := by decide +kernel
  local_ := by
    intro _ r h
    obtain rfl : r = 0 := by omega
    exact ⟨256, by decide +kernel, by decide +kernel⟩
  noWave := by decide +kernel
  unmarkedRows := by decide +kernel
  unmarkedLines := by decide +kernel
theorem test_hyp_copies_target : Claims.EndOk copying (fun _ => paged2) .m (copying.val (.s 10)) .dst 32 4 1
    fun e => 0x20000 + 4 * (e : Int) where
  named := by decide +kernel
  mapped := by decide +kernel
  lines := by decide +kernel
  aligned := by decide +kernel
  local_ := nofun
  noWave := by decide +kernel
  unmarkedRows := by decide +kernel
  unmarkedLines := by decide +kernel
theorem test_hyp_copies_remote : Claims.EndOk copying (fun _ => paged2) .r (copying.val (.s 11)) .dst 32 4 2
    fun e => 2304 + 128 * (e / 32 : Nat) + 4 * (e % 32 : Nat) where
  named := by decide +kernel
  mapped := by decide +kernel
  lines := by decide +kernel
  aligned := by decide +kernel
  local_ := nofun
  noWave := by decide +kernel
  unmarkedRows := by decide +kernel
  unmarkedLines := by decide +kernel
theorem test_hyp_copies_agree : Claims.agree copying (fun _ => paged2) (0x20000 :: copyLines2.map fun l => BitVec.ofNat 56 l.va) :=
  fun _ _ _ _ _ => rfl
theorem test_hyp_copies : let τ : Pc → Tlb := fun _ => paged2
    let z := Claims.copyShape copying τ cpPM 1 32 0 0 0
    let y := Claims.copyShape copying τ cpMR 2 32 128 128 0
    Instr.wf false (.copy cpPM) = true ∧ starts (.copy cpPM) copying = true ∧ copying.me.regSt (.s 3) = .full ∧
    (z.zs = 4 ∧ z.zd = 4 ∧ ∀ e, e < 32 → z.srcAt e = 256 + 4 * (e : Int) ∧ z.dstAt e = 0x20000 + 4 * (e : Int)) ∧
    formatsOk (Claims.endFmt τ .p z.sa .int32) (Claims.endFmt τ .m z.sb .raw) 4 4 .rne false = true ∧
    Instr.wf false (.copy2 cpMR) = true ∧ starts (.copy2 cpMR) copying = true ∧
    (y.zs = 4 ∧ y.zd = 4 ∧ ∀ e, e < 64 → y.dstAt e = 2304 + 128 * (e / 32 : Nat) + 4 * (e % 32 : Nat)) ∧
    (∀ r ∈ Claims.endRows .r ((List.range 64).map y.dstAt), rowCovered (((List.range 64).map y.dstAt).map padOf) 4 r = true) ∧
    (copying.cluster 0).copies.length < 16 ∧ starts (.copy { cpPM with c := 17 }) copying = true ∧
    (bits (Claims.copyDesc copying 21 0) 0 32 : BitVec 32).toNat > 2 ^ 24 ∧ starts (.copy { cpPM with c := 21 }) copying = true := by
  decide +kernel
theorem test_hyp_copies_page : let t3 := tlbOf 3 (leafE 0 2 3 0 0 3 1)
    Instr.wf false (.dcopy 3 (.s 10) (.s 20)) = true ∧ starts (.dcopy 3 (.s 10) (.s 20)) copying = true ∧
    Instr.wf false (.dzero 3 (.s 20)) = true ∧ starts (.dzero 3 (.s 20)) copying = true ∧
    (0x20000 % 65536 = 0 ∧ copying.maps .copy 0x20000 paged2 = true ∧ tlbFind [paged2] 0 0x30000 = none ∧
      ([paged2, t3].all fun t => (pageLines t t.base).all fun l => copying.here l.pa && !inMeta copying l.pa
        && Claims.noDirty copying l.pa) = true ∧
      copyRule paged2.e copying.me.cxid true .src = .yes) ∧
    (copying.maps .copy 0x30000 t3 = true ∧
      copyRule t3.e copying.me.cxid (ownerLive copying (Leaf.owner t3.e)) .zero = .yes ∧
      copyRule t3.e copying.me.cxid (ownerLive copying (Leaf.owner t3.e)) .dst = .yes) ∧ copying.marks = [] := by
  decide +kernel
/-- A copy of two words from row 2 to memory or to row 5, or a page operation, in the engine. -/
def engaged (c : CopyCmd) : State :=
  (copying.modCluster 0 fun k => { k with copies := [c] }).modMe fun x => x.setRegSt (.s 3) (.reserved .copy 8)
def shapeOf (k : EndK) (b : Word) : CopyShape := ⟨.p, k, 256, b, 1, 2, 0, 0, 4, 4, .int32, .int32, false, .rne, 0, 0⟩
def cmdOf (k : EndK) (b : Word) (dst : List CopyLine) (phase : CopyPhase) : CopyCmd :=
  { id := 8, cx := 1, core := 0, thread := 0, reg := 3, target := b.setWidth 56, dst, shape := some (shapeOf k b), phase }
def cmdPage (src : List CopyLine) : CopyCmd :=
  { id := 8, cx := 1, core := 0, thread := 0, reg := 3, target := 0x30000, shape := none, src
    dst := pageLines (tlbOf 3 (leafE 0 2 3 0 0 3 1)) 0x30000, e := leafE 0 2 3 0 0 3 1 }
/-- Two words from memory to row 5. -/
def cmdRead : CopyCmd :=
  { cmdOf .p 640 [] .waiting with shape := some { shapeOf .p 640 with sk := .m, sa := 0x20000 }, src := copyLines2 }
/-- No unit of the die is fenced or lasting, and its stacks hold. -/
def quiet (d : Die) : Bool := d.fenced.isEmpty && d.lasting.isEmpty && !d.halted && !d.down && !d.dramLost
theorem quiet_die (s : State) (h : ∀ p ∈ s.dies, quiet p.2 = true) (d : Nat) : quiet (s.die d) = true := by
  have find (m : Map Die) (hm : ∀ p ∈ m, quiet p.2 = true) : quiet (Map.getD m d {}) = true := by
    induction m with
    | nil => rfl
    | cons p m ih =>
      simp only [Map.getD, Map.find] at ih ⊢
      split
      · exact hm p (by simp)
      · exact ih fun q hq => hm q (by simp [hq])
  exact find s.dies h
/-- On quiet dies no home is fenced or lasting; with no bad line, none is spoilt; with no mark, no copy is held. -/
theorem homes_ready (s : State) (c : CopyCmd) (hd : ∀ p ∈ s.dies, quiet p.2 = true) (hb : s.bad = []) (hm : s.marks = []) :
    Claims.unitsWork s c ∧ spoiltLine s c.src = none := by
  have hq (d : Nat) := quiet_die s hd d
  simp only [quiet, Bool.and_eq_true, List.isEmpty_iff, Bool.not_eq_true'] at hq
  refine ⟨⟨by simp [copyHeld, hm], ?_, ?_⟩, ?_⟩
  · simp [fencedHome, anyFenced, unitFenced, hq]
  · simp [lastingHome, firstLasting, unitLasting, hq]
  · simp [spoiltLine, lineSpoilt, hb, hq]
theorem test_hyp_copyEvents :
    (∀ c : CopyCmd, c.id = 8 → findCopy (engaged c) 8 = some (0, c)) ∧
    ([cmdOf .m 0x20008 copyLines2 .reading, cmdOf .m 0x20008 copyLines2 .writing, cmdOf .p 640 [] .reading, cmdRead,
      cmdPage (pageLines paged2 0x20000), cmdPage []].all fun c => c.id == 8 && c.left == 0 && c.refused.isEmpty
        && c.sCore == 0 && c.dCore == 0 && (c.src ++ c.dst).all fun l => (engaged c).here l.pa) = true ∧
    ((∀ p ∈ copying.dies, quiet p.2 = true) ∧ copying.bad = [] ∧ copying.marks = []) ∧
    (copying.core 0).isShared 2 = false ∧ (copying.core 0).isShared 5 = false ∧
    (pageLines paged2 0x20000).map (·.va) ≠ (cmdPage []).dst.map (·.va) ∧
    ((cmdPage []).dst.all fun l => !Leaf.lattice l.e) = true ∧ (engaged (cmdPage [])).me.regSt (.s 3) = .reserved .copy 8 := by
  refine ⟨fun c h => ?_, by decide +kernel⟩
  have : (engaged c).clusters = [(0, { copies := [c] })] := rfl
  simp [findCopy, this, h]
/-- A refusal of the home of a line ends a copy with a failed token. -/
theorem test_hyp_copyRefused : let f : FaultRec := { code := 0x40, info := [0x20000], src := 2 }
    let c := { cmdOf .p 640 [] .reading with refused := [(0x20000, f)] }
    findCopy (engaged c) 8 = some (0, c) ∧ c.refused.head? = some (0x20000, f) ∧ c.phase = .reading := by decide +kernel

/-! ### Tasks and launches -/

/-- Group 3 of CXID 1: CXIDs 100 on, 4 launched contexts, 8 children, all slots of cores 0, 1, 32 and 33. -/
def group3 : Group :=
  { number := 3, cxbase := 100, nl := 4, span := 12, limit := 8, slots := 2, cores := [0, 1, 32, 33], begun := true, created := 1, live := 1 }
/-- `pads` in group 3, with spill areas of 64 KiB on cores 0 and 33; s1 core 33, s2 an entry, s3 a status word, s4 a row of
core 33, s8 to s11 arguments, s12 core 0, s13 a remote sender. -/
def tasks : State :=
  let s : State := withPage 4 (leafE 7 3 4 0 0 4 0) (sregs [(1, 33), (2, 0x50000), (3, 0x40000), (4, 0x840900), (8, 1), (9, 2),
    (10, 3), (11, 4), (12, 0), (13, 0x100007)] pads)
  let s := (s.modDie 0 fun d => { d with sptb := 0x200000 }).modMe fun c => { c with group := some 3, npc := 0x10010 }
  let s := [0, 33].foldl (fun s k => (s.writeNat (0x200000 + 16 * k) 8 0x300000).writeNat (0x200008 + 16 * k) 8 0x10000) s
  { s with groups := [(3, group3)] }
theorem test_hyp_tasks :
    (Instr.wf false (.spawn (.s 3) (.s 1) (.s 2) 8 5) = true ∧ starts (.spawn (.s 3) (.s 1) (.s 2) 8 5) tasks = true ∧
      (5 : BitVec 20).toNat < (Claims.groupOf tasks).limit ∧ (Claims.groupOf tasks).limit ≤ (9 : BitVec 20).toNat ∧
      starts (.spawn (.s 0) (.s 1) (.s 2) 0 9) tasks = true) ∧
    (tasks.maps .join 0x40000 (tlbOf 4 (leafE 7 3 4 0 0 4 0)) = true ∧ Leaf.jt (leafE 7 3 4 0 0 4 0) = .fill ∧
      Leaf.ew (leafE 7 3 4 0 0 4 0) = 64) ∧
    Claims.ordinaryCore tasks 33 = true ∧ Claims.takesArrivals tasks 33 = true ∧ cxidFree tasks 109 = true ∧ tasks.cur = 1 ∧
    (let t := tasks.modMe fun c => { c with phase := 1, waits := [5], answers := [(5, {})] }; answered t = true) ∧
    (Instr.wf false (.tdef (.s 0) (.s 4) (.s 2) 8 5 9 3) = true ∧ starts (.tdef (.s 0) (.s 4) (.s 2) 8 5 9 3) tasks = true ∧
      Claims.rowOk (tasks.val (.s 4)) = true ∧ bits (tasks.val (.s 4)) 30 8 = tasks.chip) ∧
    (starts (.tdec (.s 4)) tasks = true ∧ settledStores tasks = true) ∧
    (Instr.wf false (.migrate (.s 1) 0x182) = true ∧ starts (.migrate (.s 1) 0x182) tasks = true ∧
      starts (.migrate (.s 12) 0) tasks = true ∧ Claims.ordinaryCore tasks 0 = true ∧ hasSpill tasks 0 = true) := by decide +kernel
theorem test_hyp_migrate : Claims.canMove tasks := by unfold Claims.canMove; decide +kernel
/-- A record at 0x20000 (s14): one core, one slot, children to 0; entry 0x50000, CXIDs from 200. -/
def recordWords : List Word :=
  [0x50000, 0x0000110008420000, 0x0000000100000001, 0x0001000100000001, 1, 0, 200 * 4096] ++ List.replicate 25 0
def recordLine (k : Nat) : Line := ofBytes 512 (((recordWords.flatMap fun w => bytesOf 8 w).drop (64 * k)).take 64)
def launching : State :=
  withL1 0x200C0 (recordLine 3) (withL1 0x20080 (recordLine 2) (withL1 0x20040 (recordLine 1)
    (withPage 2 (leafE 0 2 3 0 0 2 1) (sregs [(14, 0x20000)] tasks))))
/-- The LAUNCH has the lines of its record. -/
def launchLoaded : State :=
  withData (.launch (.s 14)) [] ((List.range 4).map fun k => (0x20000 + 64 * k, recordLine k)) launching
theorem test_hyp_launch : let r := LaunchRec.ofWords (wordsOf 32 (bytesAtHand launchLoaded 0x20000 256))
    Instr.wf false (.launch (.s 14)) = true ∧ starts (.launch (.s 14)) launching = true ∧
    (linesOf 0x20000 256).all (fun l => openAt launching .load paged2 false l && launching.maps .load l paged2
      && launchLoaded.maps .load l paged2) = true ∧
    (launching.val (.s 14)).toNat % 256 = 0 ∧ Claims.cached launching 0x20000 = none ∧
    Claims.cached launching 0x20040 = some (recordLine 1) ∧ runs (.launch (.s 14)) launchLoaded = true ∧
    Claims.hasData launchLoaded ∧ complFault launchLoaded false r = none ∧ recordFault launchLoaded 0x20000 (some 0) r = none ∧
    r.entry = 0x50000 := by
  unfold Claims.hasData; decide +kernel
theorem test_hyp_launch_agree : Claims.agree launching (fun _ => paged2) (linesOf 0x20000 256) := fun _ _ _ _ _ => rfl
/-- Queue 1 of core 0: an output of stage 0; queue 2 its input from a sender; both of group 3. -/
def staged : State :=
  tasks.modCore 0 fun k => { k with queues := [(1, { depth := 4, cons := 1, group := some 3 }), (2, { depth := 2, sender := some 7, group := some 3 })] }
/-- The same with a group of one slot a core, or with a declared stage, or at the end of a QUIT or LAUNCH. -/
def solo : State := { staged with groups := [(3, { group3 with slots := 1 })] }
def declared : State := solo.modMe fun c => { c with stage := some { input := some 2, output := some 1, rep := false } }
def quitting : State := tasks.modMe fun c => { c with phase := 1, waits := [5], answers := [(5, {})], flags := { c.flags with b := true } }
def waiting2 : State := tasks.modMe fun c => { c with phase := 2, held := [3] }
theorem test_hyp_groupInstructions :
    (quitting.me.phase = 1 ∧ answered quitting = true ∧ quitting.me.group = some 3) ∧
    (let t := tasks.modMe fun c => { c with unf := 2 }; t.me.phase = 0 ∧ t.me.unf ≠ 0) ∧
    (waiting2.me.phase = 2 ∧ (waiting2.group 3).begun = true ∧ (waiting2.group 3).plan = []) ∧
    (starts (.qcfg (.s 0) 3 3 0 1) solo = true ∧ Instr.wf false (.qcfg (.s 0) 3 3 0 1) = true ∧
      (solo.core 0).queues.find 3 = none ∧ stageCount (Claims.groupOf solo) 1 ≤ 1 ∧ stageCount (Claims.groupOf solo) 0 ≤ 1 ∧
      starts (.qcfg (.s 0) 1 3 0 1) solo = true ∧ ((solo.core 0).queues.find 1).any (fun o => o.depth == 4) = true ∧
      (bits (solo.val (.s 0)) 28 36 : BitVec 36) = 0 ∧ starts (.qcfg (.s 4) 3 3 0 1) (sregs [(4, 0x10000000)] solo) = true ∧
      (bits ((sregs [(4, 0x10000000)] solo).val (.s 4)) 28 36 : BitVec 36) ≠ 0) ∧
    (solo.me.stage = none ∧ ((solo.core 0).queues.find 2).any (fun q => solo.me.ofStage q q.cons) = true ∧
      ((solo.core 0).queues.find 1).any (fun q => q.sender.isNone && solo.me.ofStage q q.prod) = true ∧
      declared.me.stage.isSome = true) ∧
    (starts (.qeos (.s 1) 2) declared = true ∧ Claims.coreOk (declared.val (.s 1)) = true ∧ openCount declared.me .send < 16) ∧
    (declared.me.stage.all (fun g => !g.rep) = true ∧ declared.me.pushes.getD 1 0 = 0) := by decide +kernel
/-- Four arrivals wait on core 0, none on its neighbours. -/
def loaded : State :=
  let c (n : Nat) : Ctx := { live := true, cxid := BitVec.ofNat 20 n, group := some 3, arrival := true, place := .queued 0, pc := 0x50000 }
  { (tasks.modCore 0 fun k => { k with arrivals := [101, 102, 103, 104] }) with
    ctxs := tasks.ctxs ++ [(101, c 101), (102, c 102), (103, c 103), (104, c 104)] }
theorem test_hyp_ldbal : loaded.ordinary = true ∧ coreLoad loaded 0 = 5 ∧ coreLoad loaded 1 = 0 ∧ coreLoad loaded 32 = 0 ∧
    (List.range 4).map (coreOfCluster (clusterOf 0)) = [0, 1, 32, 33] ∧
    ((loaded.core 0).arrivals.filter fun key => (loaded.ctx key).arrival && (loaded.ctx key).stage.isNone &&
      match (loaded.ctx key).group with
      | some g => (loaded.group g).cores.contains 1
      | none => false).getLast? = some 104 := by decide +kernel
/-- The launch queue of die 0 at 0x60000, tables and all; its first record filled, with a conflict or without. -/
def recorded (bad : Bool) : State :=
  let s := withTables [(6, leafE 7 3 4 0 0 6 0)] (tasks.modDie 0 fun d => { d with lqbase := 0x60000 })
  let s := { s with groups := [] }
  let s := recordWords.zipIdx.foldl (fun s w => s.writeNat (0x60000 + 8 * w.2) 8 w.1.toNat) s
  let x : Loc := { e := leafE 7 3 4 0 0 6 0, size := 16, va := 0x60000 }
  (List.range 4).foldl (fun s k => s.writeNat (x.lineWordAt k) 4 (if bad && k == 0 then 0x100FF else 0xFF)) s
theorem test_hyp_launchRecords : (recorded false).groups = [] ∧
    queuedRecord (recorded false) 0 0 0x60000 = some (recordWords, false) ∧
    queuedRecord (recorded true) 0 0 0x60000 = some (recordWords, true) ∧ (LaunchRec.ofWords recordWords).home = 0 ∧
    complFault (recorded false) false (LaunchRec.ofWords recordWords) = none ∧
    recordFault (recorded false) 0x60000 none (LaunchRec.ofWords recordWords) = none := by decide +kernel
/-- Context 101 arrives at core 0, lies in its spill area, or waits in its arrival queue. -/
def arriving1 : State :=
  { (loaded.modCore 0 fun k => { k with arrivals := [] }) with
    net := [(9, { kind := .arrival, op := 8, cx := 1, dst := 0, words := [101], arrived := true })] }
def spilled1 : State := loaded.modCore 0 fun k => { k with arrivals := [], spill := [101, 102] }
/-- Row 16 of core 0 is a full task row with count 2, or 0. -/
def counted (n : Row) : State :=
  { (tasks.modCore 0 fun k => (k.setRow 16 n).setFill 16 { full := true, bound := some 0x77 }) with
    net := [(9, { kind := .tdec, op := 8, cx := 1, dst := 0, words := [16 * 128], arrived := true })] }
theorem test_hyp_arrivals :
    ([arriving1, counted 2, counted 0].all isAt = true ∧ unitFenced arriving1 0 (coreUnit arriving1 0) = false ∧ unitLasting arriving1 0 (coreUnit arriving1 0) = false ∧
      (arriving1.core 0).spill = [] ∧ (arriving1.ctx 101).image = false ∧
      (arriving1.core 0).arrivals.length < arrivalCap arriving1 0 (arriving1.ctx 101)) ∧
    ((spilled1.core 0).spill = [101, 102] ∧ (spilled1.core 0).arrivals.length < arrivalCap spilled1 0 (spilled1.ctx 101)) ∧
    (let elig := (readyTable loaded 0).filter fun r => (r.slot loaded 0).isSome
     let aged := elig.filter fun r => decide (64 ≤ (loaded.core 0).passed.getD r.passKey 0)
     aged = [] ∧ elig.head?.any (fun r => r.cx == 101 && (r.slot loaded 0).isSome && elig.all fun q => q == r || decide (r.key < q.key)) = true) ∧
    (rowRefused (counted 2) 0 16 = none ∧ ((counted 2).core 0).fillOf 16 = { full := true, bound := some 0x77 } ∧
      markBlocks (counted 2) (.row 0 16) 2 true = false) := by decide +kernel
/-- Stage 1 of group 3 on core 0 is replicable from queue 2 to queue 1: CXID 101 is replica 0, CXID 113 replica 1. -/
def replicas (hi lo : Option Nat) (two : Bool) : State :=
  let g : StageSt := { input := some 2, output := some 1, rep := true, restart := 0x50010, regs := [{ val := 6, st := .full }] }
  let c (n r k : Nat) : Ctx :=
    { live := true, cxid := BitVec.ofNat 20 n, group := some 3, place := .slot 0 k, run := .parked, stage := some g,
      instr := some (.send (.q 2) (.s 1) (.s 1) 1 rawW), ident := { stage := 1, replica := BitVec.ofNat 64 r }, flags := { o := true } }
  { (tasks.modCore 0 fun k =>
      { k with
        slots := k.slots ++ [(1, 101)] ++ if two then [(2, 113)] else []
        queues := [(2, { depth := 4, prod := 0, cons := 1, group := some 3, highSince := hi, emptySince := lo })] }) with
    ctxs := tasks.ctxs ++ [(101, c 101 0 1)] ++ (if two then [(113, c 113 1 2)] else []), cycle := 9000
    groups := [(3, { group3 with stages := 2, stageSlots := [1, 1] })] }
theorem test_hyp_replicas : let s := replicas (some 0) none false
    let t := replicas none (some 0) true
    ((s.core 0).queues.find 2).any (fun q => (replicaZero s 0 2 q).any (fun z => z.1 == 101 && z.2.group == some 3 && z.2.stage.isSome) &&
      (liveReplicas s 0 q).isEmpty && q.crowded s.cycle && !(q.entries.any (·.eos))) = true ∧
    (freeSlots s 0).head? = some 2 ∧ cxidFree s 112 = true ∧
    ((t.core 0).queues.find 2).any (fun q => (replicaZero t 0 2 q).any (fun z => z.1 == 101) && liveReplicas t 0 q == [(1, 113)] &&
      q.idle t.cycle && !(q.entries.any (fun e => e.eos && e.tag == q.expect))) = true ∧
    (t.ctx 113).inPop 2 = true ∧ (t.ctx 113).ctl.stq = 0 := by decide +kernel

/-! ### Wave streams -/

/-- A line of these five instructions. -/
def lineOf5 (is : List Instr) : Line :=
  let l : Line := (is.foldr (fun i (x : BitVec 480) => (x <<< 96) ||| (encode i).setWidth 480) 0).setWidth 512
  setBits l 480 (LineWord.parity l)
def waddO : Bin := ⟨true, .s 2, .s 1, .imm 5⟩
def waveLine : Line := lineOf5 [.add .wrap waddO, .nop, .wend, .nop, .nop]
/-- Core 0 is wave-reserved with a private region 3; its owner's executable page 5 holds the line of a stream; s10 its
address, s11 a block of one core, s12 an ill-formed block, s13 a block of two cores. -/
def waving : State :=
  let e : Entry := leafE 1 0 0 0 1 5 0 + 2 ^ 19
  let s : State := withRegion 3 1 300 40 (withPage 5 e (sregs [(1, 11), (10, 0x50000), (11, 0), (12, 0x20), (13, 0x10000)] pads))
  (s.modCore 0 fun c => { c with waveRes := true }).writeLine 0x50000 waveLine
def wpage : Tlb := tlbOf 5 (leafE 1 0 0 0 1 5 0 + 2 ^ 19)
def wb (b : Spec) : Instr := .wbegin 0 false false 3 (.s 10) b 1 3
def wbase : Stream := { owner := 1, token := 3, region := 3 }
theorem test_hyp_waveBegin : Instr.wf false (wb (.s 11)) = true ∧ [wb (.s 11), wb (.s 12), wb (.s 13)].all (fun i => starts i waving) = true ∧
    waving.nextId < 2 ^ 64 ∧ blockOf wbase (waving.val (.s 12)) = none ∧
    (blockOf wbase (waving.val (.s 13))).any (fun t => (badCore waving t).isSome) = true ∧
    (blockOf wbase (waving.val (.s 11))).any (fun t => badCore waving t == none && buffersFree waving t &&
      t.cores.all (regionFree waving t) && !(waving.die t.die).thr && t.cores.all fun k => t.key k != 1) = true ∧
    bits (waving.val (.s 10)) 0 6 = (0 : BitVec 6) ∧ waving.me.regSt (.s 3) = .full ∧
    (waving.maps .fetch 0x50000 wpage = true ∧ lineSpoilt waving (wpage.pa 0x50000) = false) ∧
    (blockOf wbase (waving.val (.s 11))).any (fun t => !hasWmma (wcode waving t 0x50000 1) &&
      (wcode waving t 0x50000 1).checkLine (homeLine waving wpage.e (wpage.pa 0x50000)) 0x50000 == none) = true ∧
    ((WCode.units (homeLine waving wpage.e (wpage.pa 0x50000)) 0x50000).all fun u => u.instrs.all fun j =>
      bits (encode j) 88 8 != (bits (encode (.wmma false false false false false 0 0 0)) 88 8 : BitVec 8)) = true := by decide +kernel
/-- Context 1 in the wave slot of core 0 of stream 5, at step 2, with a vote of step 2 and a checkpoint requested. -/
def waving2 (q : Option Nat) : State :=
  { waved with streams := [(5, { owner := 2, token := 1, phase := .active, region := 2, voteAt := some 2, emitted := 3, start := 7,
                                 code := [⟨0x10000, [.nop]⟩, ⟨0x10001, [.nop]⟩], ckptReq := q })] }
theorem test_hyp_waveControl : base.me.wave = none ∧
    ((waving2 none).me.wave).any (fun w => w.stream == 5 && w.core == 0) = true ∧
    ((waving2 none).streams.find 5).any (fun t => t.ckptReq == none) = true ∧
    ((waving2 (some 3)).streams.find 5).any (fun t => t.ckptReq == some 3 && decide (t.col0 < 32)) = true := by decide +kernel
/-- Stream 5 of CXID 1 on core 0: one step of the unit of `waveLine`, its token s3. -/
def stream5 : Stream :=
  { wbase with code := [⟨0x50000, [.add .wrap waddO]⟩, ⟨0x50001, [.nop]⟩, ⟨0x50002, [.wend]⟩], phase := .active, emitted := 1, steps := [(0, 1)] }
def streaming (t : Stream) : State :=
  let s : State := { waving.modMe (fun c => c.setRegSt (.s 3) (.reserved .wave 5)) with streams := [(5, t)] }
  if t.phase == .preempted then s.setCtx (Stream.savedKey 5 0) (waveCtx s 5 t 0)
  else (s.setCtx (t.key 0) (waveCtx s 5 t 0)).modCore 0 fun k => { k with waveSlots := [(0, 5)] }
def wfault : WFault := { rot := 0, core := 0, step := 0, code := 0x19 }
theorem test_hyp_waveEvents :
    [({ stream5 with phase := .loading }), { stream5 with voteAt := some 0, votePend := true }, { stream5 with stopAt := some 0 },
      { stream5 with stopAt := some 0, killed := true }, { stream5 with phase := .closing },
      { stream5 with phase := .closing, faults := [wfault] }, { stream5 with phase := .preempted, ckptStep := some 0 },
      { stream5 with phase := .resuming, ckptStep := some 0 }].all (fun t => ((streaming t).streams.find 5 == some t) &&
        t.owner == 1 && !t.wmma && decide (t.owner < 2 ^ 20) && ((streaming t).die 0).resetAt == 0) = true ∧
    ((streaming { stream5 with phase := .closing }).ctx 1).regSt (.s 3) = .reserved .wave 5 ∧
    buffersFree (streaming { stream5 with phase := .preempted }) { stream5 with phase := .preempted } = true := by decide +kernel
theorem test_hyp_waveStep : let t := stream5
    let s := streaming t
    t.has 0 = true ∧ s.rotation 0 = t.rot 0 0 ∧ t.executes 0 0 = true ∧ unitFenced s 0 (coreUnit s 0) = false ∧
    t.ckptStep = none ∧ t.ended = [] ∧ t.steps.find 0 = some 1 ∧ (s.ctx (t.key 0)).flags.ann = 0 ∧
    (let s1 := ({ s with cur := t.key 0 } : State).modMe fun c => { c with wave := c.wave.map fun w => { w with step := 0 } }
     unitPositions s1 s1.me [.add .wrap waddO] ≤ 1) ∧
    (match (meaning (.add .wrap waddO)).run (({ s with cur := t.key 0 } : State).modMe fun c =>
        { c with wave := c.wave.map (fun w => { w with step := 0 }), pc := 0x50000, head := 0x50000 }) with
     | .ok () v => (v.streams.find 5).any fun w => w.ckptStep.isNone
     | _ => false) = true := by decide +kernel

/-! ### The supervisor -/

/-- A privileged context of the supervisor core of die 0, with CXID 100 beside: faulted in slot 0 of core 0, saved, or
ready; s1 names it, s2 names none, s3 the unit of core 0, s4 no unit, s5 a leaf and s6, s7 its words. -/
def boss (c : Ctx) : State :=
  let s : State := State.reset.withFetchWord 96 (encode (.keyz 7)).toNat
  let s := withTables [(6, leafE 0 2 3 0 0 6 100)] s
  let s := (s.setCtx 100 { c with live := true, cxid := 100 }).modCore 0 fun k => { k with slots := [(0, 100)] }
  sregs [(1, 100), (2, 101), (3, 0), (4, 0x3E0), (5, 0x10C060), (6, bits (leafE 2 2 3 0 0 6 0) 0 64), (7, bits (leafE 2 2 3 0 0 6 0) 64 64),
    (8, 0x10C068), (9, 0x10000000000), (10, 0x60000), (11, 77)] s
def faulted1 : Ctx := { place := .slot 0 0, run := .faulted, pc := 0x60000, faults := [{ code := 2 }] }
def saved1 : Ctx := { place := .saved 0, image := true, run := .parked, pc := 0x60000 }
def bossA : State := (boss faulted1).modDie 0 fun d => { d with mailbox := [5, 6] }
def bossUp : State := bossA.modDie 0 fun d => { d with links := [(18, { lst := 2 })] }
def bossF : State := bossA.modDie 0 fun d => { d with fenced := [0] }
theorem test_hyp_supervisor : bossA.me.priv = true ∧ Claims.myDie bossA = 0 ∧ (bossA.die 0).mailbox = [5, 6] ∧
    [Instr.mbox 3, .mboxNb 3, .fenceu (.s 3), .fenceu (.s 4), .fenceuUn (.s 3), .stest (.s 9) (.s 3), .preempt (.s 1), .preempt (.s 2),
      .resume true true (.s 1) (.s 11) (.s 0), .resume false false (.s 2) (.s 0) (.s 0), .kill (.s 1), .kill (.s 2), .ckpt (.s 9) (.s 11) (.s 1),
      .mapw (.s 5) (.s 6) (.s 7), .mapw (.s 8) (.s 6) (.s 7), .mapw (.s 9) (.s 6) (.s 7), .tlbi (.s 2) (.s 10), .tlbiAs (.s 2) (.s 10),
      .tlbiAll (.s 2) (.s 10)].all (fun i => starts i bossA) = true ∧
    UnitId.ok bossA 0 = true ∧ UnitId.ok bossA 0x3E0 = false ∧ (bossF.die 0).fenced.contains 0 = true ∧
    (bossF.die 0).lasting.contains 0 = false ∧ namedLive bossA 100 = some 100 ∧ namedLive bossA 101 = none ∧
    ((boss saved1).ctx 100).place = .saved 0 ∧ quiescent bossA 77 = true ∧
    (bossUp.link (linkEnd 0 18)).up = true ∧ bossA.here 0x10C060 = true ∧
    bossA.here 0x10000000000 = false ∧ bossA.me.waits = [] ∧
    unmapped bossA (bossA.writeBytes 0x10C060 (bytesOf 16 (leafE 2 2 3 0 0 6 0))) = [] ∧
    (let t := bossA.modMe fun c => { c with phase := 1, waits := [5], answers := [(5, {})] }
     runs (.mapw (.s 9) (.s 6) (.s 7)) t = true ∧ answered t = true) ∧ walksFor bossA .page 101 0x60000 = false ∧ walksFor bossA .asid 101 0x60000 = false ∧
    walksFor bossA .all 101 0x60000 = false ∧
    (let t := bossA.modMe fun c => { c with phase := 1, held := [101] }; t.me.phase = 1 ∧ (t.ctx 101).live = false) ∧
    (let t := bossA.modMe fun c => { c with phase := 1, waits := [5], answers := [(5, { words := [9] })] }
     runs (.stest (.s 9) (.s 3)) t = true ∧ answered t = true) := by decide +kernel
theorem test_hyp_privilege : base.me.priv = false ∧ CReg.access .lqbase = .rwp := by decide +kernel

/-! ### Contexts, containment, the fabric, the whole machine -/

/-- CXID 100 in slot 0 of core 0, changed, with a spill area of 64 KiB for core 0. -/
def held100 (f : Ctx → Ctx) : State :=
  let s : State := State.reset.withFetchWord 96 (encode (.keyz 7)).toNat
  let s := (s.modDie 0 fun d => { d with sptb := 0x200000, heldRecs := [9, 8] })
  let s := (s.writeNat 0x200000 8 0x300000).writeNat 0x200008 8 0x10000
  (s.setCtx 100 (f { live := true, cxid := 100, place := .slot 0 0, pc := 0x60000 })).modCore 0 fun k => { k with slots := [(0, 100)] }
def unitLd : Instr := .ld .w32 true (.s 3) (.s 1) 4
def loaded4 : State := withData unitLd [] [(0x20000, line0)] paged
theorem test_hyp_contextEvents :
    (((held100 id).die 0).heldRecs = [9, 8] ∧ ((held100 id).die 0).mailbox.length < 256) ∧
    (let s := held100 fun c => { c with preempt := true }
     (s.ctx 100).place = .slot 0 0 ∧ (s.ctx 100).live = true ∧ (s.ctx 100).preempt = true ∧ atBoundary s 100 = true ∧
       (withParts s 0 100 (savedImage s 100 0).savedParts).isSome = true) ∧
    (let s := held100 fun c => { c with kill := some 5 }
     (s.ctx 100).kill = some 5 ∧ (s.ctx 100).instr = none ∧ (s.ctx 100).ctl.stq = 0 ∧ s.marks = [] ∧ engineWork s 100 = false ∧
       ∀ x ∈ s.cores, ∀ r ∈ x.2.taskRows, r.2.cx ≠ 100) ∧
    (let s := base.modMe fun c => { c with flags := { c.flags with ann := 2 } }
     (s.ctx 1).flags.ann ≠ 0 ∧ (s.ctx 1).run = .ready ∧ (s.ctx 1).instr = none ∧ (s.ctx 1).loop0.active = false ∧
       (s.ctx 1).loop1.active = false) ∧
    (Instr.fields .nop).isSome = true ∧
    (let s := { loaded4 with cur := 9 }
     let u : State := { s with cur := 1 }
     (s.ctx 1).instr = some unitLd ∧ Instr.wf false unitLd = true ∧ runs unitLd u = true ∧ u.me.phase = 1 ∧ answered u = true ∧
       u.maps .load 0x20004 paged2 = true ∧ (s.ctx 1).lineBuf.find 0x20000 = some line0) ∧
    (let s := answeredBy (.spawn (.s 0) (.s 1) (.s 2) 0 5) 1 {} tasks
     answered s = true ∧ (s.ctx 1).run = .parked ∧ (s.ctx 1).xfer = false ∧ (s.ctx 1).loop0.active = false ∧
       (s.ctx 1).loop1.active = false) := by decide +kernel
theorem test_hyp_fetched : Claims.fetched base fetchTlb [0] := by
  refine ⟨?_, ?_, ?_, ?_, ?_⟩ <;> decide +kernel
/-- Unit 0, core 0 of die 0, fenced or not; an image for die 0. -/
def failing (fenced : Bool) : State := State.reset.modDie 0 fun d => { d with fenced := if fenced then [0] else [] }
def image : BootImage := { mem := [(0x1000, 7)], crtb := 3, lqbase := 0x1FF, sptb := 0xFFF0000000000040, ctxs := [⟨0, 5, 0, 0x70000⟩, ⟨1, 6, 0, 0x80000⟩] }
def imaged : State := { State.reset with images := [(0, image)] }
theorem test_hyp_containment : UnitId.ok (failing false) 0 = true ∧ ((failing false).die 0).fenced.contains 0 = false ∧
    ((failing true).die 0).fenced.contains 0 = true ∧ ((failing true).die 0).lasting.contains 0 = false ∧
    bits (State.reset.die 0).alarm 0 2 = (2 : BitVec 2) ∧
    imaged.images.find 0 = some image ∧ (imaged.die 0).booted = false ∧
    (image.ctxs.map (·.cxid)).Nodup := by decide +kernel
/-- Die 1 is held and drained, and no context is on it. -/
theorem test_hyp_dieReset : let s := held100 id
    let t := s.modDie 1 fun d => { d with holdtr := true, drained := true }
    (t.die 1).holdtr = true ∧ (t.die 1).drained = true ∧
    ∀ p ∈ t.ctxs, p.2.live = false ∨ p.2.wave.isSome = true ∨ dieOfCore p.2.coreNo ≠ 1 ∨ p.2.place = .transit := by decide +kernel
/-- A packet of a row at the router of a cluster of die 0. -/
def routed (node dst : Nat) (k : BitVec 3) : State :=
  { (State.reset.modDie 0 fun d => { d with links := [(2, { lst := 2 }), (18, { lst := 2 })] }) with
    net := [(9, { kind := .row, op := 8, cx := 1, dst, node, kappa := k, data := List.replicate 128 0 })] }
theorem allWork_of_quiet (s : State) (h : ∀ p ∈ s.dies, quiet p.2 = true) : Claims.allWork s := by
  intro d u
  have hq := quiet_die s h d
  simp only [quiet, Bool.and_eq_true, List.isEmpty_iff, Bool.not_eq_true'] at hq
  simp [unitFenced, unitLasting, hq]
theorem mayMove_routed (n d : Nat) (k : BitVec 3) : Claims.mayMove (routed n d k) 9
    { kind := .row, op := 8, cx := 1, dst := d, node := n, kappa := k, data := List.replicate 128 0 } :=
  ⟨rfl, rfl, rfl, rfl, rfl, rfl, show (1 : Nat) ≠ hostKey by decide, show PKind.row ≠ .control by decide,
    by simp [behindWriteBack, routed], fun _ => rfl⟩
theorem test_hyp_fabric : (∀ n d k, Claims.allWork (routed n d k)) ∧
    clusterOf 65 ≠ 0 ∧ clusterOf 65 / 160 = 0 ∧ ((routed 0 0 2).link (linkEnd 0 2)).up = true ∧ clusterOf 1024 / 160 = 1 ∧
    linkCluster (linkEnd 0 2) / 160 = 0 ∧ linkCluster (linkEnd 0 18) / 160 = 0 ∧ ((routed 0 0 2).link (linkEnd 0 18)).up = true ∧
    bitAt ((routed 0 0 2).die 0).crtb 0 = false ∧
    [linkEnd 1 13, linkEnd 0 26].all (fun l =>
      replayFlits (routed (linkCluster (linkEnd 0 2)) 1024 2) l + linkFlits { kind := .row, data := List.replicate 128 0 } ≤ 64)
      = true :=
  ⟨fun n d k => allWork_of_quiet _ (show ∀ p ∈ (routed 0 0 0).dies, quiet p.2 = true by decide +kernel), by decide +kernel⟩
/-- A packet of two link flits on its way to link end 2, and to the Gweblink port of die 0 with its outside end up; one that
waits outside; a window of two bundles. -/
def crossing (l : Nat) : State :=
  { ((routed 0 0 2).modDie 0 fun d => { d with links := d.links.put 26 { lst := 2 } }) with
    net := [(9, { kind := .row, op := 8, cx := 1, dst := 0, node := 0, link := some l, data := List.replicate 128 0 })] }
/-- The same packet with the first of its two link flits received. -/
def halfCrossed (l : Nat) : State :=
  (crossing l).modDie 0 fun d => { d with links := d.links.put l { lst := 2, seq := 1, part := some (9, 1) } }
def arrivingPkt : Packet := { kind := .lineReq, op := 8, cx := 77, dst := 4096, link := some 18 }
def arrivingOut : State := { routed 0 0 2 with net := [], portIn := [arrivingPkt] }
def window : State := State.reset.modDie 0 fun d => { d with windowFlits := [(3, 40), (5, 70)] }
theorem test_hyp_links : ((crossing 2).link 2).up = true ∧ ((halfCrossed 2).link 2).up = true ∧
    (nextOnLink (crossing 2) 2).any (fun x => x.1 == 9 && decide (((crossing 2).link 2).partOf 9 + 1 < linkFlits x.2)) = true ∧
    (nextOnLink (halfCrossed 2) 2).any (fun x => x.1 == 9 && decide (linkFlits x.2 ≤ ((halfCrossed 2).link 2).partOf 9 + 1)) = true ∧
    linkOutside 2 = false ∧ linkOutside 26 = true ∧ ((halfCrossed 26).link 26).up = true ∧
    (nextOnLink (halfCrossed 26) 26).any (fun x => x.1 == 9 && decide (linkFlits x.2 ≤ ((halfCrossed 26).link 26).partOf 9 + 1)) = true ∧
    (arrivingOut.link 18).up = true ∧ nextOnLink arrivingOut 18 = none ∧
    arrivingOut.portIn.find? (fun p => p.link == some 18) = some arrivingPkt ∧
    linkFlits arrivingPkt ≤ (arrivingOut.link 18).partOf 0 + 1 ∧
    (5, 70) ∈ (window.die 0).windowFlits ∧ (∀ q ∈ (window.die 0).windowFlits, q ≠ (5, 70) → q.2 < 70) ∧
    ((State.reset.modDie 0 fun d => { d with holdtr := true }).die 0).holdtr = true ∧ State.reset.net = [] := by decide +kernel
/-- A link whose retrain has failed twice; a port with its key and without. -/
def failing2 : State := State.reset.modDie 0 fun d => { d with links := [(2, { lst := 1, failed := 2 })] }
theorem test_hyp_training : (failing2.link 2).lst = 1 ∧ (failing2.link 2).failed = 2 ∧ (State.reset.link 2).lst ≠ 4 ∧
    (State.reset.link 2).lst ≠ 5 ∧ linkKeyed State.reset 2 = true ∧ (State.reset.die 0).halted = false ∧
    linkKeyed (State.reset.modDie 0 fun d => { d with keyG := false }) 18 = false := by decide +kernel
/-- The word of ADD where core 0 fetches next. -/
def addFetch : State := State.reset.withFetchWord 96 (encode (.add .wrap waddO)).toNat
theorem test_hyp_stepRunsDecoded : let s := addFetch
    s.due = [] ∧ s.pending = [] ∧ s.inputs = [] ∧ s.portIn = [] ∧ s.todo = [0] ∧ coreRuns s 0 = true ∧ coreFenced s 0 = false ∧
    (s.core 0).waveSlots.find (position s 0) = none ∧ (s.core 0).slots.find (position s 0) = some 1 ∧ turnOf s 1 true = .issue ∧
    (s.ctx 1).notices = [] ∧ (s.ctx 1).savedTiles = [] ∧
    (decodeAt false (encode (.add .wrap waddO)) (s.ctx 1).pc).isSome = true ∧ Instr.privInfo (.add .wrap waddO) = none ∧
    (let u := ({ s with todo := [], cur := 1 } : State).modMe (Claims.Opened 1)
     mayLose [.add .wrap waddO] u = false ∧ unitPositions u u.me [.add .wrap waddO] ≤ 1) := by decide +kernel
theorem test_hyp_stepFetched :
    Claims.fetched { addFetch with todo := [], cur := 1 } fetchTlb [encode (.add .wrap waddO)] := by
  refine ⟨?_, ?_, ?_, ?_, ?_⟩ <;> decide +kernel
theorem test_hyp_decodeEncode : (Instr.fields (.add .wrap waddO)).isSome = true ∧ (Instr.add .wrap waddO).wf false = true ∧
    (Instr.fields .wend).isSome = true ∧ Instr.wf true .wend = true := by decide +kernel
theorem test_hyp_memory : Memory.wf [(3, 7), (9, 1)] = true ∧ Memory.wf State.reset.mem = true := by decide +kernel
theorem test_hyp_stepKeepsMemory : Memory.wf base.mem = true ∧ (match step base with | .next _ => true | _ => false) = true := by
  decide +kernel
theorem test_hyp_flagsSticky : let s := on fun c => { c with flags := { c.flags with b := true, o := true } }
    (Instr.fields (.flagsWrite (.s 0))).any (fun f => decide ((bits f.opc 5 3).toNat ≤ 5)) = true ∧ s.me.flags.b = true ∧
    s.me.flags.o = true ∧ (match exec (.flagsWrite (.s 0)) s with | .next t => t.me.flags.b && t.me.flags.o | _ => false) = true := by
  decide +kernel

/-! ### Queue ends, loops, handlers -/

/-- The registers and forms of the instructions of one source: D is s2, A is q1, and the other way round. -/
def oneOf (a d : Spec) : List (Instr × (Word → Claims.Alu) × Bool) := Claims.oneSource a d true true 5 7 8 .w16
theorem test_oneSource_wf : ((oneOf (.q 1) (.s 2)) ++ oneOf (.s 1) (.q 1)).all (fun p => Instr.wf false p.1) = true := by
  decide +kernel
/-- `queued` with this queue 1 in this stage, as replica r. -/
def queuedAs (q : StageQ) (g : StageSt) (r : Nat) : State :=
  (queued.modMe fun c => { c with stage := some g, ident := { c.ident with replica := BitVec.ofNat 64 r } }).modCore 0 fun k =>
    { k with queues := k.queues.put 1 q }
def repStage : StageSt :=
  { rep := true, input := some 1, output := some 1, regs := [{ val := 8, st := .full }], pushed := true, popped := true }
def oneEntry (eos : Bool) : StageQ := { depth := 4, entries := [{ tag := 0, val := 9, eos, ready := 0 }] }
/-- What a pop and a push of queue 1 need, but for its first entry. -/
def mayPop (s : State) : Bool :=
  s.me.phase == 0 && s.me.view.isNone && s.me.popped.isEmpty && s.me.popIx == 0 &&
    s.me.stage.all (fun g => !(g.rep && g.popped && !g.pushed)) &&
    ((s.core s.me.coreNo).queues.find 1).any fun q => s.me.ofStage q q.cons
def firstOf (s : State) : Option QEntry :=
  ((s.core s.me.coreNo).queues.find 1).bind fun q => q.entries.find? fun e => e.tag == q.expect && decide (e.ready ≤ s.cycle)
theorem test_hyp_queuePops :
    [queued, queuedAs (oneEntry false) repStage 0, queuedAs (oneEntry true) repStage 0, queuedAs (oneEntry true) repStage 1,
      queuedAs { depth := 4 } repStage 0].all mayPop = true ∧
    (firstOf queued).any (fun e => !e.eos) = true ∧ (queued.me.popsTag 0).regSt (.s 2) = .dead ∧
    (firstOf (queuedAs (oneEntry false) repStage 0)).any (fun e => !e.eos) = true ∧
    ((queuedAs (oneEntry false) repStage 0).me.popsTag 0).regSt (.s 2) = .dead ∧
    (firstOf (queuedAs (oneEntry true) repStage 0)).any (·.eos) = true ∧
    (queuedAs (oneEntry true) repStage 0).me.ident.replica = 0 ∧ (queuedAs (oneEntry true) repStage 0).me.replicable = true ∧
    (firstOf (queuedAs (oneEntry true) repStage 1)).any (·.eos) = true ∧
    (queuedAs (oneEntry true) repStage 1).me.ident.replica ≠ 0 ∧ firstOf (queuedAs { depth := 4 } repStage 0) = none := by
  decide +kernel
/-- A queue of depth 1 that holds its one entry. -/
def fullQueue : State := queuedAs { depth := 0 } { rep := false, input := none, output := some 1 } 0
theorem test_hyp_queuePushes : let r := queuedAs { depth := 4 } { repStage with pushed := false, tag := 3 } 0
    [queued, r, fullQueue].all (fun s => s.me.regSt (.s 1) == .full && s.me.stage.all (fun g => !(g.rep && g.pushed)) &&
      ((s.core 0).queues.find 1).any fun q => q.sender.isNone && s.me.ofStage q q.prod) = true ∧
    ((0 : BitVec 16) - 0).toNat < 4 ∧ ((3 : BitVec 16) - 0).toNat < 4 ∧ 0 ≤ ((0 : BitVec 16) - 0).toNat := by decide +kernel
theorem test_hyp_queueFaults : states.me.regSt (.s 1) = .dead ∧
    (let t := states.modMe fun c => c.putS 5 1
     t.me.regSt (.s 5) = .full ∧ t.me.regSt (.s 2) ≠ .full ∧ t.me.regSt (.s 2) ≠ .dead ∧ t.me.regSt (.s 4) = .broken) := by
  decide +kernel
theorem test_hyp_reservedConditions : let g := Fields.unpack 0x18A0000A0F00000000000000
    g.opc = 0x18 ∧ g.var = 10 := by decide +kernel

/-- The page of `targets` without its X bit (R116). -/
def noFetch : State :=
  targets.modCore 0 fun c => { c with tlb := c.tlb.map fun t => { t with e := t.e - BitVec.ofNat 128 (2 ^ 19) } }
theorem test_hyp_targetDenied : pcShape (branchTarget noFetch.me.pc ⟨1, 2⟩) = true ∧
    ((tlbFind noFetch.me.pages 0 0x10042).or (tlbFind (noFetch.core 0).tlb 0 0x10042)).any
      (fun t => !permitted noFetch.me.priv .fetch t.e) = true ∧
    targets.codeReady fetchTlb 0x10042 = true ∧ targets.codeReady fetchTlb 0x10041 = true := by decide +kernel

/-- A LOOP level of these counts and this end. -/
def lv (n : Word) (stop : Pc) (q : Option (BitVec 2)) : LoopLv := { count := n, start := 0x40, stop, active := true, queue := q }
theorem test_hyp_turned : (Claims.turned (lv 2 3 none) 3).any (·.2) = true ∧ (Claims.turned (lv 1 3 none) 3).any (fun p => !p.2) = true ∧
    (Claims.turned (lv 1 3 (some 0)) 3).any (·.2) = true ∧ Claims.turned (lv 2 4 none) 3 = none ∧
    ({ loop0 := lv 2 3 none, head := 3 } : Ctx).leave = none ∧
    Claims.turned ({ loop0 := lv 2 3 none, head := 3 } : Ctx).loop1 3 = none ∧
    (let c : Ctx := { loop1 := lv 1 3 none, loop0 := lv 1 3 none, head := 3 }
     (∀ l, Claims.turned c.loop1 c.head ≠ some (l, true)) ∧ ∀ m, Claims.turned c.loop0 c.head ≠ some (m, true)) := by
  refine ⟨by decide +kernel, by decide +kernel, by decide +kernel, by decide +kernel, rfl, by decide +kernel, ?_, ?_⟩ <;>
    intro l h <;> exact absurd (show some false = some true from congrArg (Option.map Prod.snd) h) (by decide)
/-- The end token of queue 1 in the body of a LOOPQ of level 1, of level 0, and of none. -/
def atToken (l1 l0 : Option (BitVec 2)) : State :=
  (queuedAs (oneEntry true) { rep := false, input := some 1, output := some 1 } 0).modMe fun c =>
    { c with loop1 := lv 3 0x10003 l1, loop0 := lv 3 0x10004 l0 }
theorem test_hyp_endToken : [atToken (some 1) none, atToken none (some 1), atToken none none].all (fun s => mayPop s &&
      !s.me.replicable && (firstOf s).any (·.eos) && s.me.ident.replica == 0 && s.me.regSt (.s 2) == .dead &&
      s.me.loop1.active && s.me.loop0.active) = true := by decide +kernel

/-- A handler at a slot of no TGT bit, at a slot of 5, and in a page that is not mapped. -/
def handledAt (a : Pc) : State := targets.modMe fun c => { c with ctl := { c.ctl with thnd := a } }
theorem test_hyp_badHandler : [handledAt 0x10041, handledAt 0x10045, handledAt 0x70000].all (fun s =>
      s.me.ctl.thnd != 0 && s.me.ctl.tcause == 0) = true ∧ pcShape (0x10041 : Pc) = true ∧ pcShape (0x10045 : Pc) = false ∧
    (peek (handledAt 0x10041) 0 0 0x10041).any (fun t => permitted false .fetch t.e &&
      !tgtBit (homeLine (handledAt 0x10041) t.e (t.pa 0x10041)) 1) = true ∧
    peek (handledAt 0x70000) 0 0 0x70000 = none := by decide +kernel
theorem test_hyp_reservationConflicts : (Spec.s 4).isDeposit = true ∧ states.me.view = none ∧
    (let t := states.modMe fun c => c.putS 5 1
     starts (.rsv (.s 4) (.s 5)) t = true ∧ t.me.regSt (.s 4) ≠ .full ∧ t.me.regSt (.s 4) ≠ .dead ∧
       (DeadMask.regs (.sv 0 6)).find? (fun r => !(t.me.regSt r == .full || t.me.regSt r == .dead)) = some (.s 2)) := by
  decide +kernel

/-! ### The core path and the join path: requests, refusals, evictions -/

/-- `paged` with no row left to the L1. -/
def noL1 : State := withRegion 0 1 0 2048 paged
theorem test_hyp_storesHome : l1Share 0 (noL1.core 0) = 0 ∧ starts (.st .w16 (.s 1) (.s 2) 6) noL1 = true ∧
    noL1.maps .store 0x20006 paged2 = true ∧ openAt noL1 .store paged2 true 0x20000 = true ∧
    starts (.stv ldvO) noL1 = true ∧ noL1.mask (.s 0) ≠ 0 ∧
    lines2.all (fun l => noL1.maps .store l paged2 && openAt noL1 .store paged2 true l) = true ∧
    (let loaded := withData (.stv ldvO) [1] [] noL1
     runs (.stv ldvO) loaded = true ∧ loaded.me.phase = 1 ∧ answered loaded = true ∧ loaded.me.held = [1]) := by decide +kernel
/-- Row 17 of `pads` under a read mark of path 2, or empty. -/
def drains (m : List Mark) (full : Bool) : State :=
  { (pads.modCore 0 fun c => c.setFill 17 { full, bound := some 0x77 }) with marks := m }
def readMark : Mark := { unit_ := .row 0 17, path := 2, write := false, cx := 5, op := 4 }
theorem test_hyp_drain : [drains [] true, drains [readMark] true, drains [{ readMark with write := true }] true, drains [] false].all
      (fun s => starts (.drain true (.s 3) 0) s && ((s.core 0).regionOf 17).any (fun g => g.shared && g.cxid == s.me.cxid)) = true ∧
    ((drains [readMark] true).marks.any fun m => m.unit_ == .row 0 17 && m.path != 0 && !m.write) = true ∧
    ((drains [{ readMark with write := true }] true).marks.any fun m => m.unit_ == .row 0 17 && m.path != 0 && !m.write) = false ∧
    ((drains [] true).core 0).fillOf 17 = { full := true, bound := some 0x77 } ∧ (((drains [] false).core 0).fillOf 17).full = false := by
  decide +kernel
/-- A request that carries bytes 6 and 7 of its line. -/
def storeAsked : State :=
  { asked with net := [(3, { atHome0 .lineReq 1 0x20000 (leafE 0 2 3 0 0 2 1) with
      flag := true, words := [0xC0], data := List.replicate 64 9 })] }
theorem test_hyp_storeRequest : (storeAsked.net.find 3).any (fun p => p.arrived && p.flag && !flowBlocked storeAsked 3 p &&
      p.cx != nobody && storeAsked.here p.pa && (firstLasting storeAsked (lineUnits storeAsked (p.dst - 4096) p.pa false)).isNone &&
      !anyFenced storeAsked (lineUnits storeAsked (p.dst - 4096) p.pa false) && !Leaf.const p.e &&
      !markBlocks storeAsked (.line p.pa) p.ord true && !heldBehind storeAsked (.line p.pa) p.ord p.cx p.op true) = true ∧
    Memory.wf storeAsked.mem = true := by decide +kernel
/-- A core of 1792 region rows, whose 512 lines of L1 are full; the last of them may be dirty. -/
def fullL1 (dirty : Bool) : State :=
  let l (k : Nat) : L1Line := { va := BitVec.ofNat 56 (0x400000 + 64 * k), asid := 0, cxid := 1, own := true, pa := 0x400000 + 64 * k, data := 0 }
  let s := (withRegion 0 1 0 1792 asked).modCore 0 fun c =>
    { c with l1 := (List.range 511).map l ++ [{ l 600 with dirty, data := 5 }] }
  { s with net := [(3, { atHome0 .lineResp 1 0x20000 (leafE 0 2 3 0 0 2 1) with dst := 0, data := List.replicate 64 7 })] }
theorem test_hyp_eviction : [false, true].all (fun d => let s := fullL1 d
    l1Share 0 (s.core 0) == 512 && (s.core 0).l1.length == 512 && (s.ctx 1).waits.contains 8 &&
      (s.core 0).l1.all (fun z => !z.same { va := 0x20000, asid := 0, cxid := 1, own := true, pa := 0x20000, data := 0 }) &&
      (s.core 0).l1.getLast?.any (fun y => s.here y.pa && y.dirty == d)) = true ∧ cacheable (leafE 0 2 3 0 0 2 1) = true := by
  decide +kernel

theorem test_hyp_joinSendWait :
    Instr.wf false (.jst .maxu true (.s 1) (.s 2) 4) = true ∧ starts (.jst .maxu true (.s 1) (.s 2) 4) lattices = true ∧
    Instr.wf false (.bump false true (.s 3) (.s 4) 8) = true ∧ starts (.bump false true (.s 3) (.s 4) 8) lattices = true ∧
    Instr.wf false (.jstv .maxu true (.s 1) 1 (.s 2) 0) = true ∧ starts (.jstv .maxu true (.s 1) 1 (.s 2) 0) lattices = true ∧
    lattices.mask (.s 2) ≠ 0 ∧ lattices.mask (.s 6) = 0 ∧ starts (.jstv .maxu true (.s 1) 1 (.s 6) 0) lattices = true ∧
    lattices.me.waits = [] ∧ Instr.wf false (.tfill true (.s 5) (.s 6) .t8 .int8) = true ∧
    starts (.tfill true (.s 5) (.s 6) .t8 .int8) lattices = true := by decide +kernel

/-- A TRD.W whose limit has ended. -/
def trdExpired : State :=
  (withData (.trd true (.vals 2 0) (.s 10) (.s 1) 4) [] [] lattices).modMe fun c => { c with expired := true }
/-- XRDV and XRDT with their two lines, or their one, answered. -/
def xrdvIn : State :=
  (withData (.xrdv ⟨.i32, false, .rne, 2, .s 1, .s 0, 0⟩) [32, 3, 0] [] lattices).modMe fun c =>
    { c with
      waits := [8, 9]
      answers := [(8, { words := [BitVec.allOnes 64], data := List.replicate 64 3 }), (9, { words := [0x0F], data := List.replicate 64 5 })] }
def tile6 : Entry := leafE 8 0 1 1 0 6 0
def xrdtIn (shared : Bool) : State :=
  (withData (.xrdt .raw false (.s 6) (.s 5) .rne) [64, if shared then 1 else 0, bits tile6 0 64, bits tile6 64 64] [] lattices).modMe
    fun c => { c with waits := [8], answers := [(8, { words := [1], data := List.replicate 64 4 })] }
theorem test_hyp_exactAnswers :
    (runs (.trd true (.vals 2 0) (.s 10) (.s 1) 4) trdExpired = true ∧ trdExpired.me.phase = 1 ∧ trdExpired.me.expired = true ∧
      trdExpired.me.ctl.thnd = 0) ∧
    (let o : LvOp := ⟨.i32, false, .rne, 2, .s 1, .s 0, 0⟩
     runs (.xrdv o) xrdvIn = true ∧ answered xrdvIn = true ∧ xrdvIn.me.phase = 1 ∧
       xrdvIn.me.held = [32, (Fmt.code .int32).setWidth 64, 0]) ∧
    [false, true].all (fun b => let s := xrdtIn b
      runs (.xrdt .raw false (.s 6) (.s 5) .rne) s && answered s && s.me.phase == 1 && s.padOpen 1 0 64 true) = true := by
  decide +kernel
/-- Past the end of a list stands the default. -/
theorem getD_past {α : Type} (d : α) : ∀ (l : List α) (n : Nat), l.length ≤ n → l.getD n d = d
  | [], _, _ => rfl
  | _ :: _, 0, h => absurd h (Nat.not_succ_le_zero _)
  | _ :: l, n + 1, h => getD_past d l n (Nat.le_of_succ_le_succ h)
theorem no_answer (s : State) (n : Nat) (h : (s.me.waits.filterMap fun w => s.me.answers.find w).length ≤ n) :
    ∀ w ∈ (s.answer n).words.drop 1, w = 0 :=
  have past : s.answer n = {} := getD_past _ _ _ h
  have empty : (s.answer n).words.drop 1 = [] := congrArg (fun a : Ans => a.words.drop 1) past
  fun _ hw => absurd (empty ▸ hw) List.not_mem_nil
theorem xrdv_answers : (xrdvIn.me.waits.filterMap fun w => xrdvIn.me.answers.find w).length = 2 := by decide +kernel
theorem xrdv_words : (xrdvIn.answer 0).words.drop 1 = [] ∧ (xrdvIn.answer 1).words.drop 1 = [] := by decide +kernel
theorem xrdt_answers : ∀ b, ((xrdtIn b).me.waits.filterMap fun w => (xrdtIn b).me.answers.find w).length = 1 := by decide +kernel
theorem xrdt_words : ∀ b, ((xrdtIn b).answer 0).words.drop 1 = [] := by decide +kernel
theorem test_hyp_exactWords : (∀ n, ∀ w ∈ (xrdvIn.answer n).words.drop 1, w = 0) ∧
    (∀ b n, ∀ w ∈ ((xrdtIn b).answer n).words.drop 1, w = 0) :=
  ⟨fun
    | 0, _, hw => absurd (xrdv_words.1 ▸ hw) List.not_mem_nil
    | 1, _, hw => absurd (xrdv_words.2 ▸ hw) List.not_mem_nil
    | _ + 2, w, hw => no_answer _ _ (by rw [xrdv_answers]; omega) w hw,
   fun
    | b, 0, _, hw => absurd (xrdt_words b ▸ hw) List.not_mem_nil
    | b, _ + 1, w, hw => no_answer _ _ (by rw [xrdt_answers]; omega) w hw⟩
/-- `lattices` with a wait limit of 5. -/
def limited : State := lattices.modMe fun c => { c with ctl := { c.ctl with waitlim := 5 } }
theorem test_hyp_limitRequest : let t := tlbOf 3 (leafE 2 2 3 0 0 3 0)
    starts (.trd true (.vals 2 0) (.s 10) (.s 1) 4) limited = true ∧ limited.maps .wait 0x30004 t = true ∧
    limited.pageLets .trd t = true ∧ triggersValid (Loc.ofTlb t 0x30004) (some [9]) = true ∧ limited.me.ctl.waitlim ≠ 0 := by
  decide +kernel
/-- The pages of `lattices` by address. -/
def xlat (a : Pc) : Tlb := if a.toNat / 65536 = 6 then tlbOf 6 tile6 else tlbOf 3 (leafE 2 2 3 0 0 3 0)
def xo : LvOp := ⟨.i32, false, .rne, 2, .s 1, .s 0, 0⟩
theorem test_hyp_exactRequests :
    (Instr.wf false (.xrd true (.s 10) (.s 1) 4) = true ∧ starts (.xrd true (.s 10) (.s 1) 4) lattices = true ∧
      lattices.maps .wait 0x30004 (xlat 0x30004) = true ∧ lattices.pageLets .xrd (xlat 0x30004) = true) ∧
    (starts (.xrdv xo) lattices = true ∧ laneLines .i32 .int32 32 (lattices.mask (.s 0)) 0x30000 = [0x30000, 0x30040] ∧
      [(0x30000 : Pc), 0x30040].all (fun l => lattices.maps .wait l (xlat l) && lattices.pageLets .xrd (xlat l)) = true ∧
      lattices.mask (.s 0) ≠ 0 ∧ Leaf.fmt? (xlat 0x30000).e = some .int32 ∧ loadOk .i32 .int32 32 = true) ∧
    (let i : Instr := .xrdt .raw false (.s 6) (.s 5) .rne
     Instr.wf false i = true ∧ starts i lattices = true ∧ Leaf.tileSize tile6 = 64 ∧ Leaf.tgCode tile6 ≠ 0 ∧
       Leaf.bounded tile6 = false ∧ linesOf 0x60000 64 = [0x60000] ∧ lattices.maps .wait 0x60000 (xlat 0x60000) = true ∧
       lattices.pageLets .xrd (xlat 0x60000) = true ∧ (Fmt.ofCode (Leaf.fmtCode tile6)).getD .raw ≠ .bq16 ∧
       (lattices.padRegion 0 64 1).any (fun g => !g.shared) = true) := by decide +kernel
theorem xlat_pages : ([(0x30000 : Pc), 0x30000, 0x30040].all fun a => xlat a == xlat 0x30000) = true := by
  decide +kernel
theorem test_hyp_exactAgree3 : Claims.agree lattices xlat [0x30000, 0x30000, 0x30040] := fun a ha b hb _ =>
  have same (x : Pc) (h : x ∈ [(0x30000 : Pc), 0x30000, 0x30040]) : xlat x = xlat 0x30000 :=
    eq_of_beq (List.all_eq_true.mp xlat_pages x h)
  (same a ha).trans (same b hb).symm
theorem test_hyp_exactAgree6 : Claims.agree lattices xlat [0x60000, 0x60000] := fun a ha b hb _ => by
  simp only [List.mem_cons, List.not_mem_nil, or_false, or_self] at ha hb
  rw [ha, hb]

/-- `lattices` with 128 in s2, and pages 2 private, 8 published and 9 CONST. -/
def freezing : State :=
  withPage 9 (leafE 2 2 3 0 0 9 0 + 2 ^ 16) (withPage 8 (leafE 1 2 3 0 1 8 0) (withPage 2 (leafE 0 2 3 0 0 2 1)
    (sregs [(2, 128), (11, 0x20000), (12, 0x80000), (13, 0x90000)] lattices)))
theorem test_hyp_freeze : let t := tlbOf 3 (leafE 2 2 3 0 0 3 0)
    starts (.fix (.s 1) 4) freezing = true ∧ freezing.maps .freeze 0x30004 t = true ∧ freezing.pageLets .fix t = true ∧
    settledStores freezing = true ∧ Instr.wf false (.fixr (.s 1) (.s 2)) = true ∧ starts (.fixr (.s 1) (.s 2)) freezing = true ∧
    freezing.maps .freeze 0x30000 t = true ∧ (Loc.ofTlb t 0x30000).unitBytes = 64 ∧ (freezing.val (.s 2)).toNat = 128 := by
  decide +kernel
theorem test_hyp_freezeRefused : [(11, 2, leafE 0 2 3 0 0 2 1), (12, 8, leafE 1 2 3 0 1 8 0), (13, 9, leafE 2 2 3 0 0 9 0 + 2 ^ 16)].all
    (fun p : BitVec 5 × Nat × Entry => let va : Pc := BitVec.ofNat 56 (65536 * p.2.1)
      Instr.wf false (.fix (.s p.1) 0) && starts (.fix (.s p.1) 0) freezing && freezing.maps .freeze va (tlbOf p.2.1 p.2.2) &&
      starts (.fixr (.s p.1) (.s 2)) freezing && (Leaf.jt p.2.2 == .priv || Leaf.jt p.2.2 == .publ || Leaf.const p.2.2)) = true ∧
    Leaf.jt (leafE 12 2 3 0 0 2 1) = .bpriv := by decide +kernel
/-- `handing` with chip 5 in the chip route table. -/
def twoChips : State := (handing.modDie 0 fun d => { d with crtb := 0x40001 }).writeNat 0x40005 1 0x80
theorem test_hyp_handOffFar : otherChips (Claims.rewritten 0 paged2 (pubEntry paged2.e) twoChips) = [5] ∧
    otherChips (Claims.rewritten 0 paged2 (pubEntry paged2.e) handing) = [] ∧
    starts (.pub (.s 1) (.s 2)) twoChips = true ∧ starts (.xfer (.s 1) (.s 2) (.s 10)) twoChips = true ∧
    twoChips.maps .handoff 0x20000 paged2 = true ∧ twoChips.pageLets .pub paged2 = true ∧ twoChips.pageLets .xfer paged2 = true ∧
    twoChips.me.unf = 0 ∧ settledStores twoChips = true ∧ twoChips.me.waits = [] ∧ twoChips.me.pages = [] ∧
    twoChips.here paged2.at_ = true ∧ writingBack twoChips (fun _ => true) = false ∧ handing.me.pages = [] ∧
    handing.here paged2.at_ = true ∧ writingBack handing (fun _ => true) = false ∧
    (twoChips.core 0).l1.all (fun l => twoChips.here l.pa) = true ∧
    (let s := answeredBy (.pub (.s 1) (.s 2)) 2 {} handing
     runs (.pub (.s 1) (.s 2)) s = true ∧ s.me.phase = 2 ∧ answered s = true ∧ runs (.xfer (.s 1) (.s 2) (.s 10)) s = true) := by
  decide +kernel
/-- `handing` with a page of another owner, and with no CXID in s10. -/
def notMine : State := withPage 2 (leafE 0 2 3 0 0 2 5) handing
def noCxid : State := sregs [(10, 0xFFFFF)] handing
theorem test_hyp_handOffNotMine : starts (.pub (.s 1) (.s 2)) notMine = true ∧ starts (.xfer (.s 1) (.s 2) (.s 10)) notMine = true ∧
    notMine.maps .handoff 0x20000 (tlbOf 2 (leafE 0 2 3 0 0 2 5)) = true ∧ notMine.me.unf = 0 ∧ (notMine.val (.s 2)).toNat ≠ 0 ∧
    Leaf.owner (leafE 0 2 3 0 0 2 5) ≠ notMine.me.cxid ∧ starts (.xfer (.s 1) (.s 2) (.s 10)) noCxid = true ∧
    noCxid.maps .handoff 0x20000 paged2 = true ∧ noCxid.pageLets .xfer paged2 = true ∧ noCxid.me.unf = 0 ∧
    (noCxid.val (.s 2)).toNat = 2 ^ 16 ∧ 0xFFFFE < (noCxid.val (.s 10)).toNat := by decide +kernel

def constLoc : Loc := Loc.ofTlb (tlbOf 9 (leafE 2 2 3 0 0 9 0 + 2 ^ 16)) 0x90004
theorem test_hyp_joinHomeEdges : Leaf.const constLoc.e = true ∧ [maxLoc, fillLoc, cntLoc, frozenLoc].all (fun x => !Leaf.const x.e) = true ∧
    Leaf.jt cntLoc.e = .cnt ∧ Leaf.ew cntLoc.e = 64 ∧ 64 ≤ (64 : Word).toNat ∧ Leaf.ew frozenLoc.e = 32 := by decide +kernel

/-! ### Element functions, verifications, messages -/

theorem test_hyp_vectorMinMax : LaneT.f32.isFloat = true ∧ (LaneT.f32.num.value 0x80000000).isNan = false ∧
    (LaneT.f32.num.value 0).isNan = false ∧ ((LaneT.f32.num.value 0x80000000).before (LaneT.f32.num.value 0)) = true ∧
    0x80000000 < 2 ^ LaneT.f32.w := by decide +kernel
theorem test_hyp_avfyAccepted : Instr.wf false (.avfy (.s 2) (.s 1) (.s 3) 0 1) = true ∧
    starts (.avfy (.s 2) (.s 1) (.s 3) 0 1) mine = true ∧ (mine.arr 1).queue.length < 4 ∧
    Claims.rowsRead mine (mine.val (.s 1)) 4 = true ∧ Claims.rowsPrivate mine (mine.val (.s 1)) 4 := by
  refine ⟨by decide +kernel, by decide +kernel, by decide +kernel, by decide +kernel, fun k hk => ?_⟩
  obtain rfl | rfl | rfl | rfl : k = 0 ∨ k = 1 ∨ k = 2 ∨ k = 3 := by omega
  all_goals exact ⟨_, rfl, rfl, rfl⟩
/-- s14 with a bit above a row address, s15 with the name of no core. -/
def misnamed : State := sregs [(14, 0x4000000000), (15, 0xA0003FF)] msgs
theorem test_hyp_messageRefused :
    [Spec.s 14, .s 15].all (fun r => (bits (misnamed.val r) 38 26 != 0 || !namesCore (bits (misnamed.val r) 18 20))
      && (Rect.of? (misnamed.val r)).isNone && starts (.synst r (.v 1) (.s 0) rawW) misnamed
      && Instr.wf false (.synld (.v 3) r (.s 0) rawW) && starts (.synld (.v 3) r (.s 0) rawW) misnamed
      && starts (.mcastRow r (.v 1) (.s 0) 128 rawW) misnamed && starts (.mcastQ r (.s 2) (.s 0) 1 rawW) misnamed) = true := by
  decide +kernel
theorem test_hyp_rowTakes : Claims.rowTakes (rowAt .row 16) (((rowAt .row 16).net.find 9).getD { kind := .row }) 16
      (match ((rowAt .row 16).core 0).fill 16 (Row.splat 6) 0x77 with | .ok c => c | _ => {}) ∧
    rowWaits (rowAt .synld 17) 0 17 (((rowAt .synld 17).net.find 9).getD { kind := .row }) false = false ∧
    (rowAt .synld 17).net.find 9 ≠ none := by
  refine ⟨⟨?_, ?_, ?_⟩, ?_, ?_⟩ <;> decide +kernel

/-! ### Page operations -/

/-- `copying` with the memory of die 0 encrypted. -/
def encrypting : State := copying.modDie 0 fun d => { d with keyD := true }
theorem test_hyp_pageTransfers : let t3 := tlbOf 3 (leafE 0 2 3 0 0 3 1)
    Claims.rowTransfer copying paged2 t3 0x20000 0x30000 ∧ ¬Claims.rowTransfer encrypting paged2 t3 0x20000 0x30000 ∧
    starts (.dcopy 3 (.s 10) (.s 20)) encrypting = true ∧ (encrypting.cluster 0).copies = [] ∧
    encrypting.me.regSt (.s 3) = .full ∧ encrypting.marks = [] := by
  unfold Claims.rowTransfer; decide +kernel
/-- A DZERO in the engine: its rows cleared in one stack or through the homes, its answers come, and one of a frozen page. -/
def zeroRows : CopyCmd := { cmdPage [] with page := true, rowPair := true }
def zeroHomes : CopyCmd := { cmdPage [] with page := true }
def zeroDone : CopyCmd := { zeroHomes with phase := .writing }
def zeroFrozen : CopyCmd :=
  { cmdPage [] with page := true, e := leafE 2 2 3 0 1 3 1, dst := pageLines (tlbOf 3 (leafE 2 2 3 0 1 3 1)) 0x30000 }
/-- A DCOPY through the homes whose lines are written. -/
def rawDone : CopyCmd :=
  { cmdPage (pageLines paged2 0x20000) with page := true, phase := .writing, shape := some (Claims.rawPage 0x20000 0x30000) }
theorem test_hyp_pageEvents :
    [zeroRows, zeroHomes, zeroDone, zeroFrozen, rawDone, cmdPage (pageLines paged2 0x20000)].all (fun c => c.id == 8 && c.left == 0 && c.refused.isEmpty &&
      c.sCore == 0 && c.dCore == 0 && (c.src ++ c.dst).all fun l => (engaged c).here l.pa) = true ∧
    [zeroRows, zeroHomes, zeroDone].all (fun c => c.dst.all fun l => !Leaf.lattice l.e) = true ∧
    (zeroRows.phase ≠ .writing ∧ zeroHomes.phase ≠ .writing ∧ zeroFrozen.phase ≠ .writing) ∧
    (zeroRows.rowPair, zeroHomes.rowPair) = (true, false) ∧ pageFrozen (engaged zeroFrozen) zeroFrozen.dst zeroFrozen.size = true ∧
    (pageLines paged2 0x20000).length = (cmdPage []).dst.length := by decide +kernel

/-! ### Launch records of several dies, saved parts, replicas -/

/-- `recorded` with these dies in its record, and with die 1 on the same launch queue as die 0. -/
def shared1 (dies : Nat) : State :=
  let s := (recorded false).writeNat 0x60008 8 (0x0000010008420000 + dies * 2 ^ 44)
  s.modDie 1 fun _ => s.die 0
def words1 (dies : Nat) : List Word := recordWords.set 1 (BitVec.ofNat 64 (0x0000010008420000 + dies * 2 ^ 44))
theorem test_hyp_recordParts :
    (let r := LaunchRec.ofWords recordWords; decider (recorded false) 0 r = 0 ∧ decider (recorded true) 0 r = 0 ∧ bitAt r.dies 0 = true) ∧
    (queuedRecord (shared1 1) 1 0 0x60000 = some (words1 1, false) ∧ (LaunchRec.ofWords (words1 1)).dies ≠ 0 ∧
      bitAt (LaunchRec.ofWords (words1 1)).dies 1 = false) ∧
    (queuedRecord (shared1 0) 1 0 0x60000 = some (words1 0, false) ∧ decider (shared1 0) 1 (LaunchRec.ofWords (words1 0)) ≠ 1 ∧
      bitAt (LaunchRec.ofWords (words1 0)).dies 1 = false) ∧
    (queuedRecord (shared1 3) 1 0 0x60000 = some (words1 3, false) ∧ bitAt (LaunchRec.ofWords (words1 3)).dies 1 = true ∧
      decider (shared1 3) 1 (LaunchRec.ofWords (words1 3)) = 0 ∧ ((shared1 3).die 0).nextRec ≤ 0 ∧ (shared1 3).groups = []) := by
  decide +kernel
/-- No core of a state keeps a part of a save image. -/
theorem noParts_of (s : State) (h : (s.cores.all fun p => p.2.spillMap.isEmpty) = true) (k key : Nat) : Claims.noParts s k key := by
  have find (m : Map Core) (hm : (m.all fun p => p.2.spillMap.isEmpty) = true) : (Map.getD m k {}).spillMap = [] := by
    induction m with
    | nil => rfl
    | cons p m ih =>
      simp only [Map.getD, Map.find, List.all_cons, Bool.and_eq_true] at ih hm ⊢
      split
      · simpa using hm.1
      · exact ih hm.2
  intro p hp
  have h0 : (s.core k).spillMap = [] := find s.cores h
  simp [h0] at hp
theorem test_hyp_noParts : [tasks, loaded, spilled1, replicas (some 0) none false].all
    (fun s => s.cores.all fun p => p.2.spillMap.isEmpty) = true ∧ tasks.me.leave = none ∧ (spilled1.ctx 101).image = false := by decide +kernel
/-- Replica 0 has quit; replica 1 is at the end token. -/
def lastReplica : State :=
  let s := replicas none (some 0) true
  (s.modCore 0 fun k => { k with queues := [(2, { depth := 4, prod := 0, cons := 1, group := some 3, entries := [{ tag := 0, val := 0, eos := true, ready := 0 }] })] }).modCtx
    101 fun c => { c with live := false, place := .nowhere, run := .ended }
theorem test_hyp_lastReplica : ((lastReplica.core 0).queues.find 2).any (fun q => (replicaZero lastReplica 0 2 q).isNone &&
      liveReplicas lastReplica 0 q == [(1, 113)] && q.entries.any (fun e => e.eos && e.tag == q.expect)) = true ∧
    (lastReplica.ctx 113).inPop 2 = true ∧ (lastReplica.ctx 113).ctl.stq = 0 ∧ (lastReplica.ctx 113).group = some 3 ∧
    (lastReplica.ctx 113).ident.replica ≠ 0 := by decide +kernel

/-! ### Streams with a WMMA, and the supervisor's answers -/

/-- `waving` with a WMMA in its stream, its matrix engine at this level. -/
def wavingM (n : Nat) : State :=
  (waving.writeLine 0x50000 (lineOf5 [.wmma false true true true true 0 10 11, .nop, .wend, .nop, .nop])).modCore 0 fun c =>
    { c with matrix := { c.matrix with level := n } }
/-- Its WBEGIN waits for the engines. -/
def wavingW (n : Nat) : State :=
  { ((wavingM n).modMe fun c => { c with phase := 2, held := [5], instr := some (wb (.s 11)) }) with
    streams := [(5, { wbase with h := 1, w := 1, phase := .loading, code := [⟨0x50000, [.nop]⟩], wmma := true })] }
theorem test_hyp_waveCode : (waving.maps .fetch 0x50000 wpage = true ∧ peek waving 0 waving.me.asid 0x50000 = some wpage ∧
      waving.codeReady wpage 0x50000 = true) ∧
    [wavingM 4, wavingM 2].all (fun s => starts (wb (.s 11)) s && s.maps .fetch 0x50000 wpage &&
      decide (peek s 0 s.me.asid 0x50000 = some wpage) && s.codeReady wpage 0x50000 &&
      (blockOf wbase (s.val (.s 11))).any fun t => badCore s t == none && buffersFree s t && t.cores.all (regionFree s t) &&
        !(s.die t.die).thr && (t.cores.all fun k => t.key k != 1) && hasWmma (wcode s t 0x50000 1) &&
        (wcode s t 0x50000 1).checkLine (homeLine s wpage.e (wpage.pa 0x50000)) 0x50000 == none) = true ∧
    (blockOf wbase (waving.val (.s 11))).any (fun t => t.cores == [0]) = true ∧
    (((wavingM 4).core 0).matrix.level, ((wavingM 2).core 0).matrix.level) = (4, 2) := by decide +kernel
theorem test_hyp_waveWmma : let us := WCode.units (homeLine (wavingM 4) wpage.e (wpage.pa 0x50000)) 0x50000
    (us.any fun u => u.instrs.any Claims.isWmma) = true := by decide +kernel
theorem test_hyp_waveRamped : runs (wb (.s 11)) (wavingW 4) = true ∧ (wavingW 4).me.phase = 2 ∧
    (wavingW 4).me.held = [BitVec.ofNat 64 5] ∧ (wavingW 4).nextId < 2 ^ 64 ∧ ((wavingW 4).streams.find 5).any (fun t => t.phase == .loading &&
      enginesReady (wavingW 4) t && t.cores.all fun k => t.key k != 1) = true := by decide +kernel

/-! ### The supervisor and the device again -/

/-- `bossA` with a route to chip 5; its TLBI has been answered; a LOAD of its own saved state. -/
def bossFar : State := (bossA.modDie 0 fun d => { d with crtb := 0x40001 }).writeNat 0x40005 1 0x80
def bossBack : State := bossFar.modMe fun c => { c with phase := 1, waits := [5], answers := [(5, {})] }
theorem test_hyp_invalidates : otherChips bossA = [] ∧ otherChips bossFar = [5] ∧
    [Instr.tlbi (.s 2) (.s 10), .tlbiAs (.s 2) (.s 10), .tlbiAll (.s 2) (.s 10)].all (fun i => starts i bossFar && runs i bossBack) = true ∧
    bossBack.me.phase = 1 ∧ answered bossBack = true ∧
    [TlbiScope.page, .asid, .all].all (fun k => !walksFor bossBack k 101 0x60000) = true ∧
    unmapped bossA (bossA.reclaimed.writeBytes 0x10C060 (bytesOf 16 (leafE 2 2 3 0 0 6 0))).reclaimed = [] ∧
    (∀ p ∈ (bossA.core 0).slots, (bossA.ctx p.2).quitting = false) ∧ (bossA.core 0).slots ≠ [] := by decide +kernel
theorem test_hyp_resumeSaved : starts (.resume false true (.s 1) (.s 11) (.s 0)) (boss saved1) = true ∧
    namedLive (boss saved1) (boss saved1 |>.val (.s 1)) = some 100 ∧ 100 ≠ (boss saved1).cur ∧
    ((boss saved1).ctx 100).place = .saved 0 ∧ ((boss saved1).ctx 100).priv = false := by decide +kernel
/-- A context with a report of a killed child to take. -/
def noticed : State := base.modMe fun c => { c with notices := [{ code := 0x4F, info := [9], src := 8 }] }
theorem test_hyp_notice : noticed.me.notices = [{ code := 0x4F, info := [9], src := 8 }] ∧ noticed.me.flags.ann = 0 ∧
    noticed.me.run = .ready ∧ noticed.cur = 1 := by decide +kernel
/-- An image of die 1, whose lower neighbour has not booted, and has. -/
def imaged1 : State := { State.reset with images := [(1, image)] }
def imaged1b : State := imaged1.modDie 0 fun d => { d with booted := true }
theorem test_hyp_boots : imageArrives imaged 0 = true ∧ imaged1.images.find 1 = some image ∧ imageArrives imaged1 1 = false ∧
    imageArrives imaged1b 1 = true ∧ (imaged1b.die 1).booted = false := by decide +kernel
/-- Dies 1 and 3 take no transit; a deposit, and a row, for a chip to which there is no route. -/
def noTransit : State :=
  let s := routed 0 2048 2
  (s.modDie 1 fun d => { d with holdtr := true }).modDie 3 fun d => { d with down := true }
def farDeposit : State :=
  { routed 0 0 2 with net := [(9, { kind := .deposit, op := 8, cx := 1, dst := 8195, words := [7, 1, 0, 1, 1], data := List.replicate 8 0 })] }
theorem test_hyp_noTransit : clusterOf 2048 / 160 = (0 + 2) % 4 ∧ takesTransit noTransit 1 = false ∧
    takesTransit noTransit 3 = false ∧ bitAt (farDeposit.die 0).crtb 0 = false := by decide +kernel
theorem mayMove_noTransit : Claims.mayMove noTransit 9
    { kind := .row, op := 8, cx := 1, dst := 2048, node := 0, kappa := 2, data := List.replicate 128 0 } :=
  ⟨rfl, rfl, rfl, by decide +kernel, rfl, by decide +kernel, show (1 : Nat) ≠ hostKey by decide, show PKind.row ≠ .control by decide,
    by simp [behindWriteBack, noTransit, routed, State.modDie], fun _ => rfl⟩
theorem allWork_deposit : Claims.allWork farDeposit :=
  allWork_of_quiet _ (show ∀ p ∈ (routed 0 0 0).dies, quiet p.2 = true by decide +kernel)
theorem mayMove_deposit : Claims.mayMove farDeposit 9
    { kind := .deposit, op := 8, cx := 1, dst := 8195, words := [7, 1, 0, 1, 1], data := List.replicate 8 0 } :=
  ⟨rfl, rfl, rfl, by decide +kernel, rfl, by decide +kernel, show (1 : Nat) ≠ hostKey by decide, show PKind.deposit ≠ .control by decide,
    by simp [behindWriteBack, farDeposit], fun _ => rfl⟩
/-- The alarm has halted die 0. -/
def haltedDie : State := State.reset.modDie 0 fun d => { d with halted := true }
theorem test_hyp_trainHalted : linkIx 2 < 16 ∧ linkKeyed haltedDie 2 = true ∧ (haltedDie.die 0).halted = true ∧
    (haltedDie.link 2).lst ≠ 4 ∧ (haltedDie.link 2).lst ≠ 5 := by decide +kernel
/-- A context that stands: its own, and another's beside the supervisor. -/
theorem standing_base : Claims.standing base 1 := by
  refine ⟨by decide, by decide +kernel, by decide +kernel, by decide +kernel, fun k => noParts_of base (by decide +kernel) k 1, ?_⟩
  intro g hg
  exact absurd (show g ∈ ([] : Map Group) from hg) (by simp)
theorem standing_boss : Claims.standing bossA 100 := by
  refine ⟨by decide, by decide +kernel, by decide +kernel, by decide +kernel, fun k => noParts_of bossA (by decide +kernel) k 100, ?_⟩
  intro g hg
  exact absurd (show g ∈ ([] : Map Group) from hg) (by simp)
theorem test_hyp_stickyAll : ((Instr.kill (.s 1)).fields).isSome = true ∧
    (match exec (.kill (.s 1)) bossA with | .next _ => true | _ => false) = true ∧ (Instr.killCleanup 100).fields = none ∧
    (match exec (.killCleanup 100) bossA with | .next _ => true | _ => false) = true ∧ ¬Claims.resumes bossA (.kill (.s 1)) 100 :=
  ⟨by decide +kernel, by decide +kernel, by decide +kernel, by decide +kernel, fun h => by
    obtain ⟨x, y, a, b, c, h⟩ := h.1
    cases h⟩

/-! ### Words written out from the encoding tables -/

/-- A word field by field: OPC, VAR, SKIP, MOD, D, A, B, C, X (R58). -/
def w96 (opc var skip md d a b c x : Nat) : W96 :=
  BitVec.ofNat 8 opc ++ BitVec.ofNat 4 var ++ BitVec.ofNat 2 skip ++ BitVec.ofNat 2 md ++ BitVec.ofNat 8 d ++ BitVec.ofNat 8 a
    ++ BitVec.ofNat 8 b ++ BitVec.ofNat 8 c ++ BitVec.ofNat 48 x
/-- The word decodes to the instruction in an ordinary context. -/
def reads (x : W96) (i : Instr) : Bool := (decode false x).toOption == some i
/-- The word decodes to the instruction in a stream. -/
def readsW (x : W96) (i : Instr) : Bool := (decode true x).toOption == some i
/-- A word that R59 refuses. -/
def bad (x : W96) : Bool := (decode false x).toOption == none

/-- R60, R152: register and immediate forms, .f, saturation. -/
theorem test_decode_binary :
    reads (w96 0x01 0x1 0 1 3 1 2 0 0) (.add .ss ⟨true, .s 3, .s 1, .reg (.s 2)⟩) = true ∧
    reads (w96 0x02 0xA 0 0 3 0x91 0 0 0xFFFFFFFFFFFE) (.sub .us ⟨false, .s 3, .id .cxid, .imm 0xFFFFFFFFFFFE⟩) = true ∧
    reads (w96 0x03 0x8 0 0 4 5 0 0 7) (.mul ⟨false, .s 4, .s 5, .imm 7⟩) = true ∧
    reads (w96 0x04 0x1 0 1 4 5 6 0 0) (.mulh true ⟨true, .s 4, .s 5, .reg (.s 6)⟩) = true ∧
    reads (w96 0x05 0x0 0 0 4 5 6 0 0) (.div false ⟨false, .s 4, .s 5, .reg (.s 6)⟩) = true ∧
    reads (w96 0x06 0x9 0 0 4 5 0 0 6) (.rem true ⟨false, .s 4, .s 5, .imm 6⟩) = true ∧
    reads (w96 0x07 0x0 0 0 4 5 0x80 0 0) (.and ⟨false, .s 4, .s 5, .reg (.id .die)⟩) = true ∧
    reads (w96 0x08 0x0 0 0 4 5 0x8E 0 0) (.or ⟨false, .s 4, .s 5, .reg (.id .orgk)⟩) = true ∧
    reads (w96 0x09 0x0 0 1 4 0x68 6 0 0) (.xor ⟨true, .s 4, .q 0, .reg (.s 6)⟩) = true ∧
    reads (w96 0x0A 0x8 0 0 0x6B 5 0 0 6) (.andn ⟨false, .q 3, .s 5, .imm 6⟩) = true := by decide +kernel
theorem test_decode_shifts :
    reads (w96 0x0B 0x8 0 0 4 5 0 0 63) (.shl ⟨false, .s 4, .s 5, .imm 63⟩) = true ∧
    reads (w96 0x0C 0x0 0 0 4 5 6 0 0) (.shr ⟨false, .s 4, .s 5, .reg (.s 6)⟩) = true ∧
    reads (w96 0x0D 0x8 0 1 4 5 0 0 1) (.sar ⟨true, .s 4, .s 5, .imm 1⟩) = true ∧
    reads (w96 0x0E 0x0 0 0 4 5 6 0 0) (.rotl ⟨false, .s 4, .s 5, .reg (.s 6)⟩) = true ∧
    reads (w96 0x0F 0x1 0 0 4 5 6 0 0) (.min true ⟨false, .s 4, .s 5, .reg (.s 6)⟩) = true ∧
    reads (w96 0x10 0x8 0 0 4 5 0 0 9) (.max false ⟨false, .s 4, .s 5, .imm 9⟩) = true ∧
    bad (w96 0x0B 0x8 0 0 4 5 0 0 64) = true ∧ bad (w96 0x01 0x3 0 0 4 5 6 0 0) = true ∧
    bad (w96 0x01 0x0 0 2 4 5 6 0 0) = true ∧ bad (w96 0x01 0x0 1 0 4 5 6 0 0) = true ∧
    bad (w96 0x01 0x0 0 0 0x80 5 6 0 0) = true ∧ bad (w96 0x01 0x8 0 0 4 5 6 0 0) = true ∧ bad (w96 0x01 0 0 0 4 0x87 6 0 0) = true := by
  decide +kernel
/-- R152, R154, R61. -/
theorem test_decode_unary :
    reads (w96 0x11 0 0 0 4 5 0 0 0) (.clz (.s 4) (.s 5)) = true ∧ reads (w96 0x12 0 0 0 4 5 0 0 0) (.popc (.s 4) (.s 5)) = true ∧
    reads (w96 0x13 1 0 0 4 5 0 0 (7 * 64 + 56)) (.bfx true (.s 4) (.s 5) 7 56) = true ∧
    reads (w96 0x14 0 0 0 4 5 0 0 (63 * 64)) (.bfi (.s 4) (.s 5) 63 0) = true ∧
    bad (w96 0x13 1 0 0 4 5 0 0 (8 * 64 + 56)) = true ∧
    reads (w96 0x15 0 0 0 4 0 0x12 0x34 0x56789ABCDEF0) (.li (.s 4) 0x123456789ABCDEF0) = true ∧
    reads (w96 0x16 7 0 0 4 5 6 0 0x800000000000) (.lea 7 (.s 4) (.s 5) (.s 6) 0x800000000000) = true ∧
    reads (w96 0x17 0 0 0 4 5 6 0 0) (.sel (.s 4) (.s 5) (.s 6)) = true ∧
    reads (w96 0x18 6 3 0 0 5 6 0 0) (.cmp .ltu 3 (.s 5) (.s 6)) = true ∧
    reads (w96 0x19 3 1 0 0 5 0 0 9) (.cmpi .le 1 (.s 5) 9) = true ∧
    reads (w96 0x1A 8 2 0 0 5 0 0 9) (.test false 2 (.s 5) (.imm 9)) = true ∧
    reads (w96 0x1B 0 0 0 4 5 6 0 0) (.crand (.s 4) (.s 5) (.s 6)) = true ∧
    reads (w96 0x1C 2 0 0 4 5 0 0 0) (.sext .w16 (.s 4) (.s 5)) = true ∧
    reads (w96 0x1C 5 0 0 4 5 0 0 0) (.zext .w32 (.s 4) (.s 5)) = true ∧ bad (w96 0x1C 6 0 0 4 5 0 0 0) = true ∧
    bad (w96 0x18 10 0 0 0 5 6 0 0) = true ∧ bad (w96 0x1A 2 0 0 0 5 6 0 0) = true := by decide +kernel
/-- R155, R156, R68, R39. -/
theorem test_decode_control :
    reads (w96 0x20 0 0 0 0 0 0 0 (8 * 3 + 4)) (.br ⟨3, 4⟩) = true ∧
    reads (w96 0x21 11 0 0 0 0 0 0 (8 * (2 ^ 45 - 1))) (.brc .neos ⟨2 ^ 45 - 1, 0⟩) = true ∧
    reads (w96 0x21 2 0 0 0 0 0 0 0) (.brc .z ⟨0, 0⟩) = true ∧ bad (w96 0x21 12 0 0 0 0 0 0 0) = true ∧
    reads (w96 0x22 0 0 0 0 5 0 0 0) (.jmp (.s 5)) = true ∧
    reads (w96 0x23 0 0 0 31 0 0 0 9) (.call (.direct ⟨1, 1⟩) 31) = true ∧
    reads (w96 0x23 1 0 0 31 7 0 0 0) (.call (.indirect (.s 7)) 31) = true ∧ bad (w96 0x23 0 0 0 0 0 0 0 9) = true ∧
    reads (w96 0x24 0 0 0 0 31 0 0 0) (.ret (.s 31)) = true ∧
    reads (w96 0x25 1 0 0 0 5 0 0 8) (.loop true (.s 5) ⟨1, 0⟩) = true ∧
    reads (w96 0x26 0 0 0 0 0x6A 0 0 8) (.loopq false 2 ⟨1, 0⟩) = true ∧
    reads (w96 0x27 0 0 0 0 0 0 0 255) (.align 255) = true ∧ bad (w96 0x27 0 0 0 0 0 0 0 0) = true ∧
    reads (w96 0x2A 0 0 0 0x2F 5 0 0 0) (.rsv (.v 15) (.s 5)) = true ∧ bad (w96 0x2A 0 0 0 0 5 0 0 0) = true ∧
    reads (w96 0x2B 0 0 0 0 0 0 0 0x800100000002) (.dead (.sv 0x8001 2)) = true ∧
    reads (w96 0x2B 1 0 0 0 0 0 0 0x81) (.dead (.b 0x81)) = true ∧
    reads (w96 0x2C 0 0 0 0 5 0 0 0xFFFF) (.trap (.s 5) 0xFFFF) = true ∧ reads (w96 0x2D 0 0 0 0 0 0 0 0) .rte = true ∧
    reads (w96 0x2E 0 0 0 0 0 0 0 0xFFFFFFFF) (.sleep 0xFFFFFFFF) = true ∧
    reads (w96 0x2F 0 0 0 0 0 0 0 0x1F10) (.fenceX 0x1F 0x10) = true ∧ reads (w96 0 0 0 0 0 0 0 0 0) .nop = true := by decide +kernel
/-- R65, R360, R371: MFC and MTC by index. -/
theorem test_decode_registers :
    reads (w96 0x28 0 0 0 4 0 0 0 0x011) (.mfc (.s 4) .tcause) = true ∧ reads (w96 0x28 0 0 0 4 0 0 0 0x119) (.mfc (.s 4) (.region 9)) = true ∧
    reads (w96 0x28 0 0 0 4 0 0 0 0x229) (.mfc (.s 4) (.ava 9)) = true ∧ reads (w96 0x28 0 0 0 4 0 0 0 0x239) (.mfc (.s 4) (.avd 1)) = true ∧
    bad (w96 0x28 0 0 0 4 0 0 0 0x21A) = true ∧ bad (w96 0x28 0 0 0 4 0 0 0 0x002) = true ∧
    reads (w96 0x29 0 0 0 0 5 0 0 0x010) (.mtc .thnd (.s 5)) = true ∧ reads (w96 0x29 0 0 0 0 5 0 0 0x000) (.flagsWrite (.s 5)) = true ∧
    reads (w96 0x29 0 0 0 0 5 0 0 0x029) (.loopCounterWrite true (.s 5)) = true ∧
    reads (w96 0x29 0 0 0 0 5 0 0 0x11F) (.regionWrite 15 (.s 5)) = true ∧
    reads (w96 0x29 0 0 0 0 5 0 0 0x240) (.alarmWrite (.s 5)) = true ∧ reads (w96 0x29 0 0 0 0 0x84 0 0 0x261) (.mtc .tlim (.id .chip)) = true := by
  decide +kernel
/-- R167. -/
theorem test_decode_memory :
    reads (w96 0x40 6 0 0 4 5 0 0 0xFFFFFFFFFFFF) (.ld .w32 true (.s 4) (.s 5) 0xFFFFFFFFFFFF) = true ∧
    reads (w96 0x41 3 0 0 0 5 6 0 8) (.st .w64 (.s 5) (.s 6) 8) = true ∧
    reads (w96 0x42 2 0 1 0x24 5 0 6 (4 * 2 ^ 45 + 64)) (.ldv ⟨.f32, true, .sr, 4, .s 5, .s 6, 64⟩) = true ∧
    reads (w96 0x43 5 0 0 0 5 0x24 0 64) (.stv ⟨.i8x4, false, .rne, 4, .s 5, .s 0, 64⟩) = true ∧
    reads (w96 0x44 0 0 0 4 5 0 0 1) (.spld .w8 false (.s 4) (.s 5) 1) = true ∧
    reads (w96 0x45 1 0 0 0 5 0x90 0 2) (.spst .w16 (.s 5) (.id .grp) 2) = true ∧
    reads (w96 0x46 1 0 0 0 5 0 0 128) (.drain true (.s 5) 128) = true ∧ bad (w96 0x40 8 0 0 4 5 0 0 0) = true ∧
    bad (w96 0x42 6 0 0 0x24 5 0 0 0) = true ∧ bad (w96 0x42 0 0 0 0x24 5 0 0 (5 * 2 ^ 45)) = true ∧ bad (w96 0x42 0 0 0 0x30 5 0 0 0) = true := by
  decide +kernel
/-- R136. -/
theorem test_decode_joins :
    reads (w96 0x48 7 0 1 0 5 6 0 8) (.jst .fill true (.s 5) (.s 6) 8) = true ∧ bad (w96 0x48 8 0 0 0 5 6 0 8) = true ∧
    reads (w96 0x49 3 0 0 0 5 0x27 6 8) (.jstv .maxs false (.s 5) 7 (.s 6) 8) = true ∧
    reads (w96 0x4A 0 0 1 0 5 6 0 0x4B) (.tfill true (.s 5) (.s 6) .t64 .int3g) = true ∧ bad (w96 0x4A 0 0 0 0 5 6 0 0x40) = true ∧
    reads (w96 0x4B 10 0 0 0 5 6 0 8) (.bump true false (.s 5) (.s 6) 8) = true ∧
    reads (w96 0x4C 3 0 1 4 5 28 0 8) (.trd true (.vals 28 3) (.s 4) (.s 5) 8) = true ∧
    reads (w96 0x4C 4 0 0 4 5 0 0 8) (.trd false .filled (.s 4) (.s 5) 8) = true ∧ bad (w96 0x4C 3 0 0 4 5 29 0 8) = true ∧
    reads (w96 0x4D 1 0 0 4 5 0 0 8) (.xrd true (.s 4) (.s 5) 8) = true ∧
    reads (w96 0x4E 0 0 1 0x24 5 0 6 8) (.xrdv ⟨.i32, true, .rne, 4, .s 5, .s 6, 8⟩) = true ∧
    reads (w96 0x4F 9 0 1 4 5 0 0 0x300) (.xrdt .e5m2 true (.s 4) (.s 5) .rdn) = true ∧ bad (w96 0x4F 10 0 0 4 5 0 0 0) = true ∧
    reads (w96 0x50 0 0 0 0 5 0 0 8) (.fix (.s 5) 8) = true ∧ reads (w96 0x51 0 0 0 0 5 6 0 0) (.fixr (.s 5) (.s 6)) = true ∧
    reads (w96 0x52 0 0 0 0 5 6 0 0) (.pub (.s 5) (.s 6)) = true ∧ reads (w96 0x53 0 0 0 0 5 6 7 0) (.xfer (.s 5) (.s 6) (.s 7)) = true := by
  decide +kernel
/-- R185. -/
theorem test_decode_vector :
    reads (w96 0x60 2 0 1 0x23 0xC4 0xE5 6 2) (.vadd ⟨.f32, true, .rup, .v 3, .spi 4, .sp 5, .s 6⟩) = true ∧
    reads (w96 0x61 0 0 0 0xE3 4 0x25 0 0) (.vsub ⟨.i32, false, .rne, .sp 3, .s 4, .v 5, .s 0⟩) = true ∧
    reads (w96 0x62 4 0 0 0x23 0x24 0x25 0 1) (.vmul ⟨.bf16x2, false, .rtz, .v 3, .v 4, .v 5, .s 0⟩) = true ∧
    reads (w96 0x63 5 0 1 0x23 0x24 0x25 0 0) (.vfma ⟨.i8x4, true, .rne, .v 3, .v 4, .v 5, .s 0⟩) = true ∧
    reads (w96 0x64 3 0 0 0x23 0x24 0x25 0 0) (.vfms ⟨.i16x2, false, .rne, .v 3, .v 4, .v 5, .s 0⟩) = true ∧
    reads (w96 0x65 1 0 0 0x23 0x24 0x25 6 0) (.vmin ⟨.u32, .v 3, .v 4, .v 5, .s 6⟩) = true ∧
    reads (w96 0x66 0 0 0 0x23 0x24 0x25 6 0) (.vmax ⟨.i32, .v 3, .v 4, .v 5, .s 6⟩) = true ∧
    reads (w96 0x67 3 0 1 0x23 0x24 0 6 0) (.vabs ⟨.i16x2, true, .v 3, .v 4, .s 6⟩) = true ∧
    reads (w96 0x68 2 0 0 0x23 0x24 0 6 0) (.vneg ⟨.f32, false, .v 3, .v 4, .s 6⟩) = true ∧
    reads (w96 0x69 2 0 0 4 0x24 0x25 6 5) (.vcmp .ge ⟨.f32, .s 4, .v 4, .v 5, .s 6⟩) = true ∧
    bad (w96 0x60 0 0 0 0x23 0x24 0x25 0 1) = true ∧ bad (w96 0x60 2 0 0 0x23 0x24 0x25 0 4) = true ∧ bad (w96 0x67 1 0 0 0x23 0x24 0 0 0) = true ∧
    bad (w96 0x67 2 0 1 0x23 0x24 0 0 0) = true ∧ bad (w96 0x69 3 0 0 4 0x24 0x25 0 0) = true ∧ bad (w96 0x60 6 0 0 0x23 0x24 0x25 0 0) = true := by
  decide +kernel
theorem test_decode_vector2 :
    reads (w96 0x6A 0 0 0 0x23 0x24 0x25 6 0) (.vsel ⟨.i32, .v 3, .v 4, .v 5, .s 6⟩) = true ∧
    reads (w96 0x6B 0 0 0 0x23 0x24 0x25 6 0) (.vand ⟨.i32, .v 3, .v 4, .v 5, .s 6⟩) = true ∧
    reads (w96 0x6C 0 0 0 0x23 0x24 0x25 6 0) (.vor ⟨.i32, .v 3, .v 4, .v 5, .s 6⟩) = true ∧
    reads (w96 0x6D 0 0 0 0x23 0x24 0x25 6 0) (.vxor ⟨.i32, .v 3, .v 4, .v 5, .s 6⟩) = true ∧
    reads (w96 0x6E 1 0 0 0x23 0x24 0x25 6 0) (.vshl ⟨.u32, .v 3, .v 4, .v 5, .s 6⟩) = true ∧
    reads (w96 0x6F 3 0 0 0x23 0x24 0x25 6 0) (.vshr ⟨.i16x2, .v 3, .v 4, .v 5, .s 6⟩) = true ∧ bad (w96 0x6E 2 0 0 0x23 0x24 0x25 6 0) = true ∧
    reads (w96 0x70 5 0 1 0x23 0x24 7 6 (0x304 + 0x00)) (.vcvt .i32 3 ⟨.i8x4, true, .sr, .v 3, .v 4, .s 7, .s 6⟩) = true ∧
    reads (w96 0x70 0 0 0 0x23 0x24 0 0 0x140) (.vcvt .bf16x2 1 ⟨.i32, false, .rne, .v 3, .v 4, .s 0, .s 0⟩) = true ∧
    bad (w96 0x70 0 0 0 0x23 0x24 0 0 0x240) = true ∧
    reads (w96 0x71 2 0 0 0x23 0x24 0 6 0) (.vrcp ⟨.v 3, .v 4, .s 6⟩) = true ∧ reads (w96 0x72 2 0 0 0x23 0x24 0 6 0) (.vrsq ⟨.v 3, .v 4, .s 6⟩) = true ∧
    reads (w96 0x73 2 0 0 0x23 0x24 0 6 0) (.vsqrt ⟨.v 3, .v 4, .s 6⟩) = true ∧ reads (w96 0x74 2 0 0 0x23 0x24 0 6 0) (.vexp2 ⟨.v 3, .v 4, .s 6⟩) = true ∧
    reads (w96 0x75 2 0 0 0x23 0x24 0 6 0) (.vlog2 ⟨.v 3, .v 4, .s 6⟩) = true ∧ bad (w96 0x75 0 0 0 0x23 0x24 0 6 0) = true ∧
    reads (w96 0x76 1 0 0 4 0x24 0 6 5) (.vred .u32 .xor (.s 4) (.v 4) (.s 6)) = true ∧ bad (w96 0x76 2 0 0 4 0x24 0 6 3) = true ∧
    reads (w96 0x77 0 0 1 0x23 0x24 0 6 0) (.vscan .i32 true .add (.v 3) (.v 4) (.s 6)) = true ∧ bad (w96 0x77 0 0 1 0x23 0x24 0 6 1) = true := by
  decide +kernel
theorem test_decode_vector3 :
    reads (w96 0x78 3 0 0 0x23 0x24 0x25 6 0) (.vperm ⟨.i16x2, .v 3, .v 4, .v 5, .s 6⟩) = true ∧
    reads (w96 0x79 0 0 0 0x23 0x24 0 6 31) (.vbcast .i32 (.v 3) (.v 4) (.s 6) 31) = true ∧
    reads (w96 0x79 0 0 0 0x23 4 0 6 0) (.vbcast .i32 (.v 3) (.s 4) (.s 6) 0) = true ∧ bad (w96 0x79 0 0 0 0x23 4 0 6 1) = true ∧
    reads (w96 0x7A 5 0 0 4 0x24 0 0 127) (.vext .i8x4 (.s 4) (.v 4) 127) = true ∧ bad (w96 0x7A 0 0 0 4 0x24 0 0 32) = true ∧
    reads (w96 0x7B 0 0 0 0x23 4 0 6 128) (.vld .i32 (.v 3) (.s 4) (.s 6) 128) = true ∧
    reads (w96 0x7C 0 0 0 0 4 0x25 6 128) (.vst .i32 (.s 4) (.v 5) (.s 6) 128) = true ∧
    reads (w96 0x7D 1 0 0 0x23 4 0x25 6 0) (.vgath ⟨.u32, .v 3, .s 4, .v 5, .s 6⟩) = true ∧
    reads (w96 0x7E 1 0 0 0x23 4 0x25 6 0) (.vscat ⟨.u32, .v 3, .s 4, .v 5, .s 6⟩) = true ∧
    reads (w96 0x7F 1 0 1 0x23 4 5 6 0) (.vcrand true ⟨.u32, .v 3, .s 4, .s 5, .s 6⟩) = true ∧ bad (w96 0x7F 0 0 0 0x23 4 5 6 0) = true ∧
    readsW (w96 0x60 0 0 0 0x62 0x60 0x61 0 0) (.vadd ⟨.i32, false, .rne, .le, .lw, .ln, .s 0⟩) = true ∧
    readsW (w96 0x6A 0 0 0 0x23 0x24 0x25 0x60 0) (.vsel ⟨.i32, .v 3, .v 4, .v 5, .lw⟩) = true ∧
    bad (w96 0x6A 0 0 0 0x23 0x24 0x25 0x60 0) = true ∧ bad (w96 0x6A 0 0 0 0x23 0x24 0x25 0x24 0) = true ∧
    bad (w96 0x60 0 0 0 0x62 0x60 0x61 0 0) = true := by decide +kernel
/-- R244, R249, R257. -/
theorem test_decode_matrix :
    reads (w96 0x80 5 0 0 0xA3 4 5 30 (2 ^ 24 * 512 + 256 * 64 + 8 + 7)) (.mma ⟨.bfi4, 3, .s 4, .s 5, 30, 512, 64, false, true, 7⟩) = true ∧
    reads (w96 0x81 0 0 0 0xA1 0x24 5 0 0x10) (.mmag ⟨.e4e4, 1, .v 4, .s 5, 0, 0, 0, true, false, 0⟩) = true ∧
    bad (w96 0x80 3 0 0 0xA1 4 5 0 0x10) = true ∧ bad (w96 0x80 7 0 0 0xA1 4 5 0 0) = true ∧ bad (w96 0x80 0 0 0 0xA1 4 5 31 0) = true ∧
    readsW (w96 0x83 5 0 2 0xA2 4 5 0 0) (.wmma true false true true false 2 4 5) = true ∧ bad (w96 0x83 5 0 2 0xA2 4 5 0 0) = true ∧
    reads (w96 0x84 1 0 0 0xA3 0 0 0 0) (.tclaim true 3) = true ∧ reads (w96 0x85 0 0 0 0xA1 0 0 0 0) (.trel false 1) = true ∧
    reads (w96 0x86 1 0 0 0xA0 0 0 0 0) (.tzero true 0) = true ∧
    reads (w96 0x87 6 0 3 7 0xA1 8 9 (256 * 64 + 8 + 1)) (.tst true .rtz (.s 7) ⟨.bf16, true, 1, .s 8, .s 9, true, 64⟩) = true ∧
    reads (w96 0x88 8 0 0 0xA1 8 0 9 (256 * 32)) (.tld ⟨.e4m3n, false, 1, .s 8, .s 9, false, 32⟩) = true ∧
    bad (w96 0x88 4 0 0 0xA1 8 0 9 0) = true ∧ reads (w96 0x89 0 0 0 0 0 0 0 40) (.mhint 40) = true := by decide +kernel
/-- R271. -/
theorem test_decode_bounded :
    reads (w96 0xA0 0 0 0 0 4 5 0 0x1F02) (.awr (.s 4) (.s 5) 31 2) = true ∧ bad (w96 0xA0 0 0 0 0 4 5 0 0x2002) = true ∧
    reads (w96 0xA1 0 0 0 0 4 5 6 0x0103) (.avfy (.s 4) (.s 5) (.s 6) 1 3) = true ∧
    reads (w96 0xA3 0 0 0 0 0 0 0 (15 * 256 + 5 * 4 + 1)) (.acal 15 5 1) = true ∧ bad (w96 0xA3 0 0 0 0 0 0 0 (6 * 4)) = true ∧
    reads (w96 0xA4 0 0 0 0x47 0 0 0 1) (.astat 7 1) = true ∧ reads (w96 0xA5 0 0 0 0 0 0 0 1) (.aclaim 1) = true ∧
    reads (w96 0xA6 0 0 0 0 0 0 0 3) (.arel 3) = true ∧ reads (w96 0xA7 0 0 0 0x42 4 0 0 64) (.bld 2 (.s 4) 64) = true ∧
    reads (w96 0xA7 1 0 0 0x42 0 0 0 (31 * 4 + 2)) (.bldBuf 2 31 2) = true ∧ reads (w96 0xA8 0 0 0 0 4 0x42 0 64) (.bst (.s 4) 2 64) = true ∧
    reads (w96 0xA9 0 0 0 0x41 0x42 0x43 0 0) (.badd 1 2 3) = true ∧ reads (w96 0xA9 1 0 0 0x41 0x42 0x43 0 0) (.baddSub 1 2 3) = true ∧
    reads (w96 0xAA 0 0 0 0x41 0x42 0x23 0 0) (.bmul 1 2 (.v 3)) = true ∧ reads (w96 0xAB 0 0 0 0x41 0x42 3 0 0) (.bfma 1 2 (.s 3)) = true ∧
    reads (w96 0xAC 0 0 0 0x41 0x42 0x43 0 0) (.bminmaxMin 1 2 3) = true ∧ reads (w96 0xAC 1 0 0 0x41 0x42 0x43 0 0) (.bminmaxMax 1 2 3) = true ∧
    reads (w96 0xAD 0 0 0 0x41 0x42 0 0 0) (.bactRelu 1 2) = true ∧ reads (w96 0xAD 1 0 0 0x41 0x42 3 0 0) (.bactClamp 1 2 (.s 3)) = true ∧
    reads (w96 0xAE 0 0 0 0x21 0x42 0 0 0xFB) (.acceptGrid false 1 2 0xFB) = true ∧ reads (w96 0xAE 1 0 0 0x21 0x42 0 0 0) (.acceptRaw 1 2) = true ∧
    reads (w96 0xAF 0 0 0 0x41 0x22 0 0 0) (.bcvtF32 1 2) = true ∧ reads (w96 0xAF 1 0 0 0x41 0x22 0 0 0) (.bcvtI32 1 2) = true ∧
    reads (w96 0xAF 2 0 0 0x41 0x42 0 0 0) (.bcvtBf16 1 2) = true ∧ bad (w96 0xAF 2 0 0 0x41 0x22 0 0 0) = true := by decide +kernel
/-- R297, R310. -/
theorem test_decode_messages :
    reads (w96 0xC0 0 0 3 0 4 5 6 0x332) (.send (.s 4) (.s 5) (.s 6) 2 ⟨.int32, .rdn, true, true⟩) = true ∧
    reads (w96 0xC1 0 0 0 0x23 6 0x23 0 0x460) (.dep (.v 3) (.s 6) (.v 3) (.s 0) ⟨.bf16, .sr, false, false⟩) = true ∧
    reads (w96 0xC1 0 0 1 0x43 6 0x43 0 0) (.dep (.b 3) (.s 6) (.b 3) (.s 0) ⟨.raw, .rne, false, true⟩) = true ∧
    bad (w96 0xC1 0 0 0 0x43 6 0x43 0 0x50) = true ∧ bad (w96 0xC1 0 0 0 3 6 0x23 0 0) = true ∧ bad (w96 0xC0 0 0 0 0 4 5 6 0x100) = true ∧
    reads (w96 0xC2 0 0 0 0 7 0xE8 0 0) (.synst (.s 7) (.sp 8) (.s 0) ⟨.raw, .rne, false, false⟩) = true ∧
    reads (w96 0xC3 0 0 0 0x22 7 0 0 0x50) (.synld (.v 2) (.s 7) (.s 0) ⟨.fp32, .rne, false, false⟩) = true ∧ bad (w96 0xC3 0 0 1 0x22 7 0 0 0) = true ∧
    reads (w96 0xC4 0 0 0 0 9 0x24 0 (0x400 * 4096 + 0x80)) (.mcastRow (.s 9) (.v 4) (.s 0) 0x400 ⟨.e4m3n, .rne, false, false⟩) = true ∧
    reads (w96 0xC4 1 0 1 0 9 5 0 1) (.mcastQ (.s 9) (.s 5) (.s 0) 1 ⟨.raw, .rne, false, true⟩) = true ∧ bad (w96 0xC4 0 0 0 0 9 0x24 0 (0x401 * 4096)) = true ∧
    reads (w96 0xC5 0 0 0 0 0 0 0 0) .barj = true ∧ reads (w96 0xC5 1 0 0 0 0 0 0 0) .barjLeave = true ∧
    reads (w96 0xC6 0 0 0 4 0 0 0 0) (.bara (.s 4)) = true ∧ reads (w96 0xC7 0 0 0 0 5 0 0 0) (.barw (.s 5)) = true ∧
    reads (w96 0xC8 0 0 0 4 5 0 0 0) (.barq (.s 4) (.s 5)) = true ∧
    reads (w96 0xC9 0 0 0 9 4 5 6 0x54) (.copy ⟨9, .s 4, .s 5, 6, false, .rne, .raw, .fp32, .m, .p⟩) = true ∧
    reads (w96 0xCA 0 0 0 9 4 5 29 (0x8000 + 0x2000 + 0x600 + 0x09)) (.copy2 ⟨9, .s 4, .s 5, 29, true, .rup, .bf16, .raw, .r, .m⟩) = true ∧
    bad (w96 0xC9 0 0 0 9 4 5 31 0x54) = true ∧ bad (w96 0xC9 0 0 0 9 4 5 6 0x3) = true ∧ bad (w96 0xC9 0 0 0 0 4 5 6 0x54) = true := by
  decide +kernel
/-- R338. -/
theorem test_decode_tasks :
    reads (w96 0xCD 0 0 0 1 2 3 28 0xFFFFF) (.spawn (.s 1) (.s 2) (.s 3) 28 0xFFFFF) = true ∧ bad (w96 0xCD 0 0 0 1 2 3 29 0) = true ∧
    reads (w96 0xCE 0 0 0 0 0 0 0 0) .quit = true ∧ bad (w96 0xCF 0 0 0 0 2 0 0 0x3FE) = true ∧ bad (w96 0xCF 0 0 0 0 2 0 0 1) = true ∧
    reads (w96 0xD0 0 0 0 1 2 3 4 (5 + 9 * 2 ^ 20 + 3 * 2 ^ 35)) (.tdef (.s 1) (.s 2) (.s 3) 4 5 9 3) = true ∧
    reads (w96 0xD1 0 0 0 0 2 0 0 0) (.tdec (.s 2)) = true ∧ reads (w96 0xD2 0 0 0 0 2 0 0 0) (.launch (.s 2)) = true ∧
    reads (w96 0xD3 0 0 0 0 0 0 0 (2 + 4 * 15 + 64 * 1 + 256 * 2)) (.qcfg (.s 0) 2 15 1 2) = true ∧ bad (w96 0xD3 0 0 0 0 2 0 0 64) = true ∧
    reads (w96 0xD4 0 0 0 0 0 0 0 0x75) (.stage 1 true 2 true true) = true ∧ reads (w96 0xD5 0 0 0 0 2 0 0 3) (.qeos (.s 2) 3) = true ∧
    reads (w96 0xD6 0 0 0 0 0 0 0 15) (.ldbal 15) = true ∧ bad (w96 0xD6 0 0 0 0 0 0 0 1) = true := by decide +kernel
/-- R230, R373. -/
theorem test_decode_waves :
    reads (w96 0xE0 0xF 0 0 23 25 24 0 0xFFF) (.wbegin 3 true true 23 (.s 25) (.s 24) 255 15) = true ∧ bad (w96 0xE0 0 0 0 23 25 24 0 0) = true ∧
    readsW (w96 0xE1 0 0 0 0 0 0 0 0) .wend = true ∧ bad (w96 0xE1 0 0 0 0 0 0 0 0) = true ∧
    readsW (w96 0xE2 1 0 0 0 0 4 31 10) (.wloop true 1055 ⟨1, 2⟩) = true ∧ readsW (w96 0xE3 0 0 0 0 0 0 0 10) (.wjmp ⟨1, 2⟩) = true ∧
    readsW (w96 0xE4 0 0 0 0 0 0 0 0) .wvoteAnd = true ∧ readsW (w96 0xE4 1 0 0 0 0 0 0 0) .wvoteOr = true ∧
    readsW (w96 0xE5 0 0 0 0 0 0 0 10) (.wbrvT ⟨1, 2⟩) = true ∧ readsW (w96 0xE5 1 0 0 0 0 0 0 10) (.wbrvF ⟨1, 2⟩) = true ∧
    readsW (w96 0xE6 0 0 0 0 0 0 0 0) .wckpt = true := by decide +kernel
theorem test_decode_supervisor :
    reads (w96 0xF0 0 0 0 0x23 0 0 0 0) (.mbox 3) = true ∧ reads (w96 0xF0 1 0 0 0x23 0 0 0 0) (.mboxNb 3) = true ∧
    reads (w96 0xF1 0 0 0 0 5 0 0 0) (.fenceu (.s 5)) = true ∧ reads (w96 0xF1 1 0 0 0 5 0 0 0) (.fenceuUn (.s 5)) = true ∧
    reads (w96 0xF2 0 0 0 4 5 0 0 0) (.stest (.s 4) (.s 5)) = true ∧ reads (w96 0xF3 0 0 0 0 5 0 0 0) (.preempt (.s 5)) = true ∧
    reads (w96 0xF4 1 0 0 0 5 6 7 0) (.resume true false (.s 5) (.s 6) (.s 7)) = true ∧
    reads (w96 0xF4 2 0 0 0 5 6 7 0) (.resume false true (.s 5) (.s 6) (.s 7)) = true ∧ bad (w96 0xF4 4 0 0 0 5 6 7 0) = true ∧
    reads (w96 0xF5 0 0 0 0 5 0 0 0) (.kill (.s 5)) = true ∧ reads (w96 0xF6 0 0 0 4 5 6 0 0) (.ckpt (.s 4) (.s 5) (.s 6)) = true ∧
    reads (w96 0xF7 0 0 0 0 0 0 0 5) (.keyz 5) = true ∧ bad (w96 0xF7 0 0 0 0 0 0 0 0) = true ∧
    reads (w96 0xF8 0 0 0 0 5 6 7 0) (.mapw (.s 5) (.s 6) (.s 7)) = true ∧ reads (w96 0xF9 0 0 0 0 5 6 0 0) (.tlbi (.s 5) (.s 6)) = true ∧
    reads (w96 0xF9 1 0 0 0 5 6 0 0) (.tlbiAs (.s 5) (.s 6)) = true ∧ reads (w96 0xF9 2 0 0 0 5 6 0 0) (.tlbiAll (.s 5) (.s 6)) = true := by
  decide +kernel

/-- R360: FBCTL.HOLDTR and the link registers that a write clears. -/
theorem test_decode_fabric :
    reads (w96 0x29 0 0 0 0 5 0 0 0x300) (.holdtr (.s 5)) = true ∧
    reads (w96 0x29 0 0 0 0 5 0 0 0x311) (.linkStatusClear (.lse 1) (.s 5)) = true ∧
    reads (w96 0x29 0 0 0 0 5 0 0 0x31A) (.linkStatusClear (.lss 2) (.s 5)) = true ∧
    reads (w96 0x29 0 0 0 0 5 0 0 0x321) (.linkStatusClear (.lsp 1) (.s 5)) = true ∧
    reads (w96 0x29 0 0 0 0 5 0 0 0x322) (.linkStatusClear .lsg (.s 5)) = true ∧ bad (w96 0x29 0 0 0 0 5 0 0 0x323) = true := by decide +kernel

/-! ### Ill-formed terms, one for each check of Sys2Proof/WellFormed.lean -/

/-- The term is refused in an ordinary context. -/
def ill (i : Instr) : Bool := !i.wf false

theorem test_ill_scalar :
    ill (.add .wrap ⟨false, .v 1, .s 2, .imm 0⟩) = true ∧ ill (.sub .wrap ⟨false, .id .cxid, .s 2, .imm 0⟩) = true ∧
    ill (.mul ⟨false, .s 1, .lw, .imm 0⟩) = true ∧ ill (.or ⟨false, .s 1, .s 2, .reg (.v 3)⟩) = true ∧
    ill (.shl ⟨false, .s 1, .s 2, .imm 64⟩) = true ∧ ill (.clz (.s 1) (.v 2)) = true ∧ ill (.bfx false (.s 1) (.s 2) 63 1) = true ∧
    ill (.bfi (.le) (.s 2) 0 0) = true ∧ ill (.li (.v 1) 0) = true ∧ ill (.sel (.s 1) (.s 2) (.b 3)) = true ∧
    ill (.cmp .eq 0 (.s 1) (.v 2)) = true ∧ ill (.cmpi .eq 0 (.v 1) 0) = true ∧ ill (.test false 0 (.s 1) (.reg (.v 2))) = true := by
  decide +kernel
theorem test_ill_control :
    ill (.br ⟨0, 5⟩) = true ∧ ill (.brc .t ⟨0, 7⟩) = true ∧ ill (.jmp (.v 1)) = true ∧ ill (.call (.direct ⟨0, 0⟩) 0) = true ∧
    ill (.call (.direct ⟨0, 6⟩) 1) = true ∧ ill (.loop false (.s 1) ⟨0, 5⟩) = true ∧ ill (.align 0) = true ∧
    ill (.mfc (.s 1) (.ava 10)) = true ∧ ill (.mfc (.s 1) (.avs 3)) = true ∧ ill (.mtc .flags (.s 1)) = true ∧
    ill (.linkStatusClear .prov (.s 1)) = true ∧ ill (.rsv (.s 0) (.s 1)) = true ∧ ill (.trap (.v 1) 0) = true ∧
    Instr.endOk 0x10003 (.loop false (.s 1) ⟨0, 2⟩) = false ∧ Instr.endOk 0x10000 (.loopq false 0 ⟨-1, 4⟩) = false ∧
    Instr.endOk 0 (.loopq false 0 ⟨-1, 4⟩) = true ∧ Instr.endOk 0xFFFFFFFFFFFFC0 (.loop false (.s 1) ⟨1, 0⟩) = false := by decide +kernel
theorem test_ill_memory :
    ill (.ld .w8 false (.v 1) (.s 2) 0) = true ∧ ill (.st .w8 (.s 1) (.v 2) 0) = true ∧ ill (.spld .w8 false (.le) (.s 2) 0) = true ∧
    ill (.ldv ⟨.i32, false, .rne, 0, .v 2, .s 0, 0⟩) = true ∧ ill (.drain false (.v 0) 0) = true ∧
    ill (.jst .priv false (.s 1) (.s 2) 0) = true ∧ ill (.tfill false (.s 1) (.s 2) .t8 .raw) = true ∧
    ill (.trd false (.vals 30 2) (.s 1) (.s 2) 0) = true ∧ ill (.xrdt .int4g false (.s 1) (.s 2) .rne) = true ∧
    ill (.fixr (.s 1) (.v 2)) = true ∧ ill (.xfer (.s 1) (.s 2) (.v 3)) = true := by decide +kernel
theorem test_ill_vector :
    ill (.vadd ⟨.i32, false, .rup, .v 1, .v 2, .v 3, .s 0⟩) = true ∧ ill (.vadd ⟨.f32, false, .sr, .v 1, .v 2, .v 3, .s 0⟩) = true ∧
    ill (.vsub ⟨.i32, false, .rne, .s 1, .v 2, .v 3, .s 0⟩) = true ∧ Instr.wf true (.vfma ⟨.i32, false, .rne, .le, .v 2, .v 3, .s 0⟩) = false ∧
    ill (.vabs ⟨.u32, false, .v 1, .v 2, .s 0⟩) = true ∧ ill (.vneg ⟨.f32, true, .v 1, .v 2, .s 0⟩) = true ∧
    ill (.vcmp .eq ⟨.i8x4, .s 1, .v 2, .v 3, .s 0⟩) = true ∧ ill (.vshl ⟨.f32, .v 1, .v 2, .v 3, .s 0⟩) = true ∧
    ill (.vcvt .i32 1 ⟨.f32, false, .rne, .v 1, .v 2, .s 0, .s 0⟩) = true ∧ ill (.vred .f32 .xor (.s 1) (.v 2) (.s 0)) = true ∧
    ill (.vscan .i32 true .max (.v 1) (.v 2) (.s 0)) = true ∧ ill (.vbcast .i32 (.v 1) (.s 2) (.s 0) 1) = true ∧
    ill (.vext .i16x2 (.s 1) (.v 2) 64) = true ∧ ill (.vld .i32 (.sp 1) (.s 2) (.s 0) 0) = true ∧
    ill (.vgath ⟨.i32, .v 1, .s 2, .s 3, .s 0⟩) = true ∧ ill (.vcrand false ⟨.i32, .v 1, .s 2, .s 3, .s 0⟩) = true ∧
    ill (.vmin ⟨.i32, .v 1, .q 2, .v 3, .s 0⟩) = true := by decide +kernel
theorem test_ill_units :
    ill (.mma ⟨.bfi4, 0, .s 1, .s 2, 0, 0, 0, true, false, 0⟩) = true ∧ ill (.mmag ⟨.e4e4, 0, .s 1, .s 2, 0, 0, 0, false, false, 0⟩) = true ∧
    ill (.wmma false false false false false 0 1 2) = true ∧ ill (.tst false .rne (.s 1) ⟨.bq16, false, 0, .s 2, .s 3, false, 0⟩) = true ∧
    ill (.amvm 0 (.s 1) 0) = true ∧ ill (.acal 0 6 0) = true ∧ ill (.bmul 0 1 (.b 2)) = true ∧
    ill (.send (.s 1) (.s 2) (.s 0) 0 ⟨.int64, .rtz, false, false⟩) = true ∧ ill (.send (.s 1) (.s 2) (.s 0) 0 ⟨.int4g, .rne, false, false⟩) = true ∧
    ill (.dep (.v 1) (.s 2) (.b 3) (.s 0) ⟨.raw, .rne, false, false⟩) = true ∧
    ill (.dep (.b 1) (.s 2) (.b 3) (.s 0) ⟨.fp32, .rne, false, false⟩) = true ∧
    ill (.synld (.v 1) (.s 2) (.s 0) ⟨.raw, .rne, false, true⟩) = true ∧
    ill (.mcastRow (.s 1) (.v 2) (.s 0) 64 ⟨.raw, .rne, false, false⟩) = true ∧
    ill (.copy ⟨1, .s 2, .s 3, 4, false, .rne, .fp32, .raw, .m, .p⟩) = true ∧ ill (.dzero 0 (.s 1)) = true ∧
    ill (.spawn (.s 1) (.s 2) (.s 3) 29 0) = true ∧ ill (.migrate (.s 1) 0x1FF) = true ∧ ill (.qcfg (.s 1) 0 1 1 0) = true ∧
    ill (.ldbal 1) = true ∧ ill (.wbegin 0 false false 1 (.s 2) (.s 3) 0 0) = true ∧ ill .wend = true ∧ ill (.keyz 0) = true ∧
    ill (.boot 0) = true ∧ ill (.awr (.q 0) (.s 1) 0 0) = true ∧ ill (.avfy (.s 1) (.s 2) (.q 0) 0 0) = true ∧
    ill (.amvm 1 (.q 0) 0) = true ∧ ill (.bld 0 (.q 1) 0) = true ∧ ill (.bst (.q 1) 0 0) = true ∧ ill (.bactClamp 0 1 (.q 2)) = true := by
  decide +kernel

end Sys2Proof.Tests
end

/-! ## Bit operations as arithmetic (R153) -/

namespace Sys2Proof

/-- The number of one bits, counted by a fold or by a filter. -/
theorem foldl_count_eq_filter (p : Nat → Bool) (l : List Nat) (k : Nat) :
    l.foldl (fun k i => k + (p i).toNat) k = k + (l.filter p).length := by
  induction l generalizing k with
  | nil => rfl
  | cons i l ih =>
    rw [List.foldl_cons, ih, List.filter_cons]
    cases p i
    · simp
    · simp only [Bool.toNat_true, if_true, List.length_cons]
      omega

theorem popcount_eq_popc (a : Word) : popcount a = Claims.popc a := by
  simp [popcount, Claims.popc, foldl_count_eq_filter]

/-- The first one bit from the top is the base-2 logarithm. -/
theorem leadingZeros_eq_clz (a : Word) : leadingZeros a = Claims.clz a := by
  unfold leadingZeros Claims.clz
  by_cases h : a = 0
  · subst h
    decide
  · have hn : a.toNat ≠ 0 := fun e => h (BitVec.eq_of_toNat_eq e)
    have hlog : a.toNat.log2 < 64 := (Nat.log2_lt hn).2 a.isLt
    have hfind : (List.range 64).find? (fun k => a.getLsbD (63 - k)) = some (63 - a.toNat.log2) := by
      rw [List.find?_range_eq_some]
      refine ⟨?_, List.mem_range.2 (by omega), fun j hj => ?_⟩
      · rw [show 63 - (63 - a.toNat.log2) = a.toNat.log2 by omega]
        exact Nat.testBit_log2 hn
      · have hlt : a.toNat < 2 ^ (63 - j) := (Nat.log2_lt hn).1 (by omega)
        simpa [BitVec.getLsbD] using Nat.testBit_lt_two_pow hlt
    simp only [hfind, if_neg h, Option.getD_some]
    omega

theorem zxLow_shift_eq_field (w lo : Nat) (a : Word) : zxLow w (a >>> lo) = Claims.field false w lo a := by
  apply BitVec.eq_of_toNat_eq
  simp [zxLow, Claims.field, Nat.shiftRight_eq_div_pow]

theorem sxLow_shift_eq_field {w : Nat} (lo : Nat) (a : Word) (hw : 0 < w) :
    sxLow w (a >>> lo) = Claims.field true w lo a := by
  have hx : ((a >>> lo).setWidth w).toNat = a.toNat / 2 ^ lo % 2 ^ w := by
    simp [Nat.shiftRight_eq_div_pow]
  have hpow : 2 ^ w = 2 * 2 ^ (w - 1) := by rw [← Nat.pow_succ', Nat.succ_eq_add_one, Nat.sub_add_cancel hw]
  unfold sxLow Claims.field BitVec.signExtend
  rw [BitVec.toInt_eq_toNat_cond, hx]
  by_cases hneg : 2 ^ (w - 1) ≤ a.toNat / 2 ^ lo % 2 ^ w
  · rw [if_neg (by omega)]
    simp [hneg]
  · rw [if_pos (by omega)]
    simp only [hneg, decide_false, Bool.and_false, Bool.false_eq_true, if_false]
    exact BitVec.ofInt_natCast ..

/-- A bit field extended, as a number. -/
theorem bitField_eq_field (sx : Bool) {w : Nat} (lo : Nat) (a : Word) (hw : 0 < w) :
    Machine.bitField sx w lo a = Claims.field sx w lo a := by
  cases sx
  · exact zxLow_shift_eq_field w lo a
  · exact sxLow_shift_eq_field lo a hw

/-- A field written over bits `lo` and up: below it the old word, then the new bits, above them the old word. -/
theorem testBit_inserted_toNat (w lo : Nat) (old a : Nat) (i : Nat) :
    (old / 2 ^ (lo + w) * 2 ^ (lo + w) + a % 2 ^ w * 2 ^ lo + old % 2 ^ lo).testBit i =
      if i < lo then old.testBit i else if i - lo < w then a.testBit (i - lo) else old.testBit i := by
  have hsum : old / 2 ^ (lo + w) * 2 ^ (lo + w) + a % 2 ^ w * 2 ^ lo + old % 2 ^ lo =
      2 ^ lo * (2 ^ w * (old / 2 ^ (lo + w)) + a % 2 ^ w) + old % 2 ^ lo := by
    rw [Nat.pow_add]
    ring
  rw [hsum, Nat.testBit_two_pow_mul_add _ (Nat.mod_lt _ (Nat.two_pow_pos lo)),
    Nat.testBit_two_pow_mul_add _ (Nat.mod_lt _ (Nat.two_pow_pos w)), Nat.testBit_mod_two_pow, Nat.testBit_mod_two_pow,
    Nat.testBit_div_two_pow]
  split
  · simp [*]
  · split
    · simp [*]
    · rw [show i - lo - w + (lo + w) = i by omega]

theorem getLsbD_setBits {n w : Nat} (x : BitVec n) (lo : Nat) (v : BitVec w) {i : Nat} (hi : i < n) :
    (setBits x lo v).getLsbD i = if i < lo then x.getLsbD i else if i - lo < w then v.getLsbD (i - lo) else x.getLsbD i := by
  by_cases h : i < lo
  · simp [setBits, h, hi]
  · by_cases h' : i - lo < w
    · simp [setBits, h, h', hi]
    · simp [setBits, h, h', hi, BitVec.getLsbD_of_ge v (i - lo) (by omega)]

theorem setBits_eq_inserted (w lo : Nat) (old a : Word) :
    setBits old lo (bits a 0 w) = Claims.inserted w lo old a := by
  apply BitVec.eq_of_getLsbD_eq
  intro i hi
  rw [getLsbD_setBits old lo _ hi, Claims.inserted, BitVec.getLsbD_ofNat, testBit_inserted_toNat]
  by_cases h' : i - lo < w <;> simp [h', hi, BitVec.getLsbD]

/-- LEA's sum, as an exact integer modulo 2^64. -/
theorem leaSum_eq_ofInt (p q : Word) (n : Nat) (x : BitVec 48) :
    p + (q <<< n) + sext64 x = BitVec.ofInt 64 (p.toInt + q.toInt * 2 ^ n + x.toInt) := by
  have hq : q <<< n = BitVec.ofInt 64 (q.toInt * 2 ^ n) := by
    rw [BitVec.shiftLeft_eq_mul_twoPow, BitVec.ofInt_mul, BitVec.ofInt_toInt,
      show (2 : Int) ^ n = ((2 ^ n : Nat) : Int) by simp, BitVec.ofInt_natCast]
    congr 1
    exact BitVec.eq_of_toNat_eq (by simp)
  rw [BitVec.ofInt_add, BitVec.ofInt_add, BitVec.ofInt_toInt, hq]
  rfl

/-- The conditions of R154 are comparisons of exact integers. -/
theorem condHolds_eq_compares (cc : Cond) (a b : Word) : Machine.condHolds cc a b = Claims.compares cc a b := by
  cases cc <;> simp [beq_eq_decide, bne, Machine.condHolds, Claims.compares, BitVec.slt, BitVec.sle, BitVec.ult, BitVec.ule]

/-! ## Well-formed operands, and the words of CMP and CMPI -/

/-- A destination `s` (a queue included) is a destination of class 0 in a stream too. -/
theorem Spec.isDL_of_isS {w : Bool} {r : Spec} (h : r.isS w = true) : r.isDL w = true := by
  cases r <;> simp_all [Spec.isS, Spec.isDL]

/-- Each field is read where it was packed: the fields below it are dropped, and those above it are cut off. -/
theorem Fields.unpack_pack (g : Fields) : Fields.unpack g.pack = g := by
  obtain ⟨opc, var, skip, md, d, a, b, c, x⟩ := g
  simp only [Fields.unpack, Fields.pack, Fields.mk.injEq]
  unfold bits
  refine ⟨?_, ?_, ?_, ?_, ?_, ?_, ?_, ?_, ?_⟩ <;> repeat rw [BitVec.extractLsb'_append_eq_of_le (by decide)]
  · exact BitVec.extractLsb'_eq_self
  all_goals exact BitVec.extractLsb'_append_eq_right

/-- Condition codes 10 to 15 are unassigned (R154). -/
theorem Cond.ofCode_none : ∀ {x : BitVec 4}, 10 ≤ x.toNat → Cond.ofCode x = none := by decide

/-- A word of CMP or CMPI with such a condition code is a reserved encoding (R154, R59). -/
theorem decode_compare_reserved {w : Bool} {g : Fields} (ho : g.opc = 0x18 ∨ g.opc = 0x19) (hv : 10 ≤ g.var.toNat) :
    (decode w g.pack).toOption = none := by
  have hread : g.read = none := by
    rcases ho with ho | ho <;> simp [Fields.read, Fields.read0, ho, Cond.ofCode_none hv]
  simp [decode, Fields.unpack_pack, hread, Except.toOption]

end Sys2Proof

/-! ## The instructions of class 0 that write one value or compare (R153, R154) -/

namespace Sys2Proof.Machine

/-- No source of an instruction that starts is a stage queue. -/
theorem starts_src_plain {i : Instr} {s : State} (h : starts i s = true) {r : Spec} (hr : r ∈ i.srcs) :
    Spec.isQueue r = false := by
  simp only [starts, Bool.and_eq_true] at h
  obtain ⟨⟨⟨_, hs⟩, _⟩, _⟩ := h
  simpa using List.all_eq_true.mp hs r hr

/-- No destination of an instruction that starts is a stage queue. -/
theorem starts_dst_plain {i : Instr} {s : State} (h : starts i s = true) {r : Spec} (hr : r ∈ i.dsts) :
    Spec.isQueue r = false := by
  simp only [starts, Bool.and_eq_true] at h
  obtain ⟨⟨_, hd⟩, _⟩ := h
  simpa using List.all_eq_true.mp hd r hr

/-- No operand in a list of sources of an instruction that starts is a stage queue. -/
theorem starts_src_all {i : Instr} {s : State} (h : starts i s = true) {l : List Spec} (hl : ∀ r ∈ l, r ∈ i.srcs) :
    l.all (fun r => !Spec.isQueue r) = true :=
  List.all_eq_true.mpr fun r hr => by simp [starts_src_plain h (hl r hr)]

theorem run_bind_checkRegs {α : Type} {i : Instr} {s : State} (h : starts i s = true) (f : Unit → M α) :
    (checkRegs i >>= f).run s = (f ()).run s := run_bind_ok (run_checkRegs (.inl h))

theorem run_bind_rdS {α : Type} {r : Spec} (s : State) (h : Spec.isQueue r = false) (f : Word → M α) :
    (rdS r >>= f).run s = (f (s.val r)).run s := run_bind_ok (run_rdS s h)

/-- The register checks and the reads of an instruction of two sources. -/
theorem run_bind_two_sources {α : Type} {i : Instr} {s : State} {a b : Spec} (h : starts i s = true) (hs : i.srcs = [a, b])
    (f : Word → Word → M α) :
    (checkRegs i >>= fun _ => rdS a >>= fun p => rdS b >>= fun q => f p q).run s = (f (s.val a) (s.val b)).run s := by
  rw [run_bind_checkRegs h, run_bind_rdS s (starts_src_plain h (by simp [hs])),
    run_bind_rdS s (starts_src_plain h (by simp [hs]))]

/-- An instruction whose pseudocode comes down to one write of D. -/
theorem runI_wrote {m : M Unit} {i : Instr} {w : Bool} {d : Spec} {x : Word} {s : State} (h : starts i s = true)
    (hd : d ∈ i.dsts) (hw : d.isDL w = true) (hm : m.run s = (wrS d x).run s) :
    runI m i s = .next (Claims.wrote s d x) := by
  rw [runI_ok (hm.trans (run_wrS w x s hw (starts_dst_plain h hd))), State.ends_eq]
  rfl

/-- An instruction whose pseudocode comes down to the flags of a comparison. -/
theorem runI_compared {m : M Unit} {i : Instr} {t t' : Bool} {skip : BitVec 2} {s : State}
    (hm : m.run s = (modFlags fun f => f.compare t skip).run s) (ht : t = t') :
    runI m i s = .next (Claims.compared s t' skip) := by
  subst ht
  rw [runI_ok (hm.trans (run_modFlags _ s)), State.ends_eq]
  rfl

section
variable {w : Bool} {s : State} {d a b : Spec}

theorem exec_nop : exec .nop s = .next (s.ends id) := runI_ok (m := mNop) (i := .nop) rfl

theorem exec_clz (hw : Instr.wf w (.clz d a) = true) (h : starts (.clz d a) s = true) :
    exec (.clz d a) s = .next (Claims.wrote s d (BitVec.ofNat 64 (Claims.clz (s.val a)))) := by
  obtain ⟨hd, _⟩ := Bool.and_eq_true_iff.mp hw
  rw [← leadingZeros_eq_clz]
  exact runI_unOp (fun x => BitVec.ofNat 64 (leadingZeros x)) h hd rfl rfl

theorem exec_popc (hw : Instr.wf w (.popc d a) = true) (h : starts (.popc d a) s = true) :
    exec (.popc d a) s = .next (Claims.wrote s d (BitVec.ofNat 64 (Claims.popc (s.val a)))) := by
  obtain ⟨hd, _⟩ := Bool.and_eq_true_iff.mp hw
  rw [← popcount_eq_popc]
  exact runI_unOp (fun x => BitVec.ofNat 64 (popcount x)) h hd rfl rfl

theorem exec_bfx {sx : Bool} {wm1 lo : BitVec 6} (hw : Instr.wf w (.bfx sx d a wm1 lo) = true)
    (h : starts (.bfx sx d a wm1 lo) s = true) :
    exec (.bfx sx d a wm1 lo) s = .next (Claims.wrote s d (Claims.field sx (wm1.toNat + 1) lo.toNat (s.val a))) := by
  obtain ⟨hda, _⟩ := Bool.and_eq_true_iff.mp hw
  obtain ⟨hd, _⟩ := Bool.and_eq_true_iff.mp hda
  rw [← bitField_eq_field sx lo.toNat (s.val a) (Nat.succ_pos _)]
  exact runI_unOp (bitField sx (wm1.toNat + 1) lo.toNat) h hd rfl rfl

theorem exec_sext {x : XWidth} (hw : Instr.wf w (.sext x d a) = true) (h : starts (.sext x d a) s = true) :
    exec (.sext x d a) s = .next (Claims.wrote s d (Claims.field true (Claims.bitsOf x) 0 (s.val a))) := by
  obtain ⟨hd, _⟩ := Bool.and_eq_true_iff.mp hw
  have hx : sxLow (XWidth.n x) (s.val a) = Claims.field true (Claims.bitsOf x) 0 (s.val a) := by
    rw [← sxLow_shift_eq_field 0 (s.val a) (by cases x <;> decide), BitVec.ushiftRight_zero]
    rfl
  rw [← hx]
  exact runI_unOp (sxLow (XWidth.n x)) h hd rfl rfl

theorem exec_zext {x : XWidth} (hw : Instr.wf w (.zext x d a) = true) (h : starts (.zext x d a) s = true) :
    exec (.zext x d a) s = .next (Claims.wrote s d (Claims.field false (Claims.bitsOf x) 0 (s.val a))) := by
  obtain ⟨hd, _⟩ := Bool.and_eq_true_iff.mp hw
  rw [← zxLow_shift_eq_field, BitVec.ushiftRight_zero]
  exact runI_unOp (zxLow (XWidth.n x)) h hd rfl rfl

/-- BFI's destination is an s-register, which it also reads. -/
theorem exec_bfi {wm1 lo : BitVec 6} (hw : Instr.wf w (.bfi d a wm1 lo) = true) (h : starts (.bfi d a wm1 lo) s = true) :
    exec (.bfi d a wm1 lo) s = .next (Claims.wrote s d (Claims.inserted (wm1.toNat + 1) lo.toNat (s.val d) (s.val a))) := by
  obtain ⟨hda, _⟩ := Bool.and_eq_true_iff.mp hw
  obtain ⟨hd, _⟩ := Bool.and_eq_true_iff.mp hda
  refine runI_wrote h (List.mem_singleton_self d) (Spec.isDL_of_isS hd) ?_
  rw [mBfi, run_bind_two_sources h rfl, setBits_eq_inserted]

theorem exec_li {x : Word} (hw : Instr.wf w (.li d x) = true) (h : starts (.li d x) s = true) :
    exec (.li d x) s = .next (Claims.wrote s d x) :=
  runI_wrote h (List.mem_singleton_self d) hw (by rw [mLi, run_bind_checkRegs h])

theorem exec_lea {sh : BitVec 3} {x : BitVec 48} (hw : Instr.wf w (.lea sh d a b x) = true)
    (h : starts (.lea sh d a b x) s = true) :
    exec (.lea sh d a b x) s =
      .next (Claims.wrote s d (BitVec.ofInt 64 ((s.val a).toInt + (s.val b).toInt * 2 ^ sh.toNat + x.toInt))) := by
  obtain ⟨hda, _⟩ := Bool.and_eq_true_iff.mp hw
  obtain ⟨hd, _⟩ := Bool.and_eq_true_iff.mp hda
  refine runI_wrote h (List.mem_singleton_self d) hd ?_
  rw [mLea, run_bind_two_sources h rfl, leaSum_eq_ofInt]

theorem exec_sel (hw : Instr.wf w (.sel d a b) = true) (h : starts (.sel d a b) s = true) :
    exec (.sel d a b) s = .next (Claims.wrote s d (if s.me.seen.flags.t then s.val a else s.val b)) := by
  obtain ⟨hda, _⟩ := Bool.and_eq_true_iff.mp hw
  obtain ⟨hd, _⟩ := Bool.and_eq_true_iff.mp hda
  refine runI_wrote h (List.mem_singleton_self d) hd ?_
  rw [mSel, run_bind_two_sources h rfl, run_bind_ok (run_rdFlags s)]

theorem exec_crand (hw : Instr.wf w (.crand d a b) = true) (h : starts (.crand d a b) s = true) :
    exec (.crand d a b) s = .next (Claims.wrote s d (km10 (s.val a) (s.val b))) := by
  obtain ⟨hda, _⟩ := Bool.and_eq_true_iff.mp hw
  obtain ⟨hd, _⟩ := Bool.and_eq_true_iff.mp hda
  refine runI_wrote h (List.mem_singleton_self d) hd ?_
  rw [mCrand, run_bind_two_sources h rfl]

theorem exec_cmp {cc : Cond} {skip : BitVec 2} (h : starts (.cmp cc skip a b) s = true) :
    exec (.cmp cc skip a b) s = .next (Claims.compared s (Claims.compares cc (s.val a) (s.val b)) skip) := by
  refine runI_compared ?_ (condHolds_eq_compares cc (s.val a) (s.val b))
  rw [mCmp, run_bind_two_sources h rfl]

theorem exec_cmpi {cc : Cond} {skip : BitVec 2} {x : BitVec 48} (h : starts (.cmpi cc skip a x) s = true) :
    exec (.cmpi cc skip a x) s = .next (Claims.compared s (Claims.compares cc (s.val a) (x.signExtend 64)) skip) := by
  refine runI_compared ?_ (condHolds_eq_compares cc (s.val a) (sext64 x))
  rw [mCmpi, run_bind_checkRegs h, run_bind_rdS s (starts_src_plain h (List.mem_cons_self ..))]

/-- TEST.Z and TEST.NZ: whether the masked bits are zero is compared with the variant. -/
theorem exec_test {z : Bool} {skip : BitVec 2} {src : Src} (h : starts (.test z skip a src) s = true) :
    exec (.test z skip a src) s = .next (Claims.compared s ((s.val a &&& s.srcVal src == 0) == z) skip) := by
  refine runI_compared ?_ rfl
  rw [mTest, run_bind_checkRegs h, run_bind_rdS s (starts_src_plain h (List.mem_cons_self ..)),
    run_bind_ok (run_rdSrc s (starts_src_all h fun _ => List.mem_cons_of_mem _))]

end

/-- The first part of O2: moves, counts, fields, LEA, SEL, CRAND, the extensions and NOP. -/
theorem scalarUnary_writes : Claims.ScalarUnary := fun _ _ =>
  ⟨exec_nop, fun _ _ => exec_clz, fun _ _ => exec_popc, fun _ _ _ _ _ => exec_bfx, fun _ _ _ _ => exec_bfi,
    fun _ _ => exec_li, fun _ _ _ _ _ => exec_lea, fun _ _ _ => exec_sel, fun _ _ _ => exec_crand,
    fun _ _ _ => exec_sext, fun _ _ _ => exec_zext⟩

/-- The second part of O2: the comparisons and their reserved condition codes. -/
theorem scalarUnary_compares : Claims.ScalarCompare := by
  intro s skip a
  refine ⟨fun _ _ => exec_cmp, fun _ _ => exec_cmpi, fun src h => ?_, fun src h => ?_,
    fun _ _ => decode_compare_reserved, by decide +kernel, by decide +kernel⟩
  · rw [exec_test h]
    simp [beq_eq_decide]
  · rw [exec_test h]
    simp [beq_eq_decide]

/-- Settles O2: the values written are those of R153, and a comparison writes T and ANN alone. -/
theorem scalarUnary : Obligations.ScalarUnary := ⟨scalarUnary_writes, scalarUnary_compares⟩

end Sys2Proof.Machine

/-! ## TRAP and RTE (R165, R166) -/

namespace Sys2Proof.Machine

theorem heldRecs_postCtx (c : Ctx) (f : FaultRec) (s : State) :
    ((postCtx c f s).die (dieOfCore c.coreNo)).heldRecs =
      (s.die (dieOfCore c.coreNo)).heldRecs ++ [recordOf (recordCxid s c) c.thread (f.pc.getD c.pc) f] :=
  congrArg Die.heldRecs (State.die_modDie_same s (dieOfCore c.coreNo) fun d =>
    { d with heldRecs := d.heldRecs ++ [recordOf (recordCxid s c) c.thread (f.pc.getD c.pc) f] })

theorem me_deliverByRecord_singleton (f : FaultRec) (s : State) :
    (deliverByRecord [f] s).me = { s.me with run := .faulted, faults := [f] } :=
  State.me_modMe (postCtx s.me f s) _

/-- The delivery by record of one fault (R76). -/
theorem deliverByRecord_records (f : FaultRec) (s : State) : Claims.Records s (deliverByRecord [f] s) f := by
  unfold Claims.Records
  rw [me_deliverByRecord_singleton]
  exact ⟨rfl, ⟨⟨rfl, rfl, rfl⟩, rfl, rfl, rfl, rfl, rfl⟩, heldRecs_postCtx s.me f s, rfl, rfl, rfl⟩

/-- The bookkeeping that a faulting instruction clears is no part of what a record or the claim about it reads. -/
theorem records_of_settle {s t : State} {f : FaultRec} (h : Claims.Records (s.modMe Ctx.settle) t f) :
    Claims.Records s t f := by
  unfold Claims.Records at h
  rw [State.me_modMe] at h
  exact h

/-- An instruction that faults with a fault outside the handler class, having changed nothing, leaves one record. -/
theorem runI_records {m : M Unit} {i : Instr} {s : State} {f : FaultRec} (hm : m.run s = .error (.fault [f]) s)
    (hi : f.code ≠ 0x01) (hc : handlerClass f = false) :
    ∃ t, runI m i s = .next t ∧ Claims.Records s t f := by
  have hf : f.withCode i = f := by simp only [FaultRec.withCode, decide_eq_false hi, Bool.false_and, Bool.false_eq_true, if_false]
  refine ⟨_, runI_fault hm, ?_⟩
  rw [List.map_singleton, hf, takeException_record (.inl hc)]
  exact records_of_settle (deliverByRecord_records f _)

theorem run_returnFromException_bad {s : State} (h : pcShape s.me.ctl.tpc = false) :
    returnFromException.run s =
      .error (.fault [{ code := 0x03, info := [s.me.ctl.tpc.setWidth 64], taddr := s.me.ctl.tpc }]) s := by
  unfold returnFromException
  rw [run_bind_ok (run_me s)]
  simp only [h]
  rfl

theorem exec_trap_records {s : State} {a : Spec} {n : BitVec 16} (h : starts (.trap a n) s = true) :
    ∃ t, exec (.trap a n) s = .next t ∧
      Claims.Records s t { code := 0x07, info := [0x2C, n.setWidth 64, s.val a], taddr := 0 } := by
  refine runI_records (m := mTrap a n) ?_ (by simp) rfl
  rw [mTrap, run_bind_checkRegs h, run_bind_rdS s (starts_src_plain h (List.mem_cons_self ..)), run_fault]

theorem exec_rte_returns {s : State} (h : pcShape s.me.ctl.tpc = true) :
    exec .rte s = .next (s.ends fun c =>
      { c with pc := c.ctl.tpc, xfer := true, entry := true, ctl := { c.ctl with tcause := 0 } }) := by
  refine (runI_ok (run_returnFromException h)).trans ?_
  rw [State.ends_eq]
  exact congrArg _ (State.modMe_congr s rfl)

/-- Settles O10: TRAP's fault 0x07 and RTE's 0x03 are of no handler class, so each is a record; else RTE resumes at TPC. -/
theorem trapReturn : Obligations.TrapReturn := fun _ =>
  ⟨fun _ _ => exec_trap_records, exec_rte_returns,
    fun h => runI_records (run_returnFromException_bad h) (by simp) rfl⟩

end Sys2Proof.Machine
